-- ==== Sys2Proof/Word.lean ====
section
/-! DEFINITION. The machine's words and their plainest arithmetic: bits, fields of a word, signed
readings. Everything here is spec-independent. -/

namespace Sys2Proof

/-- A byte. -/
abbrev Byte := BitVec 8

/-- A 32-bit register word (R30). -/
abbrev Word32 := BitVec 32

/-- A 64-bit message word (chapter 14). -/
abbrev Word64 := BitVec 64

/-- Bit `i` of a number. -/
def bit (v i : Nat) : Bool := v.testBit i

/-- The `w`-bit field of `v` at `lo`. -/
def bits (v lo w : Nat) : Nat := (v / 2 ^ lo) % 2 ^ w

/-- A Boolean as the number a register bit shows. -/
def b2n (b : Bool) : Nat := if b then 1 else 0

/-- `v` with bit `i` set. -/
def setBit (v i : Nat) : Nat := if v.testBit i then v else v + 2 ^ i

/-- `v` with bit `i` cleared. -/
def clrBit (v i : Nat) : Nat := if v.testBit i then v - 2 ^ i else v

/-- `v` with bit `i` made `b`. -/
def putBit (v i : Nat) (b : Bool) : Nat := if b then setBit v i else clrBit v i

/-- Two's-complement reading of a `w`-bit number. -/
def sext (w v : Nat) : Int := if v % 2 ^ w < 2 ^ (w - 1) then (v % 2 ^ w : Nat) else (v % 2 ^ w : Nat) - (2 ^ w : Nat)

/-- `w`-bit two's-complement encoding of an integer (wrapping). -/
def unsext (w : Nat) (x : Int) : Nat := (x % (2 ^ w : Nat)).toNat

/-- An integer held within limits. -/
def clampI (lo hi x : Int) : Int := if x < lo then lo else if hi < x then hi else x

/-- A number held within limits. -/
def clampN (lo hi x : Nat) : Nat := if x < lo then lo else if hi < x then hi else x

/-- A saturating increment of a `w`-bit counter by `n`. -/
def satAdd (w v n : Nat) : Nat := if v + n < 2 ^ w then v + n else 2 ^ w - 1

end Sys2Proof
end

