-- ==== Sys2Proof/Syntax.lean ====
section
/-! DEFINITION. The commands the block takes: one constructor per row of spec/opcode_table.json, with
the operands the model gives it (log entry 2).  `m` is the fabric master that issues an access.
A measured, analog or cryptographic verdict is an operand; an elapsed time that a row names is the
row's own meaning. -/

namespace Sys2Proof

/-- A parameter header of the flash's SFDP, with the DWORDs of its table (R550). -/
structure SfdpTable where
  id     : BitVec 16
  major  : BitVec 8
  minor  : BitVec 8
  dwords : List Word32
deriving DecidableEq, Repr

/-- What SPF reads of the flash's SFDP (R550): its header, and its parameter headers with their tables.  Beside them,
what JESD216 makes of DWORDs whose layout this model does not take up (log entry 64): whether DWORDs 17 to 20 of the
Basic Flash Parameter Table offer a volatile method for entering 8D-8D-8D, and the dummy clocks of the xSPI Profile
1.0 table. -/
structure Sfdp where
  signature  : Word32
  major      : BitVec 8
  minor      : BitVec 8
  tables     : List SfdpTable
  volatile8d : Bool
  dummy8d    : Nat
deriving DecidableEq, Repr

/-- A die's fuse map (R521): the rows it switches in, whether it passes its own check, and the lines of the rows it
replaces, as the first and the last of each run of lines. -/
structure FuseMap where
  rows  : BitVec 12
  ok    : Bool
  lines : List (Nat × Nat)
deriving DecidableEq, Repr

/-- What the boot ROM finds in a slot beside what it computes itself (R129): the header reads from flash without
error. -/
structure SlotVerdict where
  readable  : Bool
deriving DecidableEq, Repr

/-- A sample as a slice takes it (R220, R224): its index i, its sampling instant in device time and in time elapsed
since reset, both in ps, and the quantiser's 10 bits, in LSB relative to mid-span. -/
structure Samp where
  idx  : Nat
  time : Nat
  up   : Nat
  raw  : BitVec 10
deriving DecidableEq, Repr

/-- A pair of samples of a seam (R236): the quantiser's 10 bits of the slice that serves the slot, and of the slice
that is brought in. -/
structure SeamPair where
  serving : BitVec 10
  other   : BitVec 10
deriving DecidableEq, Repr

/-- The input of one dispersion block (R259): the samples of the crossing words that hold its N samples, lane by
lane, and how many of them come before the block's first. -/
structure EqBlock where
  skip : Nat
  xi : List Samp
  xq : List Samp
  yi : List Samp
  yq : List Samp
deriving DecidableEq, Repr

/-- What enters the butterfly and the carrier recovery of a port over a run of DSP cycles (R259): the dispersion
blocks; how many symbols each DSP cycle makes (R260, NSYM); and the pilots as the butterfly outputs them.  In TRACK they
are those of X and of Y, from (AVG - 1) / 2 pilots before the one that precedes the run on (R272); in SYNC those of the
first and of the second output, the run's last one last (R271). -/
structure EqSpan where
  blocks : List EqBlock
  cycles : List Nat
  pilX   : List (Int × Int)
  pilY   : List (Int × Int)
deriving DecidableEq, Repr

/-- What the loops do in a run: the pilot frequency loop's offset at its end, in kHz (R272); the timing loop's
symbol frequency at its end, in 10^-9 of the nominal one, and how far it has moved its phase, in 2^-32 samples
(R267). -/
structure EqLoops where
  freq   : Int
  timF   : Int
  timP   : Int
deriving DecidableEq, Repr

/-- A run of the adaptation, with its loops at the end. -/
structure EqRun extends EqSpan, EqLoops
deriving DecidableEq, Repr

/-- A run of the adaptation of a port. -/
structure PortRun where
  port : Fin 16
  run  : EqRun
deriving DecidableEq, Repr

/-- The coarse frequency estimate of a port, in kHz, and the dispersion blocks it was made from (R266). -/
structure PortFreq where
  port   : Fin 16
  khz    : Int
  blocks : List EqBlock
deriving DecidableEq, Repr

/-- The pilots of a window of a port (R277): whether their synchronisation is lost; the index of the first of them;
and what X and Y received in their places. -/
structure PilotWindow where
  port     : Fin 16
  syncLost : Bool
  index    : Nat
  x        : List (Int × Int)
  y        : List (Int × Int)
deriving DecidableEq, Repr

/-- What pilot synchronisation has found (R271): whether the polarisations were exchanged, the symbols before the
next pilot, and the index of that pilot. -/
structure PilotSync where
  swap : Bool
  wait : Nat
  idx  : Nat
deriving DecidableEq, Repr

/-- A word from EQ that SOFT of a port looks at (R260), by when the first sample of the crossing word it comes from
was taken, in ps since reset. -/
structure EqWord where
  port : Fin 16
  up   : Nat
deriving DecidableEq, Repr

/-- The code that the TSTATE pins have held, and for how many SLO cycles. -/
structure PinsHeld where
  code : BitVec 3
  held : Nat
deriving DecidableEq, Repr

/-- What a self-check finds (R243): a missing slot clock edge; a late quantiser decision; or a run of 128 slot
samples: their sum and sum of squares, and the number, the sum and the sum of squares of all the converter's
samples over it. -/
inductive SelfCheck
  | clockEdge
  | lateDecision
  | run (sum : Int) (sumsq : Nat) (n : Nat) (allSum : Int) (allSumsq : Nat)
deriving DecidableEq, Repr

/-- An element of a converter (0 to 63 a slice, 64 the punty), with what its self-check finds. -/
structure Checked where
  elem  : Fin 65
  found : SelfCheck
deriving DecidableEq, Repr

/-- A 64B/66B block as a return lane receives it (R436, R474): its sync header, its payload after descrambling, and the
number of its place in the lane's block stream. -/
structure RxBlock where
  sync    : BitVec 2
  payload : Word64
  place   : Nat
deriving DecidableEq, Repr

/-- What the offset sampler finds in an eye (R455): the differences from the main sampler point by point from the
centre on, in steps of 1 mV upward and downward at the best phase, and of 1/64 UI to the left and to the right at the
vertical centre. -/
structure EyeScan where
  up    : List Nat
  down  : List Nat
  left  : List Nat
  right : List Nat
deriving DecidableEq, Repr

/-- The estimates of a window that the spec gives no arithmetic for (R333): the correction of the OSNR for the
device's own noise, in 0.01 dB, and what the butterfly's response gives, in the units of the registers. -/
structure Estimates where
  ownNoise : Int
  cdRes    : BitVec 22
  dgd      : Nat
  pdl      : Nat
  sopMax   : Nat
  sopMean  : Nat
deriving DecidableEq, Repr

/-- A command (opcode table, in the table's order within each chapter). -/
inductive Instr
  -- Package and power (02)
  /-- POWER_ON_RESET: VIN rises, and the sequence runs to the load of the OTP records. -/
  | powerOnReset
  | railFault (r : Fin 8)
  | railReturn (r : Fin 8)
  | firstStageStop
  | vinSag
  | vnvSag
  /-- SAG_RECOVER of the VIN monitor, or of the VNV monitor. -/
  | sagRecover (vnv : Bool)
  /-- NV_ABANDON of an OTP generation write (0), a key provisioning (1) or a flash operation (2); `words`
  OTP words have been written. -/
  | nvAbandon (kind : Fin 3) (words : Nat)
  /-- HOLDUP_MEASURED: the budget in ms. -/
  | holdupMeasured (ms : BitVec 16)
  | holdupCharged
  /-- VOLT_MEAS_UPDATE: VIN and VNV in mV. -/
  | voltMeasUpdate (vin vnv : BitVec 16)
  /-- THERM_SAMPLE: the hottest reading in degrees C, two's complement. -/
  | thermSample (tj : BitVec 8)
  -- Clocks and timing input (03)
  /-- SETTLE_END: the settling delay ends; whether CLKIN is present. -/
  | settleEnd (clkin : Bool)
  | rootLock
  | rootAcqTimeout
  | clkinLoss
  | rootLossOfLock
  /-- CLKIN_RETURN: edges are back, and, if `qualified`, have been for RETURN_MS within the tolerance (R102). -/
  | clkinReturn (qualified : Bool)
  /-- DRIFT_WINDOW: the window's mean deviation in ppm. -/
  | driftWindow (ppm : Int)
  | domSwitchDone (d : Fin 6)
  /-- LOSS_ACK: a write of CLK.LOSS_ACK. -/
  | lossAck (m : Fin 16) (v : Word32)
  /-- TSTATE_ACCEPT: the code on the pins, and the SLO cycles for which they have held it. -/
  | tstateAccept (pins : PinsHeld)
  /-- PHASE_STEP: the measured step in ps. -/
  | phaseStep (ps : Int)
  | gateClose (pg : BitVec 10)
  | gateTmo (pg : BitVec 10)
  /-- SYNC_IN_EDGE: 1/36 ns since the last FAB edge. -/
  | syncInEdge (sub : Nat)
  | syncInMiss
  | syncOutRise
  | syncOutFall
  /-- TIME_STEP, TIME_SET_NOW, TIME_SET_AT_SYNC_IN, TIME_CANCEL: writes of TIME.CMD with OP 1 to 4. -/
  | timeStep (m : Fin 16)
  | timeSetNow (m : Fin 16)
  | timeSetAtSyncIn (m : Fin 16)
  | timeCancel (m : Fin 16)
  | setAtSyncInTimeout
  -- Start-up, reset and recovery (04)
  | resetNLow
  /-- RESET_N_RELEASE: whether CLKIN is present. -/
  | resetNRelease (clkin : Bool)
  /-- RST_CMD: a write of DEV.RST_CMD. -/
  | rstCmd (m : Fin 16) (v : Word32)
  | cmdResetStart
  /-- DEVICE_RESET_APPLY: whether CLKIN is present. -/
  | deviceResetApply (clkin : Bool)
  /-- FLASH_DISCOVERY: what the flash's tables say. -/
  | flashDiscovery (t : Sfdp)
  /-- BOOT_VERIFY: what the boot ROM finds in slot 0 and in slot 1. -/
  | bootVerify (v0 v1 : SlotVerdict)
  | bootWdtExpire
  | fwOk (m : Fin 16)
  | bootRetry (m : Fin 16)
  -- Pages and events (05): the addresses are those of 32-bit registers, `pg` a page number
  /-- LOW_HALF_READ: a 32-bit read anywhere; `fetch` if it is an instruction fetch. -/
  | lowHalfRead (m : Fin 16) (addr : BitVec 40) (fetch : Bool)
  /-- HIGH_HALF_READ: likewise. -/
  | highHalfRead (m : Fin 16) (addr : BitVec 40) (fetch : Bool)
  /-- PAGE_RST: a write of PG_CTL with PAGE_RST at 1. -/
  | pageRst (m : Fin 16) (pg : BitVec 10) (v : Word32)
  | pageResetApply (pg : BitVec 10)
  | pageResetTimeout (pg : BitVec 10)
  | pageCommit (m : Fin 16) (pg : BitVec 10)
  /-- PG_FREEZE: a write of PG_CTL. -/
  | pgFreeze (m : Fin 16) (pg : BitVec 10) (v : Word32)
  /-- ERR_CLR: a write of PG_CTL with ERR_CLR at 1. -/
  | errClr (m : Fin 16) (pg : BitVec 10) (v : Word32)
  | lockTake (m : Fin 16) (pg : BitVec 10)
  | lockRelease (m : Fin 16) (pg : BitVec 10)
  | lockBreak (m : Fin 16) (pg : BitVec 10)
  | evtRawClear (m : Fin 16) (pg : BitVec 10) (v : Word32)
  /-- REGISTER_WRITE: a 32-bit write anywhere; `poison` is the request's poison bit (R30). -/
  | registerWrite (m : Fin 16) (addr : BitVec 40) (v : Word32) (poison : Bool)
  | logRdWrite (m : Fin 16) (v : Word32)
  /-- LOG_ENTRY_WRITE: `bads` first reads of the ring's line find it bad. -/
  | logEntryWrite (bads : Fin 5)
  | faultNRise
  -- Optical front end (06)
  /-- LIGHT_LOSS: a dip at the signal tap, at the LO tap, or at both: its power in 0.1 dBm and how long it lasts
  in ps. -/
  | lightLoss (p : Fin 16) (sig lo : Option (Int × Nat))
  /-- LIGHT_RETURN: the samples of the signal tap, of the LO tap, or of both: a power in 0.1 dBm and the SLO
  cycles for which it has been sampled. -/
  | lightReturn (p : Fin 16) (sig lo : Option (Int × Nat))
  /-- AGC_STEP: each lane's samples over the period. -/
  | agcStep (p : Fin 16) (xi xq yi yq : List Samp)
  | gainRampStep (p : Fin 16)
  | restartSlow (p : Fin 16)
  -- Interleaved converters (07): trims as offset (1/64 LSB), gain (2^-16) and skew (10 fs)
  | cnvLoopLock (n : Fin 64)
  /-- START_CAL_DONE: the trims found for slices 0 to 64, and the punty's skew at each slot. -/
  | startCalDone (n : Fin 64) (cal : List (Int × Int × Int)) (skews : List Int)
  | cnvUnlock (n : Fin 64)
  | cnvRelock (n : Fin 64)
  /-- PUNTY_CAL_DONE: the offset and gain found. -/
  | puntyCalDone (n : Fin 64) (ofs gain : Int)
  /-- SEAM_DECISION: the seam's pairs, and the measured timing offset in 10 fs. -/
  | seamDecision (n : Fin 64) (pairs : List SeamPair) (offset : Int)
  /-- OFFLINE_CAL_DONE: the trims found for the slice. -/
  | offlineCalDone (n : Fin 64) (ofs gain skew : Int)
  | rotDwellEnd (n : Fin 64)
  /-- SLICE_FAULT: the self-check of slice `sl` (64 the punty), and that of another in the same SMP cycle. -/
  | sliceFault (n : Fin 64) (by1 : Checked) (by2 : Option Checked)
  | puntyTakesSlot (n : Fin 64)
  | fgCal (m : Fin 16) (n : Fin 64)
  /-- FG_DONE: the trims found for slices 0 to 64. -/
  | fgDone (n : Fin 64) (cal : List (Int × Int × Int))
  -- Equaliser (08): `run` is what has entered the butterfly since the last command with a run
  /-- EQ_FREQ_DONE: the coarse estimate. -/
  | eqFreqDone (e : PortFreq)
  /-- EQ_BLIND_DONE: what has entered the butterfly in BLIND. -/
  | eqBlindDone (r : PortRun)
  /-- ACQ_DONE: what pilot synchronisation has found, and what has entered the butterfly in SYNC. -/
  | acqDone (p : Fin 16) (sync : PilotSync) (run : EqRun)
  | acqRetry (p : Fin 16)
  /-- LOCK_LOST: whether pilot synchronisation is lost, the index of the first of the pilots received last, and
  those pilots in X and in Y. -/
  | lockLost (w : PilotWindow)
  | reacq (m : Fin 16) (p : Fin 16)
  | bfSwap (m : Fin 16) (p : Fin 16)
  /-- BF_LOAD_DONE: how many first reads of each line find it bad. -/
  | bfLoadDone (p : Fin 16) (bads : List (Fin 5))
  | cdFadeBegin (r : PortRun)
  | bfFadeBegin (r : PortRun)
  /-- FADE_BLOCK of the CD fade, or of the BF fade. -/
  | fadeBlock (bf : Bool) (r : PortRun)
  | cdFadeDone (r : PortRun)
  | bfFadeDone (r : PortRun)
  | guardWindow (r : PortRun)
  | snap (m : Fin 16) (p : Fin 16)
  | snapDone (r : PortRun)
  | cdSwapAtBlockBoundary (r : PortRun)
  -- Traffic statistics (10)
  /-- TSTAT_WINDOW_END: each lane's samples. -/
  | tstatWindowEnd (p : Fin 16) (xi xq yi yq : List Samp)
  /-- TSTAT_WIN_DONE: the estimates that the butterfly's response gives. -/
  | tstatWinDone (p : Fin 16) (est : Estimates)
  -- Precision monitor (11); the timed commands move TICK on to their instant if it lies ahead
  | seqEntryCurrent
  /-- SAMPLE_START of converter `c`. -/
  | sampleStart (c : Fin 24)
  /-- CONVERSION_BOUNDARY of converter `c`: the voltage V in nV that it measures, and in a check conversion the
  one its partner measures. -/
  | conversionBoundary (c : Fin 24) (v partner : Int)
  | timerEvent (t : Fin 16)
  | pwmPeriodStart (o : Fin 64)
  | pwmFallTrigger (o : Fin 64)
  /-- TRIG_TIMEOUT of the current entry, or of the entry in progress on a converter. -/
  | trigTimeout (c : Option (Fin 24))
  | seqtLoWrite (m : Fin 16) (i : BitVec 16) (w : Word32)
  | seqtHiWrite (m : Fin 16) (i : BitVec 16) (w : Word32)
  | injGo (m : Fin 16)
  | pcvCal (m : Fin 16) (c : Fin 24)
  | pcvCalPeriodic (c : Fin 24)
  | pcvCalStart (c : Fin 24)
  /-- PCV_CAL_END: offset (1/16 LSB) and gain deviation (2^-20) found at each gain, gain 1 first. -/
  | pcvCalEnd (c : Fin 24) (found : List (Int × Int))
  | convTimeout (c : Fin 24)
  /-- REFEREE_DONE of pair `k`: the voltages in nV of the 16 conversions of local 30 and of local 31 on the even and on
  the odd converter. -/
  | refereeDone (k : Fin 12) (ref0 gnd0 ref1 gnd1 : List Int)
  /-- RING_RECORD_WRITE: `bads` first reads of the record's line find it bad. -/
  | ringRecordWrite (bads : Fin 5)
  | ringRdWrite (m : Fin 16) (r : Fin 16) (v : Word32)
  | accuWindowEnd
  | accuWinDone
  -- Filter chain (12)
  /-- FILT_INPUT: the channel's oldest result waiting; `bads` first reads of a parison record's line find it
  bad. -/
  | filtInput (n : Fin 48) (bads : Fin 5)
  | filtBankSwap (m : Fin 16) (n : Fin 48)
  /-- FILT_LOAD_DONE: how many first reads of each line find it bad. -/
  | filtLoadDone (n : Fin 48) (bads : List (Fin 5))
  | filtRestart (m : Fin 16) (n : Fin 48)
  | parTrig (m : Fin 16) (n : Fin 48)
  /-- OUT_RECORD_WRITE: `bads` first reads of the record's line find it bad. -/
  | outRecordWrite (n : Fin 48) (bads : Fin 5)
  | outRdWrite (m : Fin 16) (n : Fin 48) (v : Word32)
  | parRdWrite (m : Fin 16) (n : Fin 48) (v : Word32)
  -- Soft output (09)
  /-- STREAM_START: the EQ word that begins a stream. -/
  | streamStart (r : PortRun)
  /-- STREAM_DATA_MESSAGE: the EQ words up to the message's last symbol period. -/
  | streamDataMessage (r : PortRun)
  | markMessage (p : Fin 16)
  | squelchRequest (p : Fin 16)
  /-- EQ_WORD_WITH_NOLOCK: an EQ word; its NOLOCK bit is what STATE gives it, and its SQ bit that of its crossing
  word. -/
  | eqWordWithNolock (w : EqWord)
  -- Lanes and herds (13)
  /-- RX_BLOCK_LOCK: return lane `j` of herd `h` gains block lock. -/
  | rxBlockLock (h : Fin 17) (j : Fin 4)
  /-- TRAIN_REQUEST: the header and the training word `w` received on return lane `j`; an idle block has come before
  them, and after the lane's last block, if `gap`. -/
  | trainRequest (h : Fin 17) (j : Fin 4) (hdr w : Word64) (gap : Bool)
  /-- TRAIN_STATE: as TRAIN_REQUEST. -/
  | trainState (h : Fin 17) (j : Fin 4) (hdr w : Word64) (gap : Bool)
  /-- TRAIN_MAP: as TRAIN_REQUEST. -/
  | trainMap (h : Fin 17) (j : Fin 4) (hdr w : Word64) (gap : Bool)
  /-- TRAIN_TIMEOUT: TX_TRAIN has ended by time or by every lane being done. -/
  | trainTimeout (h : Fin 17)
  | alignTimeout (h : Fin 17)
  | partnerAbsent (h : Fin 17)
  | partnerSilent (h : Fin 17)
  /-- RX_LOS: the return lanes of `lanes` (a mask) lose signal. -/
  | rxLos (h : Fin 17) (lanes : Nat)
  | rxSignalReturn (h : Fin 17) (j : Fin 4)
  /-- RX_LOL: the return lanes of `lanes` (a mask) lose lock; `cdr` if clock recovery is out of lock. -/
  | rxLol (h : Fin 17) (lanes : Nat) (cdr : Bool)
  /-- ADAPT_WINDOW: how often each PAM4 level came up in the window, the lowest first, and the blocks received in
  it. -/
  | adaptWindow (h : Fin 17) (j : Fin 4) (levels : List Nat) (blocks : List RxBlock)
  /-- EYE_SCAN_DONE: what the offset sampler finds in each eye, lowest first. -/
  | eyeScanDone (h : Fin 17) (j : Fin 4) (e0 e1 e2 : EyeScan)
  /-- TX_LANE_FAULT: the self-checks of the lanes of `lanes` (a mask) declare faults. -/
  | txLaneFault (h : Fin 17) (lanes : Nat)
  | switchMarker (h : Fin 17)
  | herdRetrain (m : Fin 16) (h : Fin 17)
  | laneTest (m : Fin 16) (h : Fin 17) (lane : Fin 32) (ret : Bool)
  /-- LANE_TEST_TIMEOUT: lane `lane`, a return lane if `ret`. -/
  | laneTestTimeout (h : Fin 17) (lane : Fin 19) (ret : Bool)
  /-- RETURN_LANES_DESKEWED: the last block received on each return lane. -/
  | returnLanesDeskewed (h : Fin 17) (blocks : List RxBlock)
  -- Bribin Link (14); of a message received, an idle block has come before it, and after the last herd block, if `gap`
  /-- MSG_READ: header, word 1 and the words after it, as deciphered, the tag's 16 bytes, and how many first reads of
  a DRAM line find it bad. -/
  | msgRead (h : Fin 17) (gap : Bool) (hdr w1 : Word64) (more : List Word64) (tag : List Byte) (bads : Fin 5)
  /-- MSG_WRITE: as MSG_READ, with the data words. -/
  | msgWrite (h : Fin 17) (gap : Bool) (hdr w1 : Word64) (data : List Word64) (tag : List Byte) (bads : Fin 5)
  | msgCredit (h : Fin 17) (gap : Bool) (hdr w1 : Word64)
  | msgTelemMargin (h : Fin 17) (gap : Bool) (hdr w1 : Word64) (more : List Word64) (tag : List Byte)
  /-- TRANSACTION_COMPLETE: the `k`-th oldest of session `s`'s requests outstanding completes; `bads`
  as MSG_READ for a request that is issued thereupon. -/
  | transactionComplete (s : Fin 8) (k : Fin 16) (bads : Fin 5)
  | eventMessage (s : Fin 8)
  | telemReportMessage (s : Fin 8)
  | creditInterval (h : Fin 17)
  | replayTimeout (h : Fin 17)
  /-- KEYX_INIT: header, word 1, words 2 to 18 (QP and the nonce), and the words of the authority public key. -/
  | keyxInit (h : Fin 17) (gap : Bool) (hdr w1 : Word64) (words auth : List Word64)
  | keyxReply (s : Fin 8)
  /-- KEYX_FINISH: header and words 1 to 13; also a KEYX message of a SUB the device discards. -/
  | keyxFinish (h : Fin 17) (gap : Bool) (hdr : Word64) (words : List Word64)
  /-- KEYX_ACCEPT: the verification of the FINISH of slot `s`, bound to herd `h`, ends. -/
  | keyxAccept (h : Fin 17) (s : Fin 8)
  | keyxTimeout (s : Fin 8)
  /-- KEYX_END: as MSG_READ. -/
  | keyxEnd (h : Fin 17) (gap : Bool) (hdr w1 : Word64) (more : List Word64) (tag : List Byte)
  | sessionIdle (s : Fin 8)
  | sesKill (m : Fin 16) (slots : BitVec 8)
  -- Stacked memory (15)
  /-- DRAM_READ: `len` bytes at `addr`, for an instruction fetch if `fetch`; `bad` if the first read finds the line
  bad. -/
  | dramRead (m : Fin 16) (addr : BitVec 40) (len : Fin 65) (fetch : Bool) (bad : Bool)
  /-- DRAM_REFETCH of the oldest read waiting: `bad` if it finds the line bad again. -/
  | dramRefetch (bad : Bool)
  /-- DRAM_WRITE of a whole line: 64 bytes. -/
  | dramWrite (m : Fin 16) (addr : BitVec 40) (data : List Byte) (poison : Bool)
  /-- DRAM_PARTIAL_WRITE: 1 to 63 bytes; `bads` first reads find the line bad. -/
  | dramPartialWrite (m : Fin 16) (addr : BitVec 40) (data : List Byte) (poison : Bool) (bads : Fin 5)
  /-- SCRUB_LINE: `bads` first reads of the line find it bad. -/
  | scrubLine (bads : Fin 5)
  | retireAdd (m : Fin 16) (page : BitVec 17)
  | weakClrOne (m : Fin 16) (idx : BitVec 8)
  | weakClrAll (m : Fin 16)
  /-- MEMORY_TRAINING_DONE: what the fuse map of each die says. -/
  | memoryTrainingDone (fuse : List FuseMap)
  -- Serial ports (16)
  | spmSelectFall
  /-- SPM_WRITE_FRAME: the header's ADDR. -/
  | spmWriteFrame (addr : BitVec 40)
  | spmReadFrame (addr : BitVec 40) (bads : Fin 5)
  | spmStatFrame (addr : BitVec 40)
  | spmBadOp (op : BitVec 8) (addr : BitVec 40)
  | spmWriteWord (w : Word32) (bads : Fin 5)
  /-- SPM_ACCESS_DONE: `bads` as MSG_READ for the access issued thereupon. -/
  | spmAccessDone (bads : Fin 5)
  | spmReadWordDue
  /-- SPM_FRAME_END: bits of the unit in progress (0 at a boundary) and, in a WRITE, their value. -/
  | spmFrameEnd (nbits : Fin 48) (w : Word32) (bads : Fin 5)
  | flashWindowRead (m : Fin 16) (addr : BitVec 40) (len : Fin 65) (fetch : Bool)
  /-- FLASH_READ_TIMEOUT of the oldest window read waiting. -/
  | flashReadTimeout
  | flashWindowWrite (m : Fin 16) (addr : BitVec 40) (data : List Byte) (poison : Bool)
  /-- FLASH_FENCE_TIMEOUT of the oldest window write held. -/
  | flashFenceTimeout
  /-- FLASH_POLL: whether the flash is idle; the bytes that a worn unit reads back as after a program, or none where
  the program has cleared the bits it writes as 0. -/
  | flashPoll (idle : Bool) (worn : Option (List Byte))
  | flashStuck
  | flashResetDone
  | spfErase (m : Fin 16) (offset : BitVec 26) (type : Fin 4)
  | qCmdPush (m : Fin 16) (w : Word32)
  | qTxPush (m : Fin 16) (w : Word32)
  | qRxRead (m : Fin 16)
  /-- Q_SEQUENCE_DONE: the words the flash returned for the sequence's in entries, oldest first. -/
  | qSequenceDone (got : List Word32)
  -- Security (17)
  | otpGenWrite (m : Fin 16) (rec : BitVec 8)
  | otpSealed
  | provision (m : Fin 16)
  /-- PROVISION_KEY_DRAWN: the scalar taken, as the 12 words of its record. -/
  | provisionKeyDrawn (scalar : List Word32)
  | rngFail
  | rngRecover
  | secSign (m : Fin 16)
  /-- SIGN_COMPLETE of a KEYX REPLY (0), of a SIGN command (1) or of a report (2). -/
  | signComplete (job : Fin 3)
  | lockstepMismatch (n : Fin 2)
  | coreRestartDone (n : Fin 2)
  | coreInv (m : Fin 16) (n : Fin 2)
deriving DecidableEq, Repr

end Sys2Proof
end

