-- ==== Sys2Proof/Config.lean ====
section
/-! DEFINITION. What one implementation fixes and the spec leaves open: opaque constants without a
body, so that no proof can see a value of them. -/

namespace Sys2Proof

/-- A number the spec leaves open (log entry 8). The step applies it to the counter
`State.freeCtr`, which it then advances, so that each use is a fresh value. -/
opaque Config.freeNat : Nat → Nat

/-- A byte of memory whose contents the spec leaves undefined (R63, R142): applied to
`State.freeCtr` and to the address (log entry 8). -/
opaque Config.freeByte : Nat → Nat → BitVec 8

/-- The boot ROM's bytes. The spec gives the boot ROM an address range (R24) and no contents
(log entry 8). -/
opaque Config.romByte : Nat → BitVec 8

/-- The bytes of the vendor public key that the boot ROM holds (R129, R584), which the spec does not give (log
entry 8). -/
opaque Config.vendorKey : Nat → BitVec 8

/-- The weights, in 2^-14, by which the butterfly interpolates at an instant that lies a fraction, in 2^-32 of a
sample, after one: for that sample and those after it.  The spec says that it interpolates (R267), and no more
(log entry 57). -/
opaque Config.interp : Nat → List Int

/-- What VFS of a converter lies above its least value, in nV, modulo the width of its range (R347, R632; log
entry 59). -/
opaque Config.vfs : Nat → Nat

end Sys2Proof
end

