-- ==== Sys2Proof/Machine/State.lean ====
section
/-! DEFINITION. The block's state as plain data: a sparse store of register fields, their shadows,
the memories, the hidden state of every block, and the queue of waiting commands; the state after
reset; and the reasons a step could stop. -/

namespace Sys2Proof.Machine

/-! ### Registers -/

/-- A sparse store: (key, value) pairs in one canonical form (keys rising, no entry equal to what an
unlisted key reads as; `Store.wf`). -/
abbrev Store (α : Type) := List (Nat × α)

/-- A register field: page, byte offset in the page, lowest bit, width (R160, R173). -/
structure Fld where
  page  : Nat
  off   : Nat
  lo    : Nat
  width : Nat
deriving DecidableEq, Repr

/-- Access types of a field (R11). -/
inductive Acc | ro | rw | wo | w1c
deriving DecidableEq, Repr

/-- How a committed value takes effect (R14): as written, as the nearer limit of a range, as the
nearer limit of a signed range, as 0 when above a limit, or as the next lower odd value. -/
inductive Clamp
  | any
  | rng (lo hi : Nat)
  | srng (w : Nat) (lo hi : Int)
  | gtZero (hi : Nat)
  | odd (lo hi : Nat)
deriving DecidableEq, Repr

/-- A field of a register row: lowest bit, width, access, shadowed, reset value, commit rule. -/
structure FRow where
  lo    : Nat
  width : Nat
  acc   : Acc
  shad  : Bool
  rst   : Nat
  clamp : Clamp
deriving DecidableEq, Repr

/-- A register row: offset, array dimensions (count, stride), fields. -/
structure RRow where
  off    : Nat
  dims   : List (Nat × Nat)
  fields : List FRow
deriving DecidableEq, Repr

/-- The page kinds of R173 (EVT and LINK pages differ by instance, so each is a kind). -/
inductive Kind
  | dev | clk | pwr | otp | sec | time | evt0 | evt1 | evt2 | port | cnv | eq | soft | tstat | pcv
  | seq | pwm | tmr | accu | ring | filt | herd | link0 | link1 | link2 | memc | retire | spm | spf
  | core | acl
deriving DecidableEq, Repr

/-! ### Fabric -/

/-- Completion status (R31). -/
inductive Status
  | ok | unwritten | poison | errUnmapped | errDenied | errLocked | errPoison | errRetired
  | errTimeout | errAlign
deriving DecidableEq, Repr

/-- A fabric completion: status and read data. -/
structure Completion where
  status : Status
  data   : List Byte
deriving DecidableEq, Repr

/-- A fabric request (R21, R30): master, first byte address, direction, instruction fetch, length in
bytes, data of a write, poison bit; the model's own token by which a later completion finds its request
(log entry 4); for an access to stacked DRAM, how many of the first reads of its line find it bad (R509;
log entry 2); the FAB cycle in which it reaches its target's port (R28); whether its completion is discarded
(R155, R146 step 1); and whether its page has accepted it, so that checks 1 to 4 of R162 are behind it (R598). -/
structure Req where
  master : Nat
  addr   : Nat
  write  : Bool
  fetch  : Bool
  size   : Nat
  data   : List Byte
  poison : Bool
  token  : Nat
  bads   : Nat
  cycle  : Nat
  dead   : Bool
  passed : Bool
deriving DecidableEq, Repr

/-- A two-half latch of one master and page (R171): latched words by offset. -/
structure Latch where
  master : Nat
  page   : Nat
  words  : List (Nat × Nat)
deriving DecidableEq, Repr

/-- Fabric and page state. -/
structure Bus where
  /-- last completion at each master's port (R31). -/
  done      : Vector Completion 16
  /-- accesses waiting for a switching domain, a closing gate or a page reset, oldest first (R83, R91, R151). -/
  waiting   : List Req
  /-- commit writes that complete once the gate they have requested has closed (R164, R165). -/
  commits   : List Req
  /-- latches of R171, at most one per master and page. -/
  latches   : List Latch
  /-- words held by FREEZE, by page*4096+offset (R172). -/
  frozen    : List (Nat × Nat)
  /-- pages whose commits wait for the block to run (R92, R636): the page's entries in effect before
  the first of them. -/
  deferred  : List (Nat × List (Nat × Nat))
  /-- requests issued, which number the requests. -/
  token     : Nat
  /-- pages whose gate or reset waits for an idle bus: requests numbered from there arrived after it
  (R91, R151). -/
  marks     : List (Nat × Nat)
  /-- the fabric accepts requests (R146 step 1). -/
  accepting : Bool
deriving DecidableEq, Repr

/-! ### Power, clocks, time, boot -/

/-- NV decision of R62. -/
inductive NvDecision | none | complete | abandon
deriving DecidableEq, Repr

/-- Hidden power state (chapter 02). -/
structure PwrH where
  /-- rails in regulation now, one bit each (R54). -/
  rails    : Nat
  /-- rails that have left regulation by a failure of their own and have not returned (R56). -/
  failed   : Nat
  /-- the hold-up bank is fully charged (R57, R638). -/
  bankFull : Bool
  /-- PWRGOOD has risen since VIN rose (R49). -/
  goodSeen : Bool
  /-- RESET_N pin level, true is high. -/
  resetN   : Bool
  /-- the THERM_CRIT condition of R68 holds; the traffic machine is stopped. -/
  therm    : Bool
deriving DecidableEq, Repr

/-- What a domain runs from (R82). -/
inductive Source
  | stopped
  | root (div : Nat)
  | bypass (byp : Nat)
deriving DecidableEq, Repr

/-- Hidden clock state (chapter 03). -/
structure ClkH where
  /-- the clock each domain runs from. -/
  cur      : Vector Source 6
  /-- the clock each domain is switching to (BUSY). -/
  next     : Vector (Option Source) 6
  /-- measured root period while acquiring, units of 2^-16 of 1/36 ns (R89). -/
  measQ    : Nat
  /-- monitor-reference time into the present 1 us window, 2^-16 of 1/36 ns (R89). -/
  winUnits : Nat
  /-- commits of the CLK page that are held (R84). -/
  held     : Nat
deriving DecidableEq, Repr

/-- Device time and its hidden companions (chapter 03). -/
structure TimeH where
  /-- device time in 1/36 ns (R87), modulo 2^64 ns. -/
  units    : Nat
  /-- further fraction, 2^-16 of 1/36 ns (R89). -/
  sub      : Nat
  /-- elapsed time since reset in 1/36 ns, moved by no command (log entry 5). -/
  uptime   : Nat
  /-- FAB cycles since reset (log entry 5). -/
  cycle    : Nat
  /-- FAB time not yet counted as a cycle, 1/36 ns. -/
  fabRem   : Nat
  /-- SLO time not yet counted into TICK, 1/36 ns. -/
  sloRem   : Nat
  /-- MGT time not yet counted into `mgt`, 1/36 ns, and MGT cycles since reset (R607). -/
  mgtRem   : Nat
  mgt      : Nat
  /-- TIME.TMR tick: SLO cycles since reset (R361). -/
  tick     : Nat
  /-- stamp of the last SYNC_IN edge in 1/36 ns, once there has been one. -/
  lastEdge : Option Nat
  /-- net change that commands made to device time since that edge, 1/36 ns (R110). -/
  cmdDelta : Int
  /-- operand of the pending SET_AT_SYNC_IN, 1/36 ns, and uptime of the command (R115, R116). -/
  pendAdj  : Nat
  pendAt   : Nat
  /-- next SYNC_OUT instant, ns (R111, R118). -/
  nextOut  : Nat
  /-- SYNC_OUT level and, while high, the uptime at which its width ends. -/
  outEnd   : Option Nat
  /-- the device times, in ns, at which TRUST has changed, with what it became, newest first (R417). -/
  trustLog : List (Nat × Nat)
deriving DecidableEq, Repr

/-- Where the power-up sequence stands (R126, R146). -/
inductive BootStage
  | off        -- VIN is absent
  | rising     -- step 2, held by a rail out of regulation (R56)
  | settling   -- steps 2 and 3
  | held       -- step 4, waiting for RESET_N
  | clocks     -- steps 4 to 6
  | memory     -- step 7 done
  | flash      -- step 8 done
  | running    -- handed over
  | recovery   -- R138
  | resetting  -- a device reset is between steps 1 and 3 of R146
deriving DecidableEq, Repr

/-- Boot and reset state. -/
structure BootH where
  stage     : BootStage
  /-- a command reset is scheduled, by this master (R141). -/
  cmdReset  : Option Nat
  /-- causes taken by the device reset in progress (R147). -/
  causePin  : Bool
  causeCmd  : Bool
  causeWdt  : Bool
  /-- FAB cycle in which it began. -/
  resetAt   : Nat
  /-- the slot whose watchdog expired, until the boot that follows has verified (R136). -/
  wdtSkip   : Option Nat
deriving DecidableEq, Repr

/-! ### Events -/

/-- A raise waiting for the log (R179). -/
structure LogEntry where
  serial : Nat
  id     : Nat
  cycle  : Nat
  ns     : Nat
  frac   : Nat
  trust  : Nat
deriving DecidableEq, Repr

/-- A notice waiting for a session (R184). `logSeq` is none while the raise still waits for the
log. -/
structure Notice where
  serial : Nat
  cycle  : Nat
  id     : Nat
  ns     : Nat
  frac   : Nat
  trust  : Nat
  logSeq : Option Nat
deriving DecidableEq, Repr

/-- Event, log and pin state (chapter 05). -/
structure EvtH where
  /-- raises waiting for the log, oldest first, at most 1,024. -/
  logQ      : List LogEntry
  serial    : Nat
  /-- notices waiting per session, at most 64. -/
  notices   : Vector (List Notice) 8
  /-- notices dropped since the last notice delivered. -/
  dropSince : Vector Nat 8
  /-- FAULT_N is low. -/
  faultLow  : Bool
  /-- uptime of the last fall. -/
  fallAt    : Nat
deriving DecidableEq, Repr

/-! ### Ports and converters -/

/-- A light-loss detector (R205, R208). -/
inductive Det | off | loss | good
deriving DecidableEq, Repr

/-- Hidden port state (chapter 06). -/
structure PortH where
  sig      : Det
  lo       : Det
  /-- the tap powers last sampled, in 0.1 dBm, and the SLO cycles for which return has been counted (R206). -/
  sigDbm   : Int
  loDbm    : Int
  sigQual  : Nat
  loQual   : Nat
  /-- PORT[p]'s own page has been reset and not yet committed enabled (R145). -/
  cfgWait  : Bool
  /-- uptime at which the restart in progress began. -/
  rstStart : Nat
  /-- lanes done with their gain in this restart (R215 step 2). -/
  laneDone : Vector Bool 4
  /-- the uptimes at which the port has been squelched and no longer squelched, newest first (R250). -/
  sqLog    : List (Nat × Bool)
deriving DecidableEq, Repr

/-- The trims of the slice that serves a slot, as of an uptime: OFS and GAIN as their registers hold them (R224,
R238). -/
structure TrimAt where
  slot  : Nat
  since : Nat
  ofs   : Nat
  gain  : Nat
deriving DecidableEq, Repr

/-- An interval of uptime, in 1/36 ns, in which the samples of a slot carry code 0 and OR 0, and their words
HOLE (R244, R247); open while the slot waits for its slice. -/
structure Hole where
  slot  : Nat
  since : Nat
  till  : Option Nat
deriving DecidableEq, Repr

/-- What a converter has counted in a window (R252, R253): in-range samples, their sum and sum of squares,
extremes, over-range samples, the histogram's bins and its over-range count. -/
structure LaneStats where
  nsamp  : Nat
  sum    : Int
  sumsq  : Nat
  mn     : Int
  mx     : Int
  beyond : Nat
  hist   : List Nat
  histOr : Nat
deriving DecidableEq, Repr

/-- In-range samples of a slot in a window, with their sum and sum of squares; and what correlates them with the
interpolation of their neighbours: the sum of difference times slope, and of the slope's square, both times 4
(R337). -/
structure SlotSum where
  n     : Nat
  sum   : Int
  sumsq : Nat
  corr  : Int
  slope : Nat
deriving DecidableEq, Repr

/-- In-range pairs of I and Q codes of a polarisation in a window, with the sums of their codes, squares and products
(R333). -/
structure IqSum where
  n   : Nat
  i   : Int
  q   : Int
  ii  : Nat
  qq  : Nat
  iq  : Int
deriving DecidableEq, Repr

/-- Hidden converter state (chapter 07). -/
structure CnvH where
  /-- the punty's skew for each slot, units of 10 fs (R234). -/
  punSkew   : Vector Int 64
  /-- trims that an abandoned step restores: slice k's OFS, GAIN and SKEW codes, or at seam-in the punty's
  skew for slot k as the third (R234, R242). -/
  saved     : Option (Nat × Nat × Nat)
  /-- rotation step in progress or next: 0 the punty, k+1 slice k (R233). -/
  step      : Nat
  /-- seams run in the present hand-over (R237). -/
  seams     : Nat
  /-- slices marked seam-in-failed (R240). -/
  inFail    : List Nat
  /-- a seam-in has failed and none has matched since (R240). -/
  lastIn    : Bool
  /-- a failed slice whose slot the punty has not taken yet (R244). -/
  hole      : Option Nat
  /-- the holes so far. -/
  holes     : List Hole
  /-- the trims of the slots so far, newest first. -/
  trims     : List TrimAt
  /-- the sampling loop is locked (R232). -/
  locked    : Bool
  /-- STRIDE_K as taken at the start of the window in progress (R253). -/
  stride    : Option Nat
  /-- results of ended windows, with SQ, PARTIAL and DEGR, that wait for the block to run (R83, R254). -/
  winOut    : List (LaneStats × Nat)
  /-- squelched, outside service, degraded at any time in the window (R254). -/
  winSq     : Bool
  winPart   : Bool
  winDegr   : Bool
deriving DecidableEq, Repr

/-! ### Equaliser and soft output -/

/-- A CD bank: D (two's complement, 22 bits), wavelength in 10 pm, the four skews (R279). -/
structure CdBank where
  d    : Int
  lam  : Nat
  skew : List Int
deriving DecidableEq, Repr

/-- A BF bank: taps as image words (16-bit I, 16-bit Q), filter by filter; the empty mark (R279,
R283). -/
structure BfBank where
  ntaps : Nat
  taps  : List Nat
  empty : Bool
deriving DecidableEq, Repr

/-- Where the timing loop stands (R267): its symbol frequency in 10^-9 of the nominal one, and the sample instant of
the next symbol, in 2^-32 samples, once it has chosen one. -/
structure Timing where
  ppb  : Int
  next : Option Int
deriving DecidableEq, Repr

/-- A symbol period at the scale of R260, with the index of its pilot if it is one, and the HOLE and SQ of its word. -/
structure EqSym where
  x     : Int × Int
  y     : Int × Int
  pilot : Option Nat
  hole  : Bool
  sq    : Bool
deriving DecidableEq, Repr

/-- Hidden equaliser state (chapter 08). -/
structure EqH where
  cdA      : CdBank
  cdB      : CdBank
  bfA      : BfBank
  bfB      : BfBank
  /-- a CD request has written the standby bank and waits for its block boundary: a fade in TRACK
  (R284), a plain swap in FREQ, BLIND and SYNC (R289). -/
  cdReady  : Bool
  /-- the request behind `cdReady` was made outside TRACK, so it swaps without a fade. -/
  cdPlain  : Bool
  /-- pending CD request (R287). -/
  cdPend   : Option CdBank
  /-- CD fade in progress: K. -/
  cdFade   : Option Nat
  /-- address of the BF load in progress. -/
  bfLoad   : Option Nat
  /-- a BF load has completed and waits for its block boundary. -/
  bfReady  : Bool
  /-- address captured by the pending BF request. -/
  bfPend   : Option Nat
  /-- BF fade in progress: K. -/
  bfFade   : Option Nat
  /-- consecutive windows not of low information while the guard holds (R294). -/
  goodWin  : Nat
  /-- taps of the bank in use at the start of the present guard window, the timing loop then, and the symbols since
  (R292). -/
  winTaps  : List Nat
  winTim   : Timing
  winN     : Nat
  /-- the window's non-pilot symbols so far, newest first, in X and in Y (R291). -/
  winX     : List (Int × Int)
  winY     : List (Int × Int)
  /-- frequency offset in kHz (R266). -/
  freq     : Int
  tim      : Timing
  /-- the symbols before the next pilot, and that pilot's index (R271). -/
  pil      : Nat × Nat
  /-- the first sample of the next dispersion block to be counted (R328). -/
  blkNext  : Nat
  /-- tap updates on their way, oldest first, one to a DSP cycle (R268): their sums in 2^-14, I and Q by tap. -/
  updQ     : List (List (Int × Int))
  /-- the last 256 decisions of X and of Y, newest first (R291). -/
  decX     : List (Int × Int)
  decY     : List (Int × Int)
  /-- a snapshot was requested during a BF load or fade that has not ended (R295). -/
  snapWait : Bool
  /-- uptime at which the acquisition began. -/
  acqStart : Nat
deriving DecidableEq, Repr

/-- A message on a lane: its 64-bit words as numbers. -/
abbrev Msg := List Nat

/-- Hidden soft-output state (chapter 09). -/
structure SoftH where
  /-- settings fixed for the stream (R299). -/
  fmt     : Nat
  modu    : Nat
  perLog2 : Nat
  /-- first pilot of the stream: offset and index. -/
  pfirst  : Nat
  pidx    : Nat
  /-- SS_GAIN, the weights W0 to W3, LLR_GAIN and NV_LOG2 taken for the message in progress (R300). -/
  gain    : Nat
  wts     : List Nat
  llrGain : Nat
  nvLog2  : Nat
  /-- squared errors of the stream's pilots in X and in Y, newest first, at most 4,096 (R304). -/
  nvX     : List Nat
  nvY     : List Nat
  /-- messages of the stream handed over so far, and the symbol periods after them, oldest first. -/
  index   : Nat
  syms    : List EqSym
  /-- the last EQ word had SQ at 1. -/
  sqWord  : Bool
  /-- the budget failed: the stream ends at the next boundary (R314). -/
  overEnd : Bool
  /-- a commit changed CFG.FMT in effect: the stream ends at the next boundary (R314). -/
  fmtEnd  : Bool
  /-- data messages handed to the herd and not yet begun (R315). -/
  queue   : List Msg
  /-- a message has been carried since the last discard (R322). -/
  carried : Bool
deriving DecidableEq, Repr

/-! ### Measurement windows -/

/-- A window schedule (R327, R384): enable, START in ns, length in ns. -/
structure Sched where
  en    : Bool
  start : Nat
  per   : Nat
deriving DecidableEq, Repr

/-- A scheduled or running window: nominal start and end in ns, and whether device time had reached its
start before a backward step (R331). -/
structure Win where
  start : Nat
  fin   : Nat
  begun : Bool
deriving DecidableEq, Repr

/-- What EQ[p] has seen of a window (R328, R333): its dispersion blocks; those in TRACK, and those of them
unguarded and clear of a HOLE; the blocks that CD_COMP is the mean of, with the sum of their CD_NOW; the sum, the least
and the greatest of the frequency offset in kHz over the blocks in TRACK; and the pilots in TRACK, with the errors of
X and of Y and the sum of the squared distances from the known ones. -/
structure EstAcc where
  blocks : Nat
  track  : Nat
  clear  : Nat
  cdN    : Nat
  cdSum  : Int
  fSum   : Int
  fMin   : Int
  fMax   : Int
  pilots : Nat
  errX   : Nat
  errY   : Nat
  dist   : Nat
deriving DecidableEq, Repr

/-- An ended window of a port whose results are not yet out (R332): the nominal window, and whether device time had
stepped back in it; WIN_FLAGS; the sums of the four lanes' slots, and of the pairs of I and Q; whether a light
detector was in loss in it; and what EQ[p] has seen of it. -/
structure Ended where
  win   : Win
  back  : Bool
  flags : Nat
  slots : List (List SlotSum)
  iqX   : IqSum
  iqY   : IqSum
  dark  : Bool
  est   : EstAcc
deriving DecidableEq, Repr

/-- Hidden statistics state (chapter 10). -/
structure TstatH where
  sched   : Sched
  /-- schedule of a commit that waits for the end of the window in progress (R329). -/
  pend    : Option Sched
  /-- the window in progress, or the next one. -/
  win     : Option Win
  /-- flags of the window in progress (R331, R335, R336). -/
  sq      : Bool
  notrack : Bool
  guard   : Bool
  stepped : Bool
  fade    : Bool
  /-- a light detector has been in loss in it; what EQ[p] has seen of it; device time has stepped back in it (R331,
  R333). -/
  dark    : Bool
  est     : EstAcc
  back    : Bool
  /-- where a forward step over its end has landed, 1/36 ns (R331). -/
  jump    : Option Nat
  /-- FAB cycle in which the last window ended, and its nominal end in ns, or where a step over it landed (R329). -/
  closed  : Option (Nat × Nat)
  /-- ended windows whose results are not yet out, oldest first. -/
  ended   : List Ended
deriving DecidableEq, Repr

/-! ### Precision monitor -/

/-- An entry or an injected conversion being worked on (R351 to R358, R367). -/
structure Work where
  lo      : Nat
  hi      : Nat
  idx     : Nat
  /-- samples taken, and their sums on the serving converter and on the check partner. -/
  taken   : Nat
  sum     : Nat
  psum    : Nat
  orf     : Bool
  late    : Bool
  preempt : Bool
  cover   : Bool
  /-- a check conversion that still has both converters (R372). -/
  chk     : Bool
  /-- tick of the next sample's trigger instant, once its event has come. -/
  trigAt  : Option Nat
  /-- trigger instants of the same source after it, whose events have come too (R358). -/
  more    : List Nat
  /-- tick from which the event is awaited (R359). -/
  since   : Nat
deriving DecidableEq, Repr

/-- What a running conversion belongs to. -/
inductive ConvFor | entry | inj | helper
deriving DecidableEq, Repr

/-- A running conversion: owner, start tick, device time of its start in ns, and TRUST then. -/
structure Conv where
  kind  : ConvFor
  tick  : Nat
  stamp : Nat
  trust : Nat
deriving DecidableEq, Repr

/-- Hidden PCV state (chapter 11). -/
structure PcvH where
  /-- the entry in progress on this converter. -/
  work  : Option Work
  conv  : Option Conv
  /-- no calibration has ended since the converter left OFF (R369). -/
  first : Bool
  /-- TICK at which the calibration in progress began. -/
  calAt : Nat
  /-- TICK of the converter's last conversion start (R346). -/
  last  : Option Nat
deriving DecidableEq, Repr

/-- Hidden sequencer state. -/
structure SeqH where
  /-- the current entry, waiting for its first sample. -/
  cur      : Option Work
  /-- index of the next entry to reach. -/
  pos      : Nat
  /-- entries reached in this pass. -/
  visited  : Nat
  /-- MODE of this pass (R360). -/
  single   : Bool
  /-- TICK of each timer's last event. -/
  timerAt  : Vector (Option Nat) 16
  /-- a late entry in this pass, and in the pass before. -/
  late     : Bool
  lateLast : Bool
  /-- low words held per master: master, entry, word (R353). -/
  latches  : List (Nat × Nat × Nat)
  /-- the injected conversion, pending or running (R367), and the converter that holds the samples it has taken. -/
  inj      : Option Work
  injAt    : Option Nat
  /-- pairs whose referee runs (R373). -/
  referee  : List Nat
deriving DecidableEq, Repr

/-- Hidden PWM state of one output (R362 to R365). -/
structure PwmH where
  carry  : Nat
  on     : Nat
  high   : Bool
  /-- settings in use. -/
  per    : Nat
  phase  : Nat
  /-- TICK of the last period start under the settings in use. -/
  start  : Option Nat
  /-- a page reset's fall to duty 0 goes on (R364). -/
  fall   : Bool
  /-- the duty taken at the last period start (R365). -/
  duty   : Nat
deriving DecidableEq, Repr

/-- Running sums of one accumulator (R385). -/
structure AccuRec where
  n     : Nat
  sum   : Nat
  sumsq : Nat
  mn    : Nat
  mx    : Nat
  orN   : Nat
  cover : Bool
  late  : Bool
deriving DecidableEq, Repr

/-- Hidden accumulator state. -/
structure AccuH where
  recs    : Vector AccuRec 64
  sched   : Sched
  pend    : Option Sched
  win     : Option Win
  stepped : Bool
  /-- where a forward step over its end has landed, 1/36 ns (R384). -/
  jump    : Option Nat
  /-- TICK of the last backward step in the window in progress. -/
  backAt  : Option Nat
  /-- ended windows whose results are not yet out, oldest first. -/
  ended   : List (Win × Nat × Vector AccuRec 64)
deriving DecidableEq, Repr

/-- A class M result on its way to a ring or a channel (R357, R379). -/
structure Res where
  ns      : Nat
  trust   : Nat
  result  : Nat
  orf     : Bool
  late    : Bool
  preempt : Bool
  cover   : Bool
  chk     : Nat
  entry   : Nat
  input   : Nat
  /-- the converter that took the samples, the converter named, and DEST. -/
  conv    : Nat
  named   : Nat
  dest    : Nat
  /-- TICK at which it left the converter (R380). -/
  tick    : Nat
deriving DecidableEq, Repr

/-! ### Filter chain -/

/-- A coefficient bank of a channel (R410). -/
structure FBank where
  ntaps : List Nat
  shift : List Nat
  coef  : List (List Int)
  empty : Bool
deriving DecidableEq, Repr

/-- Where an anneal stands (R413). -/
inductive Anneal
  | none
  /-- priming: inputs taken by each stage of the new chain. -/
  | prime (taken : List Nat)
  /-- fading: K and outputs done. -/
  | fade (k pos : Nat)
deriving DecidableEq, Repr

/-- Tone settings in use for the block (R422). -/
structure Tone where
  en   : Bool
  len  : Nat
  onN  : Nat
  offN : Nat
  pinc : Nat
  on   : Nat
  off  : Nat
deriving DecidableEq, Repr

/-- A parison capture (R426 to R428). -/
structure Paris where
  /-- 0 not armed, 1 armed, 2 post-trigger (STAT.PAR_STATE without full). -/
  state  : Nat
  k      : Nat
  m      : Nat
  trigM  : Nat
  stamp  : Nat
  src    : Nat
  /-- the last record since arming that carried each: a failed write, FADE, OR, GAP. -/
  loss   : Option Nat
  fade   : Option Nat
  orf    : Option Nat
  gap    : Option Nat
deriving DecidableEq, Repr

/-- Hidden channel state (chapter 12). -/
structure FiltH where
  /-- the FAB cycle of the last trigger that reached the channel, and whether a parison took it (R427). -/
  trigAt  : Option (Nat × Bool)
  /-- selected results not yet processed, oldest first. -/
  inQ     : List Res
  /-- the directory entry last written, as its 16 words (R427, R428). -/
  parLast : List Nat
  /-- delay line, newest first: value, stamp, and TRUST at the stamp (R404, R405). -/
  line    : List (Int × (Nat × Nat))
  /-- WARM counts: inputs taken by the delay line and by each stage (R408, R415). -/
  taken   : Nat
  wcnt    : List Nat
  /-- inputs taken by each stage since the channel started (R406). -/
  cnt     : List Nat
  /-- stage histories of the chain in use, newest first. -/
  hist    : List (List Int)
  /-- stage histories of the incoming chain. -/
  histN   : List (List Int)
  bankA   : FBank
  bankB   : FBank
  anneal  : Anneal
  /-- bank load in progress: address. -/
  load    : Option Nat
  /-- pending swap request: address. -/
  pend    : Option Nat
  /-- output number since RUN (R420). -/
  m       : Nat
  /-- outputs into the present tone block; none while no block is in progress. -/
  blk     : Option Nat
  /-- the block's sums I and Q, in units of 2^-64 (R420). -/
  sumI    : Int
  sumQ    : Int
  tone    : Tone
  onRun   : Nat
  offRun  : Nat
  prevTs  : Option Nat
  /-- flags since the last final output: OR, COVER, LATE, PREEMPT, GAP, and SAT of a stage. -/
  fOr     : Bool
  fCover  : Bool
  fLate   : Bool
  fPre    : Bool
  fGap    : Bool
  fSat    : Bool
  par     : Paris
  /-- output records waiting to be written, oldest first: four words each. -/
  outQ    : List (List Nat)
deriving DecidableEq, Repr

/-! ### Lanes and herds -/

/-- Hidden herd state (chapter 13). -/
structure HerdH where
  /-- lane maps in effect: physical lanes, ascending (R435). -/
  txMap    : List Nat
  rxMap    : List Nat
  /-- maps that wait for the switch marker (R458). -/
  newTx    : Option (List Nat)
  newRx    : Option (List Nat)
  /-- the MAP words of a map that waits have not been sent (R458, R462). -/
  mapTx    : Bool
  mapRx    : Bool
  /-- map lanes that failed after the MAP words of the failover in progress (R462). -/
  lateTx   : List Nat
  lateRx   : List Nat
  /-- return lanes ready in the present acquisition, ascending (R442). -/
  ready    : List Nat
  /-- last RESPONSE word of each transmit lane; none before its first request (R443). -/
  resp     : Vector (Option Nat) 19
  /-- the device has deskewed the return map; RX_ALIGNED has been received (R446). -/
  deskewed : Bool
  aligned  : Bool
  /-- lanes under test (R464). -/
  testTx   : List Nat
  testRx   : List Nat
  /-- consecutive windows inside the limits while adaptation holds, per return lane (R454). -/
  goodWin  : Vector Nat 4
  /-- the equaliser taps of each return lane, as a free value that names the setting (R454, log entry 67). -/
  taps     : Vector Nat 4
  /-- the return lane from which the eye scan goes on (R455). -/
  scan     : Nat
  /-- after a TRAIN header that failed, what a return lane receives is discarded up to an idle block (R471). -/
  seek     : Vector Bool 4
deriving DecidableEq, Repr

/-- The lines of one herd's transmit lanes (R437, R438, R472, R473). -/
structure LineH where
  /-- scrambler state of each lane: its last 58 bits sent, the newest least significant (R438). -/
  scr    : Vector Nat 19
  /-- PAM4 levels of the last block sent on each lane (R437). -/
  levels : Vector (List Nat) 19
  /-- number of the next herd block (R473). -/
  n      : Nat
  /-- herd blocks sent since an idle block (R472), and since an alignment marker (R473). -/
  run    : Nat
  since  : Nat
  /-- herd blocks and markers' blocks sent since the last MAP word of a failover (R458). -/
  after  : Nat
  /-- count of the last alignment marker (R474). -/
  marks  : Nat
deriving DecidableEq, Repr

/-! ### Bribin Link -/

/-- A message of the link layer without its sequence number: kind, slot, protection, and the
plaintext words between the header and the tag (R469, R487). -/
structure Body where
  kind  : Nat
  slot  : Nat
  enc   : Bool
  words : List Nat
deriving DecidableEq, Repr

/-- A message the device has sent: its extended counter X (R479), and the words after word 0 as they go out: an ENC
message's are ciphertext, with the tag (R494). -/
structure Sent where
  x      : Nat
  body   : Body
  sealed : List Nat
deriving DecidableEq, Repr

/-- Hidden link state of one herd (chapter 14). -/
structure LinkH where
  /-- the sender's next X and the receiver's expected value E (R479). -/
  txX      : Nat
  rxE      : Nat
  /-- a CREDIT has been received since the last reset (R480). -/
  peerSeen : Bool
  /-- the peer's last LIMIT (R482), and whether there has been one. -/
  limit    : Nat
  /-- total cost of the messages sent, of those processed, and of those processed and freed (R482). -/
  sentCost : Nat
  procCost : Nat
  freed    : Nat
  /-- unreleased messages, oldest first (R484). -/
  buf      : List Sent
  /-- a CREDIT is due; with NAK; a NAK has been sent for the present E (R479, R483). -/
  due      : Bool
  nakDue   : Bool
  nakSent  : Bool
  /-- messages waiting to be sent, per slot, oldest first (R476 item 7). -/
  queues   : Vector (List Body) 8
  /-- per slot, the key under which an END that still waits goes out after its session has ended (R494, R502). -/
  endKeys  : Vector (List Byte) 8
  /-- a replay in progress: the X from which messages are still to go out again (R485, R486). -/
  resend   : Option Nat
  /-- herd blocks received are discarded up to the next idle block (R471, R475). -/
  seek     : Bool
  /-- slot last served. -/
  served   : Nat
  /-- a new message waits for replay space (R484). -/
  stalled  : Bool
  /-- STREAM counter (R478). -/
  stream   : Nat
deriving DecidableEq, Repr

/-- A session's request (R488): the REQ_SEQ of its message, the request, FENCE, and its completion
once there is one, with its rank in the order of completion; `cost` is what its message holds of the receive buffer
until it is issued. -/
structure SesReq where
  seq    : Nat
  req    : Req
  fence  : Bool
  cost   : Nat
  compl  : Option Completion
  rank   : Nat
deriving DecidableEq, Repr

/-- Where a key exchange stands (R498). -/
inductive Exch
  | none
  /-- INIT accepted, waiting for the signature of REPLY. -/
  | signing
  /-- the signature is made; REPLY is to be sent. -/
  | signed
  /-- REPLY sent, waiting for FINISH. -/
  | replied
  /-- FINISH received, being verified. -/
  | verifying
deriving DecidableEq, Repr

/-- Hidden session state of one slot (chapter 14). -/
structure SesH where
  exch    : Exch
  /-- words 1 to 31 of INIT, and words 1 to 43 of REPLY as far as made (R498). -/
  init    : List Nat
  reply   : List Nat
  /-- words 1 to 13 of FINISH. -/
  finish  : List Nat
  /-- the FAB cycle in which INIT was processed (R501). -/
  initAt  : Nat
  /-- the ephemeral private key, until the keys are derived (R498, R499). -/
  eph     : List Nat
  /-- keys of the session, partner to device and device to partner (R499). -/
  keyIn   : List Byte
  keyOut  : List Byte
  /-- requests processed and not yet issued, and requests issued and not yet completed. -/
  backlog : List SesReq
  out     : List SesReq
  /-- reports waiting, 48 words each with their port (R492). -/
  reports : List (Nat × List Nat)
deriving DecidableEq, Repr

/-! ### Stacked memory -/

/-- The memories' contents, as sparse stores in canonical form (R24, R506, R515, R573, R351). -/
structure Mems where
  sram    : Store Byte
  flash   : Store Byte
  dram    : Store Byte
  /-- by line: what the line's stored 32-bit check XORed with the check of its data gives (R508): 0 for a clean line,
  which is not listed. -/
  checks  : Store Nat
  /-- 4 KiB units marked written (R515), ascending. -/
  written : Store Bool
  /-- OTP words, sequencer-table words. -/
  otp     : Store Nat
  seqt    : Store Nat
deriving DecidableEq, Repr

/-- A read whose line was bad and is being read again (R509), with the reads that have returned; or an
access that waits for an earlier one to its line or of its master (R29, R528). -/
structure Refetch where
  req   : Req
  tries : Nat
  /-- the access has begun; else it waits. -/
  begun : Bool
  /-- the access was refused when it was accepted, with this status (R30, R525, R597); its completion waits
  its turn (R29). -/
  refused : Option Status
deriving DecidableEq, Repr

/-- Hidden memory-controller state (chapter 15). -/
structure MemH where
  trained : Bool
  /-- weak-line table: entry ↦ (LINE, COUNT) (R517). -/
  weak    : List (Nat × (Nat × Nat))
  /-- retirement table in the order of its entries (R522). -/
  retired : List Nat
  /-- accesses that wait or whose line is being read again, in the order in which they were accepted (R29, R509,
  R528). -/
  pending : List Refetch
  /-- the arbiter's account of each master (R527): the share of service it has been given, in units of 1/360,360
  of a line's weight, and the account of the access served last. -/
  share   : Vector Nat 16
  account : Nat
  /-- lines that read bad since a fuse map that failed was not applied (R521): first and last of each run. -/
  badRows : List (Nat × Nat)
deriving DecidableEq, Repr

/-! ### Serial ports -/

/-- The frame in progress on SPM (R536, R537). -/
inductive SpmOp | header | write | read | stat | bad
deriving DecidableEq, Repr

/-- A write word waiting to be issued: its address, value and frame number. -/
structure SpmWord where
  addr  : Nat
  value : Nat
  frame : Nat
deriving DecidableEq, Repr

/-- Hidden SPM state (chapter 16). -/
structure SpmH where
  /-- a frame is in progress: SPM answered when the select fell (R533). -/
  live   : Bool
  /-- the select has risen while SPM's clock did not run: the end of the frame, which SPM takes once it runs: bits of
  the unit in progress, their value, and `bads` (R83, R636). -/
  rise   : Option (Nat × Nat × Nat)
  /-- how many first reads find bad the line of an access whose issue has to wait. -/
  bads   : Nat
  op     : SpmOp
  addr   : Nat
  unit   : Nat
  /-- frames begun since reset, which number the frames. -/
  frame  : Nat
  /-- words taken, or sent, in the frame. -/
  words  : Nat
  queue  : List SpmWord
  /-- the access outstanding: the request, its frame, its completion once there is one. -/
  out    : Option (Req × Nat × Option Completion)
  /-- READ: READY has been sent; words whose reads have completed, oldest first; reads issued. -/
  ready  : Bool
  got    : List Nat
  issued : Nat
  /-- READ: an underrun has been declared (R542). -/
  under  : Bool
  irreg  : Nat
  code   : Nat
  /-- the frame that SPM.LAST describes, 0 for none. -/
  last   : Nat
  /-- the level of SPM_STB while the select is low (R535). -/
  stb    : Bool
deriving DecidableEq, Repr

/-- A flash operation in progress (R554, R557). -/
inductive FlashKind
  | program (req : Req)
  | erase (off size : Nat)
deriving DecidableEq, Repr

/-- A flash operation: its kind, uptime of its start, the decision of R62, and whether the reset
sequence of R559 is running for it (by R556, or for an abandonment). -/
structure FlashOp where
  kind  : FlashKind
  start : Nat
  dec   : NvDecision
  stuck : Bool
deriving DecidableEq, Repr

/-- Work that waits for SPF, in arrival order (R560). -/
inductive SpfWork
  | window (req : Req)
  /-- a window access that is refused or has timed out, whose completion waits its turn (R29). -/
  | refusal (req : Req) (st : Status)
  /-- an erase, and the MGT cycle in which it became ready (R560). -/
  | erase (off size ready : Nat)
  /-- the queue sequence whose first entry has become ready, and the MGT cycle of that. -/
  | seq (ready : Nat)
deriving DecidableEq, Repr

/-- A queue entry of SPF (R561): the fields of Q_CMD; `count` is the words still to move. -/
structure QEntry where
  unit    : Nat
  count   : Nat
  inward  : Bool
  mode8d  : Bool
  perword : Bool
  cont    : Bool
  dummy   : Nat
  /-- the entry has begun: its dummy clocks have run. -/
  begun   : Bool
deriving DecidableEq, Repr

/-- Hidden SPF state (chapter 16). -/
structure SpfH where
  op     : Option FlashOp
  work   : List SpfWork
  queue  : List QEntry
  tx     : List Nat
  rx     : List Nat
  /-- a queue sequence has asserted its select (R560, R563). -/
  inSeq  : Bool
  /-- words the flash has returned in the sequence and Q_RX has no room for yet (R561); none until the
  flash has done its part of the sequence. -/
  feed   : Option (List Nat)
  /-- a refused sequence has entries still to come, which are discarded too (R563). -/
  drop   : Bool
  /-- the maximum erase times in ms of the flash's JESD216 table, erase type 1 first (R552); empty before
  discovery. -/
  eraseMs : List Nat
deriving DecidableEq, Repr

/-! ### Security -/

/-- A generation write in progress (R575, R578). -/
structure OtpOp where
  rid   : Nat
  gen   : Nat
  data  : List Nat
  start : Nat
  dec   : NvDecision
deriving DecidableEq, Repr

/-- Hidden OTP state: loaded generations (record, generation, data), and the write in progress. -/
structure OtpH where
  loaded : List (Nat × (Nat × List Nat))
  op     : Option OtpOp
deriving DecidableEq, Repr

/-- A report waiting for its signature (R338, R339): port, its first 288 bytes, and the FAB cycle in which it was
queued. -/
structure Report where
  port  : Nat
  bytes : List Byte
  cycle : Nat
deriving DecidableEq, Repr

/-- A signature that SEC makes (R592): of the KEYX REPLY of a slot, of the SIGN command, of a report. -/
inductive SigJob
  | reply (slot : Nat)
  | command
  | report (r : Report)
deriving DecidableEq, Repr

/-- Hidden SEC state (chapter 17). -/
structure SecH where
  /-- the private scalar in use, 12 words as the record holds them (R588). -/
  key      : Option (List Nat)
  /-- provisioning: not running, key being drawn, or the generation and scalar being written. -/
  prov     : Bool
  drawn    : Option (Nat × List Nat)
  /-- uptime at which the present phase began. -/
  provAt   : Nat
  provDec  : NvDecision
  /-- SIGN command waiting: the 48 bytes captured. -/
  sign     : Option (List Byte)
  reports  : List Report
  /-- the signature that SEC is making, and the FAB cycle in which it was taken up (R592). -/
  making   : Option (SigJob × Nat)
deriving DecidableEq, Repr

/-- Hidden state of a core pair (R605 to R608). -/
structure CoreH where
  /-- MGT cycle of the last mismatch. -/
  lastMis : Option Nat
  /-- the lines of the flash window in its instruction cache and in its data cache, each with its 64 bytes
  (R608). -/
  icache  : List (Nat × List Byte)
  dcache  : List (Nat × List Byte)
  /-- cause of the restart in progress, in STAT.CAUSE's coding (R606). -/
  cause   : Nat
  /-- the pair's start point: ENTRY_A or ENTRY_B of the booted image (R134, R606). -/
  entry   : Nat
deriving DecidableEq, Repr

/-- What SPF does on the flash's pins in a queue sequence (R561, R562): the select falls or rises; dummy clocks; a
word of `bits` bits sent or received. -/
inductive SpfPin
  | select (low : Bool)
  | dummy (mode8d : Bool) (clocks : Nat)
  | send (mode8d : Bool) (bits value : Nat)
  | receive (mode8d : Bool) (bits : Nat)
deriving DecidableEq, Repr

/-- What the device has put on its lanes and serial pins, as the model records it. -/
inductive Out
  /-- a message on a herd, word 0 first, as it goes out (log entry 7). -/
  | message (herd : Nat) (words : List Nat)
  /-- a TRAIN word on one lane. -/
  | train (herd lane word : Nat)
  /-- the idle block of R472 on a herd. -/
  | idle (herd : Nat)
  /-- a value sent on SPM_DO: bits and value. -/
  | spm (bits value : Nat)
  /-- what a queue sequence does on the flash's pins. -/
  | spf (pin : SpfPin)
deriving DecidableEq, Repr

/-! ### The state -/

/-- Why a step could stop. No meaning of this model raises it: every command of the table has an
effect in the spec (NOTES.md, Stops). Safe. -/
inductive Fault
  /-- reserved for an access the spec says cannot exist; raised by no command. Safe. -/
  | none
deriving DecidableEq, Repr

/-- Why a command could be refused. -/
inductive Refusal
  /-- the command has no meaning yet; raised by Dispatch alone. Safe. -/
  | notModelled (mnemonic : String)
deriving DecidableEq, Repr

/-- Everything the spec gives the block, as plain data. Visible fields live in `regs` (in effect) and
`shad` (shadows); the rest is what no register shows. -/
structure State where
  /-- register fields in effect, by bit address; unlisted: the reset value (R13). -/
  regs    : Store Nat
  /-- shadows, likewise (R14). -/
  shad    : Store Nat
  mems    : Mems
  bus     : Bus
  pwr     : PwrH
  clk     : ClkH
  time    : TimeH
  boot    : BootH
  evt     : EvtH
  ports   : Vector PortH 16
  cnvs    : Vector CnvH 64
  eqs     : Vector EqH 16
  softs   : Vector SoftH 16
  tstats  : Vector TstatH 16
  pcvs    : Vector PcvH 24
  seq     : SeqH
  pwms    : Vector PwmH 64
  accu    : AccuH
  /-- class M results on their way to the rings, oldest first (R379). -/
  ringQ   : List Res
  filts   : Vector FiltH 48
  herds   : Vector HerdH 17
  lines   : Vector LineH 17
  links   : Vector LinkH 17
  sess    : Vector SesH 8
  memc    : MemH
  spm     : SpmH
  spf     : SpfH
  otp     : OtpH
  sec     : SecH
  cores   : Vector CoreH 2
  /-- what the device has sent, newest first: the model's record, read by nothing (log entry 7). -/
  emitted : List Out
  /-- the vendor public key that the boot ROM holds (R584); no command changes it. -/
  romKey  : List Byte
  /-- the model's counter of free values used (log entry 8). -/
  freeCtr : Nat
  /-- commands waiting, first in, first out. -/
  pending : List Instr
deriving DecidableEq, Repr

/-! ### Reset -/

/-- A completion that nothing has asked for. -/
def Completion.none : Completion := ⟨.ok, []⟩

/-- Fabric state after reset: nothing waits, nothing is latched or frozen. -/
def Bus.reset : Bus :=
  { done := Vector.replicate 16 Completion.none, waiting := [], commits := [], latches := [], frozen := []
    deferred := [], token := 0, marks := [], accepting := true }

/-- Power state after the power-on reset: rails in regulation, RESET_N high, bank not charged. -/
def PwrH.reset : PwrH :=
  { rails := 255, failed := 0, bankFull := false, goodSeen := true, resetN := true, therm := false }

/-- Clock state after reset: every domain stopped (R94), no measurement yet. -/
def ClkH.reset : ClkH :=
  { cur := Vector.replicate 6 .stopped, next := Vector.replicate 6 none, measQ := 0, winUnits := 0, held := 0 }

/-- Device time after reset: 0 (R114). -/
def TimeH.reset : TimeH :=
  { units := 0, sub := 0, uptime := 0, cycle := 0, fabRem := 0, sloRem := 0, mgtRem := 0, mgt := 0, tick := 0
    lastEdge := none, cmdDelta := 0, pendAdj := 0, pendAt := 0, nextOut := 0, outEnd := none
    trustLog := [] }

/-- Boot state after the power-on reset: settling (R126 steps 2 and 3). -/
def BootH.reset : BootH :=
  { stage := .settling, cmdReset := none, causePin := false, causeCmd := false, causeWdt := false
    resetAt := 0, wdtSkip := none }

/-- Event state after reset: nothing waits; FAULT_N is low, since ARM is 0 (R187). -/
def EvtH.reset : EvtH :=
  { logQ := [], serial := 0, notices := Vector.replicate 8 [], dropSince := Vector.replicate 8 0
    faultLow := true, fallAt := 0 }

/-- Port state after reset. -/
def PortH.reset : PortH :=
  { sig := .off, lo := .off, sigDbm := 0, loDbm := 0, sigQual := 0, loQual := 0, cfgWait := false, rstStart := 0, laneDone := Vector.replicate 4 false, sqLog := [] }

/-- Converter state after reset. -/
def CnvH.reset : CnvH :=
  { punSkew := Vector.replicate 64 0, saved := none, step := 0, seams := 0, inFail := []
    lastIn := false, hole := none, holes := [], trims := [], locked := false, stride := none, winOut := [], winSq := false, winPart := false
    winDegr := false }

/-- A CD bank with every field 0. -/
def CdBank.zero : CdBank := { d := 0, lam := 0, skew := [0, 0, 0, 0] }

/-- The taps of one filter of a BF bank at its initial values: a centre spike of `c` (R267). -/
def tapRow (n c : Nat) : List Nat := (List.range n).map (fun t => if t = (n - 1) / 2 then c else 0)

/-- A BF bank of initial taps at NTAPS `n`: 1 (16,384) at the centre of hxx and hyy (R267, R279). -/
def BfBank.initial (n : Nat) : BfBank :=
  { ntaps := n, taps := tapRow n 16384 ++ tapRow n 0 ++ tapRow n 0 ++ tapRow n 16384, empty := false }

/-- Equaliser state after reset. -/
def EqH.reset : EqH :=
  { cdA := CdBank.zero, cdB := CdBank.zero, bfA := BfBank.initial 63, bfB := BfBank.initial 63
    cdReady := false, cdPlain := false
    cdPend := none, cdFade := none, bfLoad := none, bfReady := false, bfPend := none, bfFade := none
    goodWin := 0, winTaps := [], winTim := ⟨0, none⟩, winN := 0, winX := [], winY := [], freq := 0
    tim := ⟨0, none⟩, pil := (0, 0), blkNext := 0, updQ := [], decX := [], decY := []
    snapWait := false, acqStart := 0 }

/-- Soft-output state after reset. -/
def SoftH.reset : SoftH :=
  { fmt := 0, modu := 0, perLog2 := 0, pfirst := 0, pidx := 0, gain := 0, wts := [], llrGain := 0, nvLog2 := 0, nvX := [], nvY := []
    index := 0, syms := [], sqWord := false
    overEnd := false, fmtEnd := false, queue := [], carried := false }

/-- No schedule. -/
def Sched.off : Sched := { en := false, start := 0, per := 1 }

/-- Nothing seen of a window. -/
def EstAcc.zero : EstAcc :=
  { blocks := 0, track := 0, clear := 0, cdN := 0, cdSum := 0, fSum := 0, fMin := 0, fMax := 0, pilots := 0, errX := 0
    errY := 0, dist := 0 }

/-- Statistics state after reset. -/
def TstatH.reset : TstatH :=
  { sched := Sched.off, pend := none, win := none, sq := false, notrack := false, guard := false
    stepped := false, fade := false, dark := false, est := EstAcc.zero, back := false, jump := none, closed := none, ended := [] }

/-- Precision converter state after reset. -/
def PcvH.reset : PcvH := { work := none, conv := none, first := true, calAt := 0, last := none }

/-- Sequencer state after reset. -/
def SeqH.reset : SeqH :=
  { cur := none, pos := 0, visited := 0, single := false
    timerAt := Vector.replicate 16 none, late := false, lateLast := false, latches := [], inj := none, injAt := none
    referee := [] }

/-- PWM output state after reset. -/
def PwmH.reset : PwmH := { carry := 0, on := 0, high := false, per := 500, phase := 0, start := none
                           fall := false, duty := 0 }

/-- Accumulator sums of nothing (R385). -/
def AccuRec.zero : AccuRec :=
  { n := 0, sum := 0, sumsq := 0, mn := 0, mx := 0, orN := 0, cover := false
    late := false }

/-- Accumulator state after reset. -/
def AccuH.reset : AccuH :=
  { recs := Vector.replicate 64 AccuRec.zero, sched := Sched.off, pend := none, win := none
    stepped := false, jump := none, backAt := none, ended := [] }

/-- An empty filter bank. -/
def FBank.none : FBank := { ntaps := [1, 1, 1, 1], shift := [0, 0, 0, 0], coef := [], empty := true }

/-- The bank in use at reset: NTAPS 1, coefficient 0 equal to 1, SHIFT 0 in every stage (R410). -/
def FBank.unit : FBank :=
  { ntaps := [1, 1, 1, 1], shift := [0, 0, 0, 0], coef := [[1], [1], [1], [1]], empty := false }

/-- Tone settings after reset. -/
def Tone.zero : Tone := { en := false, len := 0, onN := 0, offN := 0, pinc := 0, on := 0, off := 0 }

/-- A parison capture that is not armed. -/
def Paris.off : Paris :=
  { state := 0, k := 0, m := 0, trigM := 0, stamp := 0, src := 0, loss := none, fade := none
    orf := none, gap := none }

/-- Channel state after reset. -/
def FiltH.reset : FiltH :=
  { trigAt := none, inQ := [], parLast := [], line := [], taken := 0, wcnt := [], cnt := [], hist := [], histN := []
    bankA := FBank.unit, bankB := FBank.none, anneal := .none, load := none, pend := none, m := 0, blk := none
    sumI := 0, sumQ := 0, tone := Tone.zero, onRun := 0, offRun := 0, prevTs := none, fOr := false, fCover := false
    fLate := false, fPre := false, fGap := false, fSat := false, par := Paris.off, outQ := [] }

/-- Herd state after reset: the nominal transmit map of R433 with `n` lanes, which L_ACTIVE shows
(R435). -/
def HerdH.reset (n : Nat) : HerdH :=
  { txMap := List.range n, rxMap := [], newTx := none, newRx := none, mapTx := false, mapRx := false
    lateTx := [], lateRx := [], ready := [], resp := Vector.replicate 19 none, deskewed := false, aligned := false, testTx := []
    testRx := [], goodWin := Vector.replicate 4 0, taps := Vector.replicate 4 0, scan := 0
    seek := Vector.replicate 4 false }

/-- Lines after reset: the spec gives the scramblers and the counts no start, 0 is the model's (DESIGN CHOICE, log
entry 61). -/
def LineH.reset : LineH :=
  { scr := Vector.replicate 19 0, levels := Vector.replicate 19 [], n := 0, run := 0, since := 0, after := 0
    marks := 0 }

/-- Link state after reset (R480). -/
def LinkH.reset : LinkH :=
  { txX := 0, rxE := 0, peerSeen := false, limit := 0, sentCost := 0, procCost := 0, freed := 0
    buf := [], due := false, nakDue := false, nakSent := false, queues := Vector.replicate 8 []
    endKeys := Vector.replicate 8 [], resend := none, seek := false, served := 7, stalled := false, stream := 0 }

/-- Session state of a free slot. -/
def SesH.reset : SesH :=
  { exch := .none, init := [], reply := [], finish := [], initAt := 0, eph := []
    keyIn := [], keyOut := [], backlog := [], out := [], reports := [] }

/-- Memories after a power-on reset with an unprogrammed OTP and an unwritten flash (log entry 9). -/
def Mems.reset : Mems :=
  { sram := [], flash := [], dram := [], checks := [], written := [], otp := [], seqt := [] }

/-- Memory-controller state after reset. -/
def MemH.reset : MemH :=
  { trained := false, weak := [], retired := [], pending := []
    share := Vector.replicate 16 0, account := 0, badRows := [] }

/-- SPM state after reset: no frame. -/
def SpmH.reset : SpmH :=
  { live := false, rise := none, bads := 0, op := .header, addr := 0, unit := 32, frame := 0, words := 0, queue := [], out := none
    ready := false, got := [], issued := 0, under := false, irreg := 0, code := 0, last := 0
    stb := false }

/-- SPF state after reset. -/
def SpfH.reset : SpfH := { op := none, work := [], queue := [], tx := [], rx := [], inSeq := false, feed := none, drop := false, eraseMs := [] }

/-- OTP state after the load of an unprogrammed macro. -/
def OtpH.reset : OtpH := { loaded := [], op := none }

/-- SEC state after reset. -/
def SecH.reset : SecH :=
  { key := none, prov := false, drawn := none, provAt := 0, provDec := .none, sign := none, reports := [], making := none }

/-- Core-pair state after reset. -/
def CoreH.reset : CoreH := { lastMis := none, icache := [], dcache := [], cause := 0, entry := 0 }

/-- The block right after the internal power-on reset: every field at its reset value, an
unprogrammed OTP, nothing waiting (R13, R142; log entries 3, 4, 6, 9). -/
def State.reset : State :=
  { regs := [], shad := [], mems := Mems.reset, bus := Bus.reset, pwr := PwrH.reset
    clk := ClkH.reset, time := TimeH.reset, boot := BootH.reset, evt := EvtH.reset
    ports := Vector.replicate 16 PortH.reset, cnvs := Vector.replicate 64 CnvH.reset
    eqs := Vector.replicate 16 EqH.reset, softs := Vector.replicate 16 SoftH.reset
    tstats := Vector.replicate 16 TstatH.reset, pcvs := Vector.replicate 24 PcvH.reset
    seq := SeqH.reset, pwms := Vector.replicate 64 PwmH.reset, accu := AccuH.reset, ringQ := []
    filts := Vector.replicate 48 FiltH.reset
    herds := (Vector.replicate 17 (HerdH.reset 18)).set 16 (HerdH.reset 3)
    lines := Vector.replicate 17 LineH.reset
    links := Vector.replicate 17 LinkH.reset, sess := Vector.replicate 8 SesH.reset
    memc := MemH.reset, spm := SpmH.reset, spf := SpfH.reset, otp := OtpH.reset, sec := SecH.reset
    cores := Vector.replicate 2 CoreH.reset
    emitted := [], romKey := (List.range 97).map Config.vendorKey, freeCtr := 0, pending := [] }

end Sys2Proof.Machine
end

