-- ==== Sys2Proof/Machine/RegTable.lean ====
section
/-! DEFINITION. The register layout of every page: one field descriptor (`Fld`) per field of the
spec's register tables, and the same tables as rows (`rowsOf`), which the commit (R163), the
page reset (R143), the plain register write (R11) and the plain register read walk.  Each
register's line names the rule of spec/ that holds its table.  Event identifiers are page x 32 + bit (R174). -/

namespace Sys2Proof.Machine

namespace Reg

namespace PWR
/-- The page number (R173). -/
def page : Nat := 2
-- VIN_MEAS (R70)
def VIN_MEAS_MV : Fld := ⟨2, 64, 0, 16⟩
-- VNV_MEAS (R70)
def VNV_MEAS_MV : Fld := ⟨2, 68, 0, 16⟩
-- SAG_VIN (R70)
def SAG_VIN_THR_MV : Fld := ⟨2, 72, 0, 16⟩
def SAG_VIN_HYST_MV : Fld := ⟨2, 72, 16, 12⟩
-- SAG_VNV (R70)
def SAG_VNV_THR_MV : Fld := ⟨2, 76, 0, 16⟩
def SAG_VNV_HYST_MV : Fld := ⟨2, 76, 16, 12⟩
-- FENCE_CTL (R70)
def FENCE_CTL_DWELL_MS : Fld := ⟨2, 80, 0, 16⟩
def FENCE_CTL_HOLD : Fld := ⟨2, 80, 16, 1⟩
-- FENCE_STAT (R70)
def FENCE_STAT_CLOSED : Fld := ⟨2, 84, 0, 1⟩
def FENCE_STAT_CAUSE_VIN : Fld := ⟨2, 84, 1, 1⟩
def FENCE_STAT_CAUSE_VNV : Fld := ⟨2, 84, 2, 1⟩
def FENCE_STAT_CAUSE_HOST : Fld := ⟨2, 84, 3, 1⟩
def FENCE_STAT_CAUSE_HOLDUP : Fld := ⟨2, 84, 4, 1⟩
def FENCE_STAT_OTP_BUSY : Fld := ⟨2, 84, 8, 1⟩
def FENCE_STAT_KEY_BUSY : Fld := ⟨2, 84, 9, 1⟩
def FENCE_STAT_FLASH_BUSY : Fld := ⟨2, 84, 10, 1⟩
def FENCE_STAT_ON_HOLDUP : Fld := ⟨2, 84, 11, 1⟩
-- FENCE_CNT (R70)
def FENCE_CNT_COUNT : Fld := ⟨2, 88, 0, 32⟩
-- NV_LAST (R70)
def NV_LAST_KIND : Fld := ⟨2, 92, 0, 3⟩
def NV_LAST_OUTCOME : Fld := ⟨2, 92, 3, 1⟩
def NV_LAST_OTP_REC : Fld := ⟨2, 92, 8, 8⟩
-- NV_ADDR (R70)
def NV_ADDR_OFFSET : Fld := ⟨2, 96, 0, 26⟩
-- HOLDUP (R70)
def HOLDUP_BUDGET_MS : Fld := ⟨2, 100, 0, 16⟩
def HOLDUP_VALID : Fld := ⟨2, 100, 31, 1⟩
-- THERM (R70)
def THERM_TJ_MAX_C : Fld := ⟨2, 104, 0, 8⟩
def THERM_WARN_C : Fld := ⟨2, 104, 8, 8⟩
def THERM_CRIT_C : Fld := ⟨2, 104, 16, 8⟩
-- RAIL_STAT (R70)
def RAIL_STAT_GOOD : Fld := ⟨2, 108, 0, 8⟩
def RAIL_STAT_FAULTED : Fld := ⟨2, 108, 8, 8⟩
def evVIN_SAG : Nat := 2 * 32 + 0
def evVNV_SAG : Nat := 2 * 32 + 1
def evFENCE_CLOSE : Nat := 2 * 32 + 2
def evFENCE_OPEN : Nat := 2 * 32 + 3
def evNV_ABANDON : Nat := 2 * 32 + 4
def evHOLDUP_LOW : Nat := 2 * 32 + 5
def evRAIL_FAULT : Nat := 2 * 32 + 6
def evTHERM_WARN : Nat := 2 * 32 + 7
def evTHERM_CRIT : Nat := 2 * 32 + 8
end PWR

namespace CLK
/-- The page number (R173). -/
def page : Nat := 1
-- DOM_CTL (R122)
def DOM_CTL_DIV (d : Nat) : Fld := ⟨1, 64 + 4 * d, 0, 12⟩
def DOM_CTL_SRC (d : Nat) : Fld := ⟨1, 64 + 4 * d, 12, 2⟩
def DOM_CTL_BYP_DIV (d : Nat) : Fld := ⟨1, 64 + 4 * d, 16, 8⟩
-- DOM_STAT (R122)
def DOM_STAT_BUSY : Fld := ⟨1, 88, 0, 6⟩
def DOM_STAT_OVERSPEED : Fld := ⟨1, 88, 8, 6⟩
def DOM_STAT_ON_BYPASS : Fld := ⟨1, 88, 16, 6⟩
def DOM_STAT_RUNNING : Fld := ⟨1, 88, 24, 6⟩
-- GATE_TMO (R122)
def GATE_TMO_CYC : Fld := ⟨1, 92, 0, 16⟩
-- GATE_LAST (R122)
def GATE_LAST_PAGE : Fld := ⟨1, 96, 0, 10⟩
def GATE_LAST_MASTER : Fld := ⟨1, 96, 12, 4⟩
def GATE_LAST_VALID : Fld := ⟨1, 96, 31, 1⟩
-- MON_CTL (R122)
def MON_CTL_TOL_PPM : Fld := ⟨1, 100, 0, 11⟩
def MON_CTL_WIN_MS : Fld := ⟨1, 100, 12, 10⟩
def MON_CTL_RETURN_MS : Fld := ⟨1, 100, 22, 10⟩
-- MON_STAT (R122)
def MON_STAT_DEV_PPM : Fld := ⟨1, 104, 0, 16⟩
def MON_STAT_PRESENT : Fld := ⟨1, 104, 16, 1⟩
def MON_STAT_DRIFT : Fld := ⟨1, 104, 17, 1⟩
def MON_STAT_LOST : Fld := ⟨1, 104, 18, 1⟩
def MON_STAT_UNLOCK : Fld := ⟨1, 104, 19, 1⟩
def MON_STAT_SQUELCH : Fld := ⟨1, 104, 20, 1⟩
-- ROOT_STAT (R122)
def ROOT_STAT_STATE : Fld := ⟨1, 108, 0, 2⟩
def ROOT_STAT_ACQ_CNT : Fld := ⟨1, 108, 16, 16⟩
-- LOSS_ACK (R122)
def LOSS_ACK_ACK : Fld := ⟨1, 112, 0, 1⟩
-- PSTEP (R122)
def PSTEP_LAST_PS : Fld := ⟨1, 116, 0, 16⟩
def PSTEP_COUNT : Fld := ⟨1, 116, 16, 11⟩
def PSTEP_TS_AT : Fld := ⟨1, 116, 28, 3⟩
-- TSTATE (R122)
def TSTATE_NOW : Fld := ⟨1, 120, 0, 3⟩
def TSTATE_RAW : Fld := ⟨1, 120, 4, 3⟩
def TSTATE_DEB : Fld := ⟨1, 120, 8, 16⟩
-- SETTLE (R122)
def SETTLE_US : Fld := ⟨1, 124, 0, 20⟩
def SETTLE_FROM_OTP : Fld := ⟨1, 124, 31, 1⟩
def evDOM_SWITCH_DONE : Nat := 1 * 32 + 0
def evOVERSPEED : Nat := 1 * 32 + 1
def evGATE_TMO : Nat := 1 * 32 + 2
def evCLKIN_DRIFT : Nat := 1 * 32 + 3
def evCLKIN_LOSS : Nat := 1 * 32 + 4
def evCLKIN_RETURN : Nat := 1 * 32 + 5
def evROOT_LOCK : Nat := 1 * 32 + 6
def evPHASE_STEP : Nat := 1 * 32 + 8
def evPHASE_STEP_LARGE : Nat := 1 * 32 + 9
def evTSTATE_CHG : Nat := 1 * 32 + 10
def evTSTATE_INVALID : Nat := 1 * 32 + 11
end CLK

namespace TIME
/-- The page number (R173). -/
def page : Nat := 6
-- NOW_LO (R125)
def NOW_LO_NS : Fld := ⟨6, 64, 0, 32⟩
-- NOW_HI (R125)
def NOW_HI_NS : Fld := ⟨6, 68, 0, 32⟩
-- NOW_FRAC (R125)
def NOW_FRAC_FRAC : Fld := ⟨6, 72, 0, 16⟩
-- STAT (R125)
def STAT_TRUST : Fld := ⟨6, 76, 0, 1⟩
def STAT_PEND : Fld := ⟨6, 76, 1, 1⟩
def STAT_SYNC_IN_OK : Fld := ⟨6, 76, 2, 1⟩
def STAT_REFUSED : Fld := ⟨6, 76, 3, 1⟩
def STAT_FAILED : Fld := ⟨6, 76, 4, 1⟩
def STAT_STEPS : Fld := ⟨6, 76, 16, 16⟩
-- ADJ_LO (R125)
def ADJ_LO_NS : Fld := ⟨6, 80, 0, 32⟩
-- ADJ_HI (R125)
def ADJ_HI_NS : Fld := ⟨6, 84, 0, 32⟩
-- ADJ_FRAC (R125)
def ADJ_FRAC_FRAC : Fld := ⟨6, 88, 0, 16⟩
-- CMD (R125)
def CMD_OP : Fld := ⟨6, 92, 0, 3⟩
-- SYNC_IN_TS_LO (R125)
def SYNC_IN_TS_LO_NS : Fld := ⟨6, 96, 0, 32⟩
-- SYNC_IN_TS_HI (R125)
def SYNC_IN_TS_HI_NS : Fld := ⟨6, 100, 0, 32⟩
-- SYNC_IN_TS_FRAC (R125)
def SYNC_IN_TS_FRAC_FRAC : Fld := ⟨6, 104, 0, 16⟩
-- SYNC_IN_INT (R125)
def SYNC_IN_INT_NS : Fld := ⟨6, 108, 0, 32⟩
-- SYNC_IN_OFS (R125)
def SYNC_IN_OFS_NS : Fld := ⟨6, 112, 0, 32⟩
-- SYNC_IN_CTL (R125)
def SYNC_IN_CTL_EXP_US : Fld := ⟨6, 116, 0, 24⟩
-- SYNC_OUT_PER (R125)
def SYNC_OUT_PER_PER_NS : Fld := ⟨6, 120, 0, 32⟩
-- SYNC_OUT_PHASE (R125)
def SYNC_OUT_PHASE_PHASE_NS : Fld := ⟨6, 124, 0, 32⟩
-- SYNC_OUT_CTL (R125)
def SYNC_OUT_CTL_EN : Fld := ⟨6, 128, 0, 1⟩
def SYNC_OUT_CTL_WIDTH : Fld := ⟨6, 128, 8, 8⟩
def evTIME_CMD_DONE : Nat := 6 * 32 + 0
def evSYNC_IN_MISS : Nat := 6 * 32 + 1
def evSYNC_IN_RETURN : Nat := 6 * 32 + 2
def evSYNC_IN_JUMP : Nat := 6 * 32 + 3
def evTRUST_LOST : Nat := 6 * 32 + 4
def evCMD_FAIL : Nat := 6 * 32 + 5
end TIME

namespace DEV
/-- The page number (R173). -/
def page : Nat := 0
-- PART (R159)
def PART_PART : Fld := ⟨0, 64, 0, 16⟩
def PART_STEP : Fld := ⟨0, 64, 16, 8⟩
-- RST_CAUSE (R159)
def RST_CAUSE_POR : Fld := ⟨0, 68, 0, 1⟩
def RST_CAUSE_PIN : Fld := ⟨0, 68, 1, 1⟩
def RST_CAUSE_CMD : Fld := ⟨0, 68, 2, 1⟩
def RST_CAUSE_WDT : Fld := ⟨0, 68, 3, 1⟩
def RST_CAUSE_CMD_MASTER : Fld := ⟨0, 68, 8, 4⟩
def RST_CAUSE_WDT_SLOT : Fld := ⟨0, 68, 12, 1⟩
def RST_CAUSE_WDT_RUN : Fld := ⟨0, 68, 16, 2⟩
-- RST_CNT (R159)
def RST_CNT_COUNT : Fld := ⟨0, 72, 0, 16⟩
-- RST_CMD (R159)
def RST_CMD_KEY : Fld := ⟨0, 76, 0, 16⟩
def RST_CMD_OP : Fld := ⟨0, 76, 16, 4⟩
-- BOOT_STAT (R159)
def BOOT_STAT_PHASE : Fld := ⟨0, 80, 0, 3⟩
def BOOT_STAT_SLOT : Fld := ⟨0, 80, 3, 1⟩
def BOOT_STAT_FALLBACK : Fld := ⟨0, 80, 4, 1⟩
def BOOT_STAT_NO_OWNER : Fld := ⟨0, 80, 5, 1⟩
def BOOT_STAT_FAIL0 : Fld := ⟨0, 80, 8, 4⟩
def BOOT_STAT_FAIL1 : Fld := ⟨0, 80, 12, 4⟩
-- IMG (R159)
def IMG_SEQ : Fld := ⟨0, 84, 0, 16⟩
def IMG_SECVER : Fld := ⟨0, 84, 16, 8⟩
-- BOOT_CMD (R159)
def BOOT_CMD_FW_OK : Fld := ⟨0, 88, 0, 1⟩
def BOOT_CMD_RETRY : Fld := ⟨0, 88, 1, 1⟩
-- BOOT_WDT (R159)
def BOOT_WDT_MS : Fld := ⟨0, 92, 0, 16⟩
def BOOT_WDT_RUNNING : Fld := ⟨0, 92, 31, 1⟩
def evBOOT_DONE : Nat := 0 * 32 + 0
def evBOOT_FALLBACK : Nat := 0 * 32 + 1
def evBOOT_RECOVERY : Nat := 0 * 32 + 2
def evRST_KEY_BAD : Nat := 0 * 32 + 3
end DEV

namespace HDR
-- PG_ID (R160)
def PG_ID_PAGE (pg : Nat) : Fld := ⟨pg, 0, 0, 10⟩
def PG_ID_INST (pg : Nat) : Fld := ⟨pg, 0, 10, 6⟩
def PG_ID_TYPE (pg : Nat) : Fld := ⟨pg, 0, 16, 8⟩
def PG_ID_LAYOUT (pg : Nat) : Fld := ⟨pg, 0, 24, 8⟩
-- PG_CAP (R160)
def PG_CAP_SHADOWS (pg : Nat) : Fld := ⟨pg, 4, 0, 1⟩
def PG_CAP_GATEABLE (pg : Nat) : Fld := ⟨pg, 4, 1, 1⟩
def PG_CAP_PAIRS (pg : Nat) : Fld := ⟨pg, 4, 2, 1⟩
def PG_CAP_EVT_BITS (pg : Nat) : Fld := ⟨pg, 4, 8, 8⟩
def PG_CAP_BLOCK (pg : Nat) : Fld := ⟨pg, 4, 16, 16⟩
-- PG_CTL (R160)
def PG_CTL_EN (pg : Nat) : Fld := ⟨pg, 8, 0, 1⟩
def PG_CTL_PAGE_RST (pg : Nat) : Fld := ⟨pg, 8, 1, 1⟩
def PG_CTL_FREEZE (pg : Nat) : Fld := ⟨pg, 8, 2, 1⟩
def PG_CTL_ERR_CLR (pg : Nat) : Fld := ⟨pg, 8, 3, 1⟩
-- PG_STAT (R160)
def PG_STAT_EN_EFF (pg : Nat) : Fld := ⟨pg, 12, 0, 1⟩
def PG_STAT_GATED (pg : Nat) : Fld := ⟨pg, 12, 1, 1⟩
def PG_STAT_COMMIT_HELD (pg : Nat) : Fld := ⟨pg, 12, 2, 1⟩
def PG_STAT_RST_BUSY (pg : Nat) : Fld := ⟨pg, 12, 3, 1⟩
def PG_STAT_FROZEN (pg : Nat) : Fld := ⟨pg, 12, 4, 1⟩
def PG_STAT_BLOCK (pg : Nat) : Fld := ⟨pg, 12, 16, 16⟩
-- PG_COMMIT (R160)
def PG_COMMIT_COUNT (pg : Nat) : Fld := ⟨pg, 16, 0, 32⟩
-- PG_EVT_RAW (R160)
def PG_EVT_RAW_RAW (pg : Nat) : Fld := ⟨pg, 20, 0, 32⟩
-- PG_EVT_EN (R160)
def PG_EVT_EN_EN (pg : Nat) : Fld := ⟨pg, 24, 0, 32⟩
-- PG_EVT_SUM (R160)
def PG_EVT_SUM_SUM (pg : Nat) : Fld := ⟨pg, 28, 0, 32⟩
-- PG_LOCK (R160)
def PG_LOCK_OWNER (pg : Nat) : Fld := ⟨pg, 32, 0, 4⟩
def PG_LOCK_HELD (pg : Nat) : Fld := ⟨pg, 32, 8, 1⟩
def PG_LOCK_TAKE (pg : Nat) : Fld := ⟨pg, 32, 16, 1⟩
def PG_LOCK_RELEASE (pg : Nat) : Fld := ⟨pg, 32, 17, 1⟩
def PG_LOCK_BREAK (pg : Nat) : Fld := ⟨pg, 32, 18, 1⟩
-- PG_ERR (R160)
def PG_ERR_OFFSET (pg : Nat) : Fld := ⟨pg, 36, 2, 10⟩
def PG_ERR_MASTER (pg : Nat) : Fld := ⟨pg, 36, 12, 4⟩
def PG_ERR_STATUS (pg : Nat) : Fld := ⟨pg, 36, 16, 4⟩
def PG_ERR_WRITE (pg : Nat) : Fld := ⟨pg, 36, 20, 1⟩
def PG_ERR_COUNT (pg : Nat) : Fld := ⟨pg, 36, 24, 8⟩
end HDR

namespace EVT0
/-- The page number (R173). -/
def page : Nat := 8
-- GSUM_ANY (R191)
def GSUM_ANY_ANY : Fld := ⟨8, 64, 0, 1⟩
-- LOCK_LAST (R191)
def LOCK_LAST_PAGE : Fld := ⟨8, 68, 0, 10⟩
def LOCK_LAST_OLD : Fld := ⟨8, 68, 12, 4⟩
def LOCK_LAST_BY : Fld := ⟨8, 68, 16, 4⟩
-- GSUM (R191)
def GSUM_PAGES (w : Nat) : Fld := ⟨8, 128 + 4 * w, 0, 32⟩
def evFAULT_ASSERT : Nat := 8 * 32 + 0
def evFAULT_RELEASE : Nat := 8 * 32 + 1
def evLOCK_BREAK : Nat := 8 * 32 + 2
def evLOG_FULL : Nat := 8 * 32 + 3
def evLOG_FAULT : Nat := 8 * 32 + 4
def evSUB_DROP : Nat := 8 * 32 + 5
end EVT0

namespace EVT1
/-- The page number (R173). -/
def page : Nat := 9
-- LOG_CTL (R191)
def LOG_CTL_EN : Fld := ⟨9, 64, 0, 1⟩
def LOG_CTL_SIZE_LOG2 : Fld := ⟨9, 64, 8, 5⟩
-- LOG_BASE_LO (R191)
def LOG_BASE_LO_ADDR : Fld := ⟨9, 68, 16, 16⟩
-- LOG_BASE_HI (R191)
def LOG_BASE_HI_ADDR : Fld := ⟨9, 72, 0, 8⟩
-- LOG_WR (R191)
def LOG_WR_COUNT : Fld := ⟨9, 76, 0, 32⟩
-- LOG_RD (R191)
def LOG_RD_COUNT : Fld := ⟨9, 80, 0, 32⟩
-- LOG_DROP (R191)
def LOG_DROP_COUNT : Fld := ⟨9, 84, 0, 32⟩
-- LOG_STAT (R191)
def LOG_STAT_RUN : Fld := ⟨9, 88, 0, 1⟩
def LOG_STAT_HALT : Fld := ⟨9, 88, 1, 1⟩
def LOG_STAT_FULL : Fld := ⟨9, 88, 2, 1⟩
def LOG_STAT_GAP : Fld := ⟨9, 88, 16, 16⟩
end EVT1

namespace EVT2
/-- The page number (R173). -/
def page : Nat := 10
-- FAULT_CTL (R191)
def FAULT_CTL_PORT_EN : Fld := ⟨10, 64, 0, 16⟩
def FAULT_CTL_ARM : Fld := ⟨10, 64, 16, 1⟩
def FAULT_CTL_MIN_LOW_US : Fld := ⟨10, 64, 24, 8⟩
-- FAULT_NOW (R191)
def FAULT_NOW_PORT : Fld := ⟨10, 68, 0, 16⟩
def FAULT_NOW_DISARMED : Fld := ⟨10, 68, 16, 1⟩
def FAULT_NOW_CLOCK : Fld := ⟨10, 68, 17, 1⟩
def FAULT_NOW_THERM : Fld := ⟨10, 68, 18, 1⟩
def FAULT_NOW_RAIL : Fld := ⟨10, 68, 19, 1⟩
-- FAULT_STAT (R191)
def FAULT_STAT_SEEN : Fld := ⟨10, 72, 0, 20⟩
-- PIN_MASK (R191)
def PIN_MASK_PAGES (w : Nat) : Fld := ⟨10, 128 + 4 * w, 0, 32⟩
-- SUB_STAT (R191)
def SUB_STAT_DROP (s : Nat) : Fld := ⟨10, 256 + 4 * s, 0, 16⟩
def SUB_STAT_ACTIVE (s : Nat) : Fld := ⟨10, 256 + 4 * s, 16, 1⟩
def SUB_STAT_QUEUED (s : Nat) : Fld := ⟨10, 256 + 4 * s, 23, 7⟩
-- SUBS (R191)
def SUBS_PAGES (s w : Nat) : Fld := ⟨10, 512 + 128 * s + 4 * w, 0, 32⟩
end EVT2

namespace PORT
/-- The page number (R173). -/
def page (p : Nat) : Nat := 16 + p
-- CTL (R219)
def CTL_AGC_EN (p : Nat) : Fld := ⟨16 + p, 64, 0, 1⟩
def CTL_FORCE_SQ (p : Nat) : Fld := ⟨16 + p, 64, 1, 1⟩
-- LOS_THR (R219)
def LOS_THR_SIG_DBM (p : Nat) : Fld := ⟨16 + p, 68, 0, 16⟩
def LOS_THR_LO_DBM (p : Nat) : Fld := ⟨16 + p, 68, 16, 16⟩
-- LOS_RET (R219)
def LOS_RET_HYST (p : Nat) : Fld := ⟨16 + p, 72, 0, 8⟩
def LOS_RET_RETURN_US (p : Nat) : Fld := ⟨16 + p, 72, 16, 16⟩
-- TIA_GAIN (R219)
def TIA_GAIN_XI (p : Nat) : Fld := ⟨16 + p, 76, 0, 8⟩
def TIA_GAIN_XQ (p : Nat) : Fld := ⟨16 + p, 76, 8, 8⟩
def TIA_GAIN_YI (p : Nat) : Fld := ⟨16 + p, 76, 16, 8⟩
def TIA_GAIN_YQ (p : Nat) : Fld := ⟨16 + p, 76, 24, 8⟩
-- AGC_CTL (R219)
def AGC_CTL_TARGET (p : Nat) : Fld := ⟨16 + p, 80, 0, 8⟩
def AGC_CTL_DEADBAND (p : Nat) : Fld := ⟨16 + p, 80, 8, 4⟩
def AGC_CTL_PERIOD_US (p : Nat) : Fld := ⟨16 + p, 80, 16, 8⟩
-- HTR_LIM (R219)
def HTR_LIM_LIM0 (p : Nat) : Fld := ⟨16 + p, 84, 0, 8⟩
def HTR_LIM_LIM1 (p : Nat) : Fld := ⟨16 + p, 84, 8, 8⟩
def HTR_LIM_LIM2 (p : Nat) : Fld := ⟨16 + p, 84, 16, 8⟩
def HTR_LIM_LIM3 (p : Nat) : Fld := ⟨16 + p, 84, 24, 8⟩
-- RESTART_TMO (R219)
def RESTART_TMO_US (p : Nat) : Fld := ⟨16 + p, 88, 0, 20⟩
-- STAT (R219)
def STAT_CARRY (p : Nat) : Fld := ⟨16 + p, 96, 0, 1⟩
def STAT_SIG_OK (p : Nat) : Fld := ⟨16 + p, 96, 1, 1⟩
def STAT_LO_OK (p : Nat) : Fld := ⟨16 + p, 96, 2, 1⟩
def STAT_RESTARTING (p : Nat) : Fld := ⟨16 + p, 96, 3, 1⟩
def STAT_AGC_RAIL (p : Nat) : Fld := ⟨16 + p, 96, 4, 4⟩
-- SQ_NOW (R219)
def SQ_NOW_CAUSE (p : Nat) : Fld := ⟨16 + p, 100, 0, 9⟩
-- SQ_SEEN (R219)
def SQ_SEEN_CAUSE (p : Nat) : Fld := ⟨16 + p, 104, 0, 9⟩
-- TIA_NOW (R219)
def TIA_NOW_CODES (p : Nat) : Fld := ⟨16 + p, 108, 0, 32⟩
-- LOS_CNT (R219)
def LOS_CNT_SIG (p : Nat) : Fld := ⟨16 + p, 112, 0, 16⟩
def LOS_CNT_LO (p : Nat) : Fld := ⟨16 + p, 112, 16, 16⟩
-- SQ_TS_LO (R219)
def SQ_TS_LO_NS (p : Nat) : Fld := ⟨16 + p, 116, 0, 32⟩
-- SQ_TS_HI (R219)
def SQ_TS_HI_NS (p : Nat) : Fld := ⟨16 + p, 120, 0, 32⟩
-- RESTART_US (R219)
def RESTART_US_US (p : Nat) : Fld := ⟨16 + p, 124, 0, 32⟩
def evLOS_SIG (p : Nat) : Nat := (16 + p) * 32 + 0
def evLOS_LO (p : Nat) : Nat := (16 + p) * 32 + 1
def evLIGHT_RETURN (p : Nat) : Nat := (16 + p) * 32 + 2
def evSQUELCH_ON (p : Nat) : Nat := (16 + p) * 32 + 3
def evSQUELCH_OFF (p : Nat) : Nat := (16 + p) * 32 + 4
def evRESTART_DONE (p : Nat) : Nat := (16 + p) * 32 + 5
def evRESTART_SLOW (p : Nat) : Nat := (16 + p) * 32 + 6
def evAGC_RAIL (p : Nat) : Nat := (16 + p) * 32 + 7
def evHTR_CLAMP (p : Nat) : Nat := (16 + p) * 32 + 8
end PORT

namespace CNV
/-- The page number (R173). -/
def page (n : Nat) : Nat := 32 + n
-- RATE (R258)
def RATE_RS_MBD (n : Nat) : Fld := ⟨32 + n, 64, 0, 18⟩
-- ROT_CTL (R258)
def ROT_CTL_EN (n : Nat) : Fld := ⟨32 + n, 68, 0, 1⟩
def ROT_CTL_DWELL_US (n : Nat) : Fld := ⟨32 + n, 68, 8, 16⟩
def ROT_CTL_SEAM_MAX (n : Nat) : Fld := ⟨32 + n, 68, 24, 3⟩
-- MATCH (R258)
def MATCH_OFS_Q4 (n : Nat) : Fld := ⟨32 + n, 72, 0, 8⟩
def MATCH_RMS_Q4 (n : Nat) : Fld := ⟨32 + n, 72, 8, 8⟩
-- RETIRE (R258)
def RETIRE_SLICE (n : Nat) : Fld := ⟨32 + n, 76, 0, 7⟩
def RETIRE_VALID (n : Nat) : Fld := ⟨32 + n, 76, 7, 1⟩
-- CMD (R258)
def CMD_FG_CAL (n : Nat) : Fld := ⟨32 + n, 80, 0, 1⟩
-- HIST_CTL (R258)
def HIST_CTL_STRIDE_K (n : Nat) : Fld := ⟨32 + n, 84, 0, 5⟩
-- STAT (R258)
def STAT_STATE (n : Nat) : Fld := ⟨32 + n, 96, 0, 3⟩
def STAT_SPARE (n : Nat) : Fld := ⟨32 + n, 96, 3, 1⟩
def STAT_LOCKED (n : Nat) : Fld := ⟨32 + n, 96, 4, 1⟩
def STAT_RDY (n : Nat) : Fld := ⟨32 + n, 96, 5, 1⟩
def STAT_RATE_OK (n : Nat) : Fld := ⟨32 + n, 96, 6, 1⟩
def STAT_SLOT (n : Nat) : Fld := ⟨32 + n, 96, 8, 7⟩
def STAT_ROT_PHASE (n : Nat) : Fld := ⟨32 + n, 96, 16, 3⟩
-- RATE_NOW (R258)
def RATE_NOW_RS_MBD (n : Nat) : Fld := ⟨32 + n, 100, 0, 18⟩
-- ROT_CNT (R258)
def ROT_CNT_ROUNDS (n : Nat) : Fld := ⟨32 + n, 104, 0, 32⟩
-- SEAM_CNT (R258)
def SEAM_CNT_IN_FAIL (n : Nat) : Fld := ⟨32 + n, 108, 0, 16⟩
def SEAM_CNT_OUT_FAIL (n : Nat) : Fld := ⟨32 + n, 108, 16, 16⟩
-- FAIL_STAT (R258)
def FAIL_STAT_FIRST (n : Nat) : Fld := ⟨32 + n, 112, 0, 7⟩
def FAIL_STAT_FIRST_V (n : Nat) : Fld := ⟨32 + n, 112, 7, 1⟩
def FAIL_STAT_SECOND (n : Nat) : Fld := ⟨32 + n, 112, 8, 7⟩
def FAIL_STAT_SECOND_V (n : Nat) : Fld := ⟨32 + n, 112, 15, 1⟩
def FAIL_STAT_CAUSE1 (n : Nat) : Fld := ⟨32 + n, 112, 16, 4⟩
def FAIL_STAT_CAUSE2 (n : Nat) : Fld := ⟨32 + n, 112, 20, 4⟩
-- WIN_SEQ (R258)
def WIN_SEQ_SEQ (n : Nat) : Fld := ⟨32 + n, 128, 0, 32⟩
-- WIN_FLAGS (R258)
def WIN_FLAGS_SQ (n : Nat) : Fld := ⟨32 + n, 132, 0, 1⟩
def WIN_FLAGS_SAT (n : Nat) : Fld := ⟨32 + n, 132, 1, 1⟩
def WIN_FLAGS_PARTIAL (n : Nat) : Fld := ⟨32 + n, 132, 2, 1⟩
def WIN_FLAGS_DEGR (n : Nat) : Fld := ⟨32 + n, 132, 3, 1⟩
-- NSAMP_LO (R258)
def NSAMP_LO_COUNT (n : Nat) : Fld := ⟨32 + n, 136, 0, 32⟩
-- NSAMP_HI (R258)
def NSAMP_HI_COUNT (n : Nat) : Fld := ⟨32 + n, 140, 0, 32⟩
-- SUM_LO (R258)
def SUM_LO_SUM (n : Nat) : Fld := ⟨32 + n, 144, 0, 32⟩
-- SUM_HI (R258)
def SUM_HI_SUM (n : Nat) : Fld := ⟨32 + n, 148, 0, 32⟩
-- SUMSQ_LO (R258)
def SUMSQ_LO_SUMSQ (n : Nat) : Fld := ⟨32 + n, 152, 0, 32⟩
-- SUMSQ_HI (R258)
def SUMSQ_HI_SUMSQ (n : Nat) : Fld := ⟨32 + n, 156, 0, 32⟩
-- OR_LO (R258)
def OR_LO_COUNT (n : Nat) : Fld := ⟨32 + n, 160, 0, 32⟩
-- OR_HI (R258)
def OR_HI_COUNT (n : Nat) : Fld := ⟨32 + n, 164, 0, 32⟩
-- MINMAX (R258)
def MINMAX_MIN (n : Nat) : Fld := ⟨32 + n, 168, 0, 8⟩
def MINMAX_MAX (n : Nat) : Fld := ⟨32 + n, 168, 8, 8⟩
def MINMAX_VALID (n : Nat) : Fld := ⟨32 + n, 168, 16, 1⟩
-- HIST_OR (R258)
def HIST_OR_COUNT (n : Nat) : Fld := ⟨32 + n, 172, 0, 32⟩
-- SLICE_A (R258)
def SLICE_A_OFS (n s : Nat) : Fld := ⟨32 + n, 1024 + 8 * s, 0, 16⟩
def SLICE_A_GAIN (n s : Nat) : Fld := ⟨32 + n, 1024 + 8 * s, 16, 16⟩
-- SLICE_B (R258)
def SLICE_B_SKEW (n s : Nat) : Fld := ⟨32 + n, 1028 + 8 * s, 0, 12⟩
def SLICE_B_STATE (n s : Nat) : Fld := ⟨32 + n, 1028 + 8 * s, 16, 3⟩
def SLICE_B_CAL_CNT (n s : Nat) : Fld := ⟨32 + n, 1028 + 8 * s, 24, 8⟩
-- HIST (R258)
def HIST_COUNT (n b : Nat) : Fld := ⟨32 + n, 2048 + 4 * b, 0, 32⟩
def evREADY (n : Nat) : Nat := (32 + n) * 32 + 0
def evSLICE_FAIL (n : Nat) : Nat := (32 + n) * 32 + 1
def evCNV_FAIL (n : Nat) : Nat := (32 + n) * 32 + 2
def evUNLOCK (n : Nat) : Nat := (32 + n) * 32 + 3
def evSEAM_FAIL (n : Nat) : Nat := (32 + n) * 32 + 4
def evCAL_ABANDON (n : Nat) : Nat := (32 + n) * 32 + 5
def evFG_DONE (n : Nat) : Nat := (32 + n) * 32 + 6
def evCMD_REFUSED (n : Nat) : Nat := (32 + n) * 32 + 7
def evRATE_MISMATCH (n : Nat) : Nat := (32 + n) * 32 + 8
def evSTAT_SAT (n : Nat) : Nat := (32 + n) * 32 + 9
def evWIN_DONE (n : Nat) : Nat := (32 + n) * 32 + 10
end CNV

namespace EQ
/-- The page number (R173). -/
def page (p : Nat) : Nat := 96 + p
-- CFG (R297)
def CFG_FFT_LOG2 (p : Nat) : Fld := ⟨96 + p, 64, 0, 5⟩
def CFG_NTAPS (p : Nat) : Fld := ⟨96 + p, 64, 8, 6⟩
def CFG_MOD (p : Nat) : Fld := ⟨96 + p, 64, 16, 3⟩
def CFG_ALG (p : Nat) : Fld := ⟨96 + p, 64, 20, 2⟩
def CFG_SEED_BANK (p : Nat) : Fld := ⟨96 + p, 64, 24, 1⟩
-- CD_TARGET (R297)
def CD_TARGET_PSNM (p : Nat) : Fld := ⟨96 + p, 68, 0, 22⟩
-- CD_LAMBDA (R297)
def CD_LAMBDA_LAMBDA (p : Nat) : Fld := ⟨96 + p, 72, 0, 18⟩
-- SKEW (R297)
def SKEW_XI (p : Nat) : Fld := ⟨96 + p, 76, 0, 8⟩
def SKEW_XQ (p : Nat) : Fld := ⟨96 + p, 76, 8, 8⟩
def SKEW_YI (p : Nat) : Fld := ⟨96 + p, 76, 16, 8⟩
def SKEW_YQ (p : Nat) : Fld := ⟨96 + p, 76, 24, 8⟩
-- ANNEAL (R297)
def ANNEAL_CD_BLK (p : Nat) : Fld := ⟨96 + p, 80, 0, 12⟩
def ANNEAL_BF_BLK (p : Nat) : Fld := ⟨96 + p, 80, 16, 12⟩
-- BF_CTL (R297)
def BF_CTL_MU_BLIND (p : Nat) : Fld := ⟨96 + p, 84, 0, 4⟩
def BF_CTL_MU_DD (p : Nat) : Fld := ⟨96 + p, 84, 4, 4⟩
def BF_CTL_MU_PILOT (p : Nat) : Fld := ⟨96 + p, 84, 8, 4⟩
def BF_CTL_GUARD_MODE (p : Nat) : Fld := ⟨96 + p, 84, 12, 1⟩
-- PILOT (R297)
def PILOT_PER_LOG2 (p : Nat) : Fld := ⟨96 + p, 88, 0, 4⟩
def PILOT_AVG (p : Nat) : Fld := ⟨96 + p, 88, 8, 4⟩
-- PILOT_SEED (R297)
def PILOT_SEED_SEED_X (p : Nat) : Fld := ⟨96 + p, 92, 0, 15⟩
def PILOT_SEED_SEED_Y (p : Nat) : Fld := ⟨96 + p, 92, 16, 15⟩
-- GUARD (R297)
def GUARD_WIN_LOG2 (p : Nat) : Fld := ⟨96 + p, 96, 0, 4⟩
def GUARD_MIN_PTS (p : Nat) : Fld := ⟨96 + p, 96, 4, 8⟩
def GUARD_REP_Q4 (p : Nat) : Fld := ⟨96 + p, 96, 12, 4⟩
def GUARD_REL (p : Nat) : Fld := ⟨96 + p, 96, 16, 4⟩
-- LOCK (R297)
def LOCK_THR (p : Nat) : Fld := ⟨96 + p, 100, 0, 8⟩
def LOCK_WIN_LOG2 (p : Nat) : Fld := ⟨96 + p, 100, 8, 4⟩
-- BF_SRC_LO (R297)
def BF_SRC_LO_ADDR (p : Nat) : Fld := ⟨96 + p, 104, 6, 26⟩
-- BF_SRC_HI (R297)
def BF_SRC_HI_ADDR (p : Nat) : Fld := ⟨96 + p, 108, 0, 8⟩
-- SNAP_DST_LO (R297)
def SNAP_DST_LO_ADDR (p : Nat) : Fld := ⟨96 + p, 112, 6, 26⟩
-- SNAP_DST_HI (R297)
def SNAP_DST_HI_ADDR (p : Nat) : Fld := ⟨96 + p, 116, 0, 8⟩
-- CMD (R297)
def CMD_BF_SWAP (p : Nat) : Fld := ⟨96 + p, 120, 0, 1⟩
def CMD_SNAP (p : Nat) : Fld := ⟨96 + p, 120, 1, 1⟩
def CMD_REACQ (p : Nat) : Fld := ⟨96 + p, 120, 2, 1⟩
-- STAT (R297)
def STAT_STATE (p : Nat) : Fld := ⟨96 + p, 128, 0, 3⟩
def STAT_ACQ (p : Nat) : Fld := ⟨96 + p, 128, 3, 1⟩
def STAT_GUARD (p : Nat) : Fld := ⟨96 + p, 128, 4, 1⟩
def STAT_CD_FADE (p : Nat) : Fld := ⟨96 + p, 128, 5, 1⟩
def STAT_BF_FADE (p : Nat) : Fld := ⟨96 + p, 128, 6, 1⟩
def STAT_CD_PEND (p : Nat) : Fld := ⟨96 + p, 128, 7, 1⟩
def STAT_BF_PEND (p : Nat) : Fld := ⟨96 + p, 128, 8, 1⟩
def STAT_CD_BANK (p : Nat) : Fld := ⟨96 + p, 128, 9, 1⟩
def STAT_BF_BANK (p : Nat) : Fld := ⟨96 + p, 128, 10, 1⟩
def STAT_POL_SWAP (p : Nat) : Fld := ⟨96 + p, 128, 11, 1⟩
def STAT_SNAP_BUSY (p : Nat) : Fld := ⟨96 + p, 128, 12, 1⟩
-- CFG_NOW (R297)
def CFG_NOW_CFG (p : Nat) : Fld := ⟨96 + p, 132, 0, 32⟩
-- CD_NOW (R297)
def CD_NOW_PSNM (p : Nat) : Fld := ⟨96 + p, 136, 0, 22⟩
-- CD_BANK_A (R297)
def CD_BANK_A_PSNM (p : Nat) : Fld := ⟨96 + p, 140, 0, 22⟩
-- CD_BANK_B (R297)
def CD_BANK_B_PSNM (p : Nat) : Fld := ⟨96 + p, 144, 0, 22⟩
-- CD_PEND (R297)
def CD_PEND_PSNM (p : Nat) : Fld := ⟨96 + p, 148, 0, 22⟩
-- FADE (R297)
def FADE_CD_POS (p : Nat) : Fld := ⟨96 + p, 152, 0, 12⟩
def FADE_BF_POS (p : Nat) : Fld := ⟨96 + p, 152, 16, 12⟩
-- BF_STAT (R297)
def BF_STAT_REFUSE (p : Nat) : Fld := ⟨96 + p, 156, 0, 3⟩
def BF_STAT_SNAP_ERR (p : Nat) : Fld := ⟨96 + p, 156, 8, 1⟩
def BF_STAT_STANDBY_EMPTY (p : Nat) : Fld := ⟨96 + p, 156, 9, 1⟩
-- ANN_CNT (R297)
def ANN_CNT_DONE (p : Nat) : Fld := ⟨96 + p, 160, 0, 16⟩
def ANN_CNT_REPLACED (p : Nat) : Fld := ⟨96 + p, 160, 16, 8⟩
def ANN_CNT_REFUSED (p : Nat) : Fld := ⟨96 + p, 160, 24, 8⟩
-- LOCK_CNT (R297)
def LOCK_CNT_LOST (p : Nat) : Fld := ⟨96 + p, 164, 0, 16⟩
def LOCK_CNT_RETRY (p : Nat) : Fld := ⟨96 + p, 164, 16, 16⟩
-- GUARD_CNT (R297)
def GUARD_CNT_ENTER (p : Nat) : Fld := ⟨96 + p, 168, 0, 16⟩
def GUARD_CNT_WIN (p : Nat) : Fld := ⟨96 + p, 168, 16, 16⟩
-- ACQ_US (R297)
def ACQ_US_US (p : Nat) : Fld := ⟨96 + p, 172, 0, 32⟩
-- PILOT_NOW (R297)
def PILOT_NOW_PILOT (p : Nat) : Fld := ⟨96 + p, 176, 0, 32⟩
-- SEED_NOW (R297)
def SEED_NOW_SEED (p : Nat) : Fld := ⟨96 + p, 180, 0, 32⟩
def evACQ_DONE (p : Nat) : Nat := (96 + p) * 32 + 0
def evLOCK_LOST (p : Nat) : Nat := (96 + p) * 32 + 1
def evACQ_RETRY (p : Nat) : Nat := (96 + p) * 32 + 2
def evGUARD_ON (p : Nat) : Nat := (96 + p) * 32 + 3
def evGUARD_OFF (p : Nat) : Nat := (96 + p) * 32 + 4
def evCD_FADE_DONE (p : Nat) : Nat := (96 + p) * 32 + 5
def evBF_FADE_DONE (p : Nat) : Nat := (96 + p) * 32 + 6
def evANNEAL_REPLACED (p : Nat) : Nat := (96 + p) * 32 + 7
def evBANK_REFUSED (p : Nat) : Nat := (96 + p) * 32 + 8
def evCD_CLAMP (p : Nat) : Nat := (96 + p) * 32 + 9
def evSNAP_DONE (p : Nat) : Nat := (96 + p) * 32 + 10
def evSNAP_FAIL (p : Nat) : Nat := (96 + p) * 32 + 11
end EQ

namespace SOFT
/-- The page number (R173). -/
def page (p : Nat) : Nat := 112 + p
-- CFG (R325)
def CFG_FMT (p : Nat) : Fld := ⟨112 + p, 64, 0, 1⟩
def CFG_NV_LOG2 (p : Nat) : Fld := ⟨112 + p, 64, 4, 4⟩
def CFG_LLR_GAIN (p : Nat) : Fld := ⟨112 + p, 64, 8, 8⟩
def CFG_SS_GAIN (p : Nat) : Fld := ⟨112 + p, 64, 16, 12⟩
-- SHAPE_A (R325)
def SHAPE_A_W0 (p : Nat) : Fld := ⟨112 + p, 68, 0, 16⟩
def SHAPE_A_W1 (p : Nat) : Fld := ⟨112 + p, 68, 16, 16⟩
-- SHAPE_B (R325)
def SHAPE_B_W2 (p : Nat) : Fld := ⟨112 + p, 72, 0, 16⟩
def SHAPE_B_W3 (p : Nat) : Fld := ⟨112 + p, 72, 16, 16⟩
-- MARK (R325)
def MARK_PER_CYC (p : Nat) : Fld := ⟨112 + p, 76, 0, 16⟩
-- STAT (R325)
def STAT_STATE (p : Nat) : Fld := ⟨112 + p, 96, 0, 2⟩
def STAT_FMT_NOW (p : Nat) : Fld := ⟨112 + p, 96, 2, 1⟩
def STAT_MOD_NOW (p : Nat) : Fld := ⟨112 + p, 96, 3, 2⟩
def STAT_SQ_IN (p : Nat) : Fld := ⟨112 + p, 96, 5, 1⟩
def STAT_NOLOCK_IN (p : Nat) : Fld := ⟨112 + p, 96, 6, 1⟩
def STAT_OVER_BUDGET (p : Nat) : Fld := ⟨112 + p, 96, 7, 1⟩
def STAT_EPOCH (p : Nat) : Fld := ⟨112 + p, 96, 8, 12⟩
-- BUDGET (R325)
def BUDGET_NEED (p : Nat) : Fld := ⟨112 + p, 100, 0, 16⟩
def BUDGET_CAP (p : Nat) : Fld := ⟨112 + p, 100, 16, 16⟩
-- SYMCNT_LO (R325)
def SYMCNT_LO_COUNT (p : Nat) : Fld := ⟨112 + p, 104, 0, 32⟩
-- SYMCNT_HI (R325)
def SYMCNT_HI_COUNT (p : Nat) : Fld := ⟨112 + p, 108, 0, 32⟩
-- MSG_CNT (R325)
def MSG_CNT_COUNT (p : Nat) : Fld := ⟨112 + p, 112, 0, 32⟩
-- MARK_CNT (R325)
def MARK_CNT_COUNT (p : Nat) : Fld := ⟨112 + p, 116, 0, 32⟩
-- DROP_CNT (R325)
def DROP_CNT_COUNT (p : Nat) : Fld := ⟨112 + p, 120, 0, 32⟩
def evSTREAM_START (p : Nat) : Nat := (112 + p) * 32 + 0
def evSTREAM_END (p : Nat) : Nat := (112 + p) * 32 + 1
def evOVER_BUDGET (p : Nat) : Nat := (112 + p) * 32 + 2
def evHERD_DISCARD (p : Nat) : Nat := (112 + p) * 32 + 3
def evSHAPE_UNIFORM (p : Nat) : Nat := (112 + p) * 32 + 4
end SOFT

namespace TSTAT
/-- The page number (R173). -/
def page (p : Nat) : Nat := 128 + p
-- WIN_CTL (R344)
def WIN_CTL_EN (p : Nat) : Fld := ⟨128 + p, 64, 0, 1⟩
def WIN_CTL_REP_EN (p : Nat) : Fld := ⟨128 + p, 64, 1, 1⟩
def WIN_CTL_REP_LOG2 (p : Nat) : Fld := ⟨128 + p, 64, 8, 5⟩
-- WIN_START_LO (R344)
def WIN_START_LO_NS (p : Nat) : Fld := ⟨128 + p, 68, 0, 32⟩
-- WIN_START_HI (R344)
def WIN_START_HI_NS (p : Nat) : Fld := ⟨128 + p, 72, 0, 32⟩
-- WIN_PER (R344)
def WIN_PER_PER_US (p : Nat) : Fld := ⟨128 + p, 76, 0, 32⟩
-- REP_BASE_LO (R344)
def REP_BASE_LO_ADDR (p : Nat) : Fld := ⟨128 + p, 80, 16, 16⟩
-- REP_BASE_HI (R344)
def REP_BASE_HI_ADDR (p : Nat) : Fld := ⟨128 + p, 84, 0, 8⟩
-- STAT (R344)
def STAT_RUN (p : Nat) : Fld := ⟨128 + p, 96, 0, 1⟩
def STAT_KEY (p : Nat) : Fld := ⟨128 + p, 96, 1, 1⟩
def STAT_RING_BAD (p : Nat) : Fld := ⟨128 + p, 96, 2, 1⟩
-- WIN_SEQ (R344)
def WIN_SEQ_SEQ (p : Nat) : Fld := ⟨128 + p, 128, 0, 32⟩
-- WIN_FLAGS (R344)
def WIN_FLAGS_SQ (p : Nat) : Fld := ⟨128 + p, 132, 0, 1⟩
def WIN_FLAGS_NOTRACK (p : Nat) : Fld := ⟨128 + p, 132, 1, 1⟩
def WIN_FLAGS_GUARD (p : Nat) : Fld := ⟨128 + p, 132, 2, 1⟩
def WIN_FLAGS_STEPPED (p : Nat) : Fld := ⟨128 + p, 132, 3, 1⟩
def WIN_FLAGS_FADE (p : Nat) : Fld := ⟨128 + p, 132, 4, 1⟩
def WIN_FLAGS_TRUST (p : Nat) : Fld := ⟨128 + p, 132, 5, 1⟩
-- LAST_START_LO (R344)
def LAST_START_LO_NS (p : Nat) : Fld := ⟨128 + p, 136, 0, 32⟩
-- LAST_START_HI (R344)
def LAST_START_HI_NS (p : Nat) : Fld := ⟨128 + p, 140, 0, 32⟩
-- LAST_END_LO (R344)
def LAST_END_LO_NS (p : Nat) : Fld := ⟨128 + p, 144, 0, 32⟩
-- LAST_END_HI (R344)
def LAST_END_HI_NS (p : Nat) : Fld := ⟨128 + p, 148, 0, 32⟩
-- EST_VALID (R344)
def EST_VALID_VALID (p : Nat) : Fld := ⟨128 + p, 152, 0, 10⟩
-- OSNR (R344)
def OSNR_OSNR (p : Nat) : Fld := ⟨128 + p, 156, 0, 16⟩
def OSNR_SNR (p : Nat) : Fld := ⟨128 + p, 156, 16, 16⟩
-- CD_COMP (R344)
def CD_COMP_PSNM (p : Nat) : Fld := ⟨128 + p, 160, 0, 22⟩
-- CD_RES (R344)
def CD_RES_PSNM (p : Nat) : Fld := ⟨128 + p, 164, 0, 22⟩
-- DGD_PDL (R344)
def DGD_PDL_DGD (p : Nat) : Fld := ⟨128 + p, 168, 0, 12⟩
def DGD_PDL_PDL (p : Nat) : Fld := ⟨128 + p, 168, 16, 8⟩
-- SOP (R344)
def SOP_MAX_KRADS (p : Nat) : Fld := ⟨128 + p, 172, 0, 16⟩
def SOP_MEAN_KRADS (p : Nat) : Fld := ⟨128 + p, 172, 16, 16⟩
-- FOFS (R344)
def FOFS_MEAN_MHZ (p : Nat) : Fld := ⟨128 + p, 176, 0, 16⟩
def FOFS_SPAN_MHZ (p : Nat) : Fld := ⟨128 + p, 176, 16, 16⟩
-- PERR_X (R344)
def PERR_X_COUNT (p : Nat) : Fld := ⟨128 + p, 180, 0, 32⟩
-- PERR_Y (R344)
def PERR_Y_COUNT (p : Nat) : Fld := ⟨128 + p, 184, 0, 32⟩
-- PCNT (R344)
def PCNT_COUNT (p : Nat) : Fld := ⟨128 + p, 188, 0, 32⟩
-- BER (R344)
def BER_NLOG (p : Nat) : Fld := ⟨128 + p, 192, 0, 16⟩
def BER_Q (p : Nat) : Fld := ⟨128 + p, 192, 16, 16⟩
-- QUAD (R344)
def QUAD_X (p : Nat) : Fld := ⟨128 + p, 196, 0, 16⟩
def QUAD_Y (p : Nat) : Fld := ⟨128 + p, 196, 16, 16⟩
-- IQ_AMP (R344)
def IQ_AMP_X (p : Nat) : Fld := ⟨128 + p, 200, 0, 16⟩
def IQ_AMP_Y (p : Nat) : Fld := ⟨128 + p, 200, 16, 16⟩
-- REP_WR (R344)
def REP_WR_COUNT (p : Nat) : Fld := ⟨128 + p, 216, 0, 32⟩
-- REP_SKIP (R344)
def REP_SKIP_COUNT (p : Nat) : Fld := ⟨128 + p, 220, 0, 32⟩
-- SLICE (R344)
def SLICE_OFS_DEV (p l s : Nat) : Fld := ⟨128 + p, 1024 + 256 * l + 4 * s, 0, 8⟩
def SLICE_GAIN_DEV (p l s : Nat) : Fld := ⟨128 + p, 1024 + 256 * l + 4 * s, 8, 8⟩
def SLICE_SKEW_DEV (p l s : Nat) : Fld := ⟨128 + p, 1024 + 256 * l + 4 * s, 16, 8⟩
def SLICE_VALID (p l s : Nat) : Fld := ⟨128 + p, 1024 + 256 * l + 4 * s, 24, 1⟩
def evWIN_DONE (p : Nat) : Nat := (128 + p) * 32 + 0
def evWIN_STEPPED (p : Nat) : Nat := (128 + p) * 32 + 1
def evREPORT_SKIP (p : Nat) : Nat := (128 + p) * 32 + 2
def evREPORT_ERR (p : Nat) : Nat := (128 + p) * 32 + 3
end TSTAT

namespace PCV
/-- The page number (R173). -/
def page (c : Nat) : Nat := 144 + c
-- CTL (R388)
def CTL_CAL_PER_S (c : Nat) : Fld := ⟨144 + c, 64, 0, 16⟩
-- CHK_CTL (R388)
def CHK_CTL_TOL (c : Nat) : Fld := ⟨144 + c, 68, 0, 16⟩
def CHK_CTL_MISMATCH_N (c : Nat) : Fld := ⟨144 + c, 68, 16, 4⟩
-- CMD (R388)
def CMD_CAL (c : Nat) : Fld := ⟨144 + c, 72, 0, 1⟩
-- STAT (R388)
def STAT_STATE (c : Nat) : Fld := ⟨144 + c, 96, 0, 2⟩
def STAT_COVERING (c : Nat) : Fld := ⟨144 + c, 96, 2, 1⟩
def STAT_CAL_PEND (c : Nat) : Fld := ⟨144 + c, 96, 3, 1⟩
def STAT_SUSPECT (c : Nat) : Fld := ⟨144 + c, 96, 4, 1⟩
def STAT_FAIL_CAUSE (c : Nat) : Fld := ⟨144 + c, 96, 8, 3⟩
def STAT_MISMATCH (c : Nat) : Fld := ⟨144 + c, 96, 12, 4⟩
-- CAL_RES (R388)
def CAL_RES_OFS (c : Nat) : Fld := ⟨144 + c, 100, 0, 16⟩
def CAL_RES_GAIN (c : Nat) : Fld := ⟨144 + c, 100, 16, 16⟩
-- CONV_CNT (R388)
def CONV_CNT_COUNT (c : Nat) : Fld := ⟨144 + c, 104, 0, 32⟩
-- CHK_CNT (R388)
def CHK_CNT_PASS (c : Nat) : Fld := ⟨144 + c, 108, 0, 16⟩
def CHK_CNT_MISMATCH (c : Nat) : Fld := ⟨144 + c, 108, 16, 16⟩
def evREADY (c : Nat) : Nat := (144 + c) * 32 + 0
def evCAL_DONE (c : Nat) : Nat := (144 + c) * 32 + 1
def evPCV_FAIL (c : Nat) : Nat := (144 + c) * 32 + 2
def evTAKEOVER (c : Nat) : Nat := (144 + c) * 32 + 3
def evCHK_MISMATCH (c : Nat) : Nat := (144 + c) * 32 + 4
def evCHK_UNRESOLVED (c : Nat) : Nat := (144 + c) * 32 + 5
end PCV

namespace SEQ
/-- The page number (R173). -/
def page : Nat := 168
-- CTL (R391)
def CTL_EN : Fld := ⟨168, 64, 0, 1⟩
def CTL_MODE : Fld := ⟨168, 64, 1, 1⟩
def CTL_START : Fld := ⟨168, 64, 16, 16⟩
-- TRIG_TMO (R391)
def TRIG_TMO_CYC : Fld := ⟨168, 68, 0, 24⟩
-- INJ_LO (R391)
def INJ_LO_ENTRY : Fld := ⟨168, 72, 0, 32⟩
-- INJ_HI (R391)
def INJ_HI_ENTRY : Fld := ⟨168, 76, 0, 32⟩
-- INJ_CMD (R391)
def INJ_CMD_GO : Fld := ⟨168, 80, 0, 1⟩
-- STAT (R391)
def STAT_RUN : Fld := ⟨168, 96, 0, 1⟩
def STAT_INJ_BUSY : Fld := ⟨168, 96, 1, 1⟩
def STAT_INJ_END : Fld := ⟨168, 96, 2, 2⟩
def STAT_WAIT_TRIG : Fld := ⟨168, 96, 4, 1⟩
def STAT_CUR : Fld := ⟨168, 96, 16, 16⟩
-- PASS_CNT (R391)
def PASS_CNT_COUNT : Fld := ⟨168, 100, 0, 32⟩
-- ERR_CNT (R391)
def ERR_CNT_BAD : Fld := ⟨168, 104, 0, 8⟩
def ERR_CNT_MISS : Fld := ⟨168, 104, 8, 8⟩
def ERR_CNT_DEAD : Fld := ⟨168, 104, 16, 8⟩
def ERR_CNT_CLASS : Fld := ⟨168, 104, 24, 4⟩
def ERR_CNT_INJREF : Fld := ⟨168, 104, 28, 4⟩
-- LATE_CNT (R391)
def LATE_CNT_COUNT : Fld := ⟨168, 108, 0, 32⟩
-- INJ_RES (R391)
def INJ_RES_RESULT : Fld := ⟨168, 112, 0, 26⟩
def INJ_RES_OR : Fld := ⟨168, 112, 26, 1⟩
def INJ_RES_COVER : Fld := ⟨168, 112, 27, 1⟩
def INJ_RES_CLASS_T : Fld := ⟨168, 112, 28, 1⟩
def INJ_RES_CHK : Fld := ⟨168, 112, 29, 2⟩
-- INJ_TS_LO (R391)
def INJ_TS_LO_NS : Fld := ⟨168, 116, 0, 32⟩
-- INJ_TS_HI (R391)
def INJ_TS_HI_NS : Fld := ⟨168, 120, 0, 32⟩
-- TMAP (R391)
def TMAP_CLASS_T (w : Nat) : Fld := ⟨168, 256 + 4 * w, 0, 32⟩
def evPASS_DONE : Nat := 168 * 32 + 0
def evSEQ_STOP : Nat := 168 * 32 + 1
def evENTRY_BAD : Nat := 168 * 32 + 2
def evTRIG_MISS : Nat := 168 * 32 + 3
def evENTRY_DEAD : Nat := 168 * 32 + 4
def evCLASS_FORCE : Nat := 168 * 32 + 5
def evINJ_DONE : Nat := 168 * 32 + 6
def evINJ_REFUSED : Nat := 168 * 32 + 7
def evLATE : Nat := 168 * 32 + 8
end SEQ

namespace PWM
/-- The page number (R173). -/
def page : Nat := 169
-- CFG (R392)
def CFG_PERIOD (o : Nat) : Fld := ⟨169, 256 + 4 * o, 0, 16⟩
def CFG_PHASE (o : Nat) : Fld := ⟨169, 256 + 4 * o, 16, 16⟩
-- DUTY (R392)
def DUTY_DUTY (o : Nat) : Fld := ⟨169, 512 + 4 * o, 0, 16⟩
-- DUTY_NOW (R392)
def DUTY_NOW_NOW (o : Nat) : Fld := ⟨169, 768 + 4 * o, 0, 16⟩
def DUTY_NOW_CLAMPED (o : Nat) : Fld := ⟨169, 768 + 4 * o, 16, 1⟩
def DUTY_NOW_RAMPING (o : Nat) : Fld := ⟨169, 768 + 4 * o, 17, 1⟩
end PWM

namespace TMR
/-- The page number (R173). -/
def page : Nat := 170
-- PER (R394)
def PER_CYC (t : Nat) : Fld := ⟨170, 64 + 4 * t, 0, 32⟩
-- PHASE (R394)
def PHASE_CYC (t : Nat) : Fld := ⟨170, 128 + 4 * t, 0, 32⟩
-- CTL (R394)
def CTL_EN : Fld := ⟨170, 192, 0, 16⟩
-- TICK_LO (R394)
def TICK_LO_COUNT : Fld := ⟨170, 196, 0, 32⟩
-- TICK_HI (R394)
def TICK_HI_COUNT : Fld := ⟨170, 200, 0, 32⟩
end TMR

namespace ACCU
/-- The page number (R173). -/
def page : Nat := 171
-- WIN_CTL (R397)
def WIN_CTL_EN : Fld := ⟨171, 64, 0, 1⟩
-- WIN_START_LO (R397)
def WIN_START_LO_NS : Fld := ⟨171, 68, 0, 32⟩
-- WIN_START_HI (R397)
def WIN_START_HI_NS : Fld := ⟨171, 72, 0, 32⟩
-- WIN_PER (R397)
def WIN_PER_PER_US : Fld := ⟨171, 76, 0, 32⟩
-- WIN_SEQ (R397)
def WIN_SEQ_SEQ : Fld := ⟨171, 128, 0, 32⟩
-- WIN_FLAGS (R397)
def WIN_FLAGS_STEPPED : Fld := ⟨171, 132, 0, 1⟩
def WIN_FLAGS_TRUST : Fld := ⟨171, 132, 1, 1⟩
-- LAST_END_LO (R397)
def LAST_END_LO_NS : Fld := ⟨171, 136, 0, 32⟩
-- LAST_END_HI (R397)
def LAST_END_HI_NS : Fld := ⟨171, 140, 0, 32⟩
-- N (R397)
def N_COUNT (a : Nat) : Fld := ⟨171, 1024 + 32 * a, 0, 32⟩
-- SUM_LO (R397)
def SUM_LO_SUM (a : Nat) : Fld := ⟨171, 1028 + 32 * a, 0, 32⟩
-- SUM_HI (R397)
def SUM_HI_SUM (a : Nat) : Fld := ⟨171, 1032 + 32 * a, 0, 32⟩
-- SUMSQ_LO (R397)
def SUMSQ_LO_SUMSQ (a : Nat) : Fld := ⟨171, 1036 + 32 * a, 0, 32⟩
-- SUMSQ_HI (R397)
def SUMSQ_HI_SUMSQ (a : Nat) : Fld := ⟨171, 1040 + 32 * a, 0, 32⟩
-- MIN (R397)
def MIN_VALUE (a : Nat) : Fld := ⟨171, 1044 + 32 * a, 0, 26⟩
-- MAX (R397)
def MAX_VALUE (a : Nat) : Fld := ⟨171, 1048 + 32 * a, 0, 26⟩
-- FLAGS (R397)
def FLAGS_OR (a : Nat) : Fld := ⟨171, 1052 + 32 * a, 0, 16⟩
def FLAGS_SPARSE (a : Nat) : Fld := ⟨171, 1052 + 32 * a, 16, 1⟩
def FLAGS_SAT (a : Nat) : Fld := ⟨171, 1052 + 32 * a, 17, 1⟩
def FLAGS_COVER (a : Nat) : Fld := ⟨171, 1052 + 32 * a, 18, 1⟩
def FLAGS_LATE (a : Nat) : Fld := ⟨171, 1052 + 32 * a, 19, 1⟩
def evWIN_DONE : Nat := 171 * 32 + 0
def evACCU_SAT : Nat := 171 * 32 + 1
end ACCU

namespace RING
/-- The page number (R173). -/
def page : Nat := 172
-- RCTL (R399)
def RCTL_EN (r : Nat) : Fld := ⟨172, 256 + 32 * r, 0, 1⟩
def RCTL_MODE (r : Nat) : Fld := ⟨172, 256 + 32 * r, 1, 1⟩
def RCTL_SIZE_LOG2 (r : Nat) : Fld := ⟨172, 256 + 32 * r, 8, 5⟩
-- BASE_LO (R399)
def BASE_LO_ADDR (r : Nat) : Fld := ⟨172, 260 + 32 * r, 16, 16⟩
-- BASE_HI (R399)
def BASE_HI_ADDR (r : Nat) : Fld := ⟨172, 264 + 32 * r, 0, 8⟩
-- WR (R399)
def WR_COUNT (r : Nat) : Fld := ⟨172, 268 + 32 * r, 0, 32⟩
-- RD (R399)
def RD_COUNT (r : Nat) : Fld := ⟨172, 272 + 32 * r, 0, 32⟩
-- DROP (R399)
def DROP_COUNT (r : Nat) : Fld := ⟨172, 276 + 32 * r, 0, 32⟩
-- RSTAT (R399)
def RSTAT_BAD (r : Nat) : Fld := ⟨172, 280 + 32 * r, 0, 1⟩
def RSTAT_FULL (r : Nat) : Fld := ⟨172, 280 + 32 * r, 1, 1⟩
/-- Event RING_FULL. -/
def evRING_FULL (r : Nat) : Nat := 172 * 32 + (0 + r)
/-- Event RING_ERR. -/
def evRING_ERR (r : Nat) : Nat := 172 * 32 + (16 + r)
end RING

namespace FILT
/-- The page number (R173). -/
def page (n : Nat) : Nat := 176 + n
-- CTL (R432)
def CTL_PCV (n : Nat) : Fld := ⟨176 + n, 64, 0, 5⟩
def CTL_SEL (n : Nat) : Fld := ⟨176 + n, 64, 5, 2⟩
def CTL_INPUT (n : Nat) : Fld := ⟨176 + n, 64, 7, 9⟩
def CTL_ENTRY (n : Nat) : Fld := ⟨176 + n, 64, 16, 16⟩
-- STAGES (R432)
def STAGES_NSTAGES (n : Nat) : Fld := ⟨176 + n, 68, 0, 3⟩
def STAGES_DEC0 (n : Nat) : Fld := ⟨176 + n, 68, 8, 4⟩
def STAGES_DEC1 (n : Nat) : Fld := ⟨176 + n, 68, 12, 4⟩
def STAGES_DEC2 (n : Nat) : Fld := ⟨176 + n, 68, 16, 4⟩
def STAGES_DEC3 (n : Nat) : Fld := ⟨176 + n, 68, 20, 4⟩
-- IN_OFS (R432)
def IN_OFS_OFS (n : Nat) : Fld := ⟨176 + n, 72, 0, 26⟩
-- DELAY (R432)
def DELAY_INT (n : Nat) : Fld := ⟨176 + n, 76, 0, 12⟩
def DELAY_FRAC (n : Nat) : Fld := ⟨176 + n, 76, 12, 4⟩
-- GAP (R432)
def GAP_NS (n : Nat) : Fld := ⟨176 + n, 80, 0, 32⟩
-- ANNEAL (R432)
def ANNEAL_BLK (n : Nat) : Fld := ⟨176 + n, 84, 0, 12⟩
-- BANK_SRC_LO (R432)
def BANK_SRC_LO_ADDR (n : Nat) : Fld := ⟨176 + n, 88, 6, 26⟩
-- BANK_SRC_HI (R432)
def BANK_SRC_HI_ADDR (n : Nat) : Fld := ⟨176 + n, 92, 0, 8⟩
-- TONE_CTL (R432)
def TONE_CTL_EN (n : Nat) : Fld := ⟨176 + n, 96, 0, 1⟩
def TONE_CTL_LEN_LOG2 (n : Nat) : Fld := ⟨176 + n, 96, 8, 5⟩
def TONE_CTL_ON_N (n : Nat) : Fld := ⟨176 + n, 96, 16, 4⟩
def TONE_CTL_OFF_N (n : Nat) : Fld := ⟨176 + n, 96, 20, 4⟩
-- TONE_PINC (R432)
def TONE_PINC_PINC (n : Nat) : Fld := ⟨176 + n, 100, 0, 24⟩
-- TONE_ON (R432)
def TONE_ON_MAG (n : Nat) : Fld := ⟨176 + n, 104, 0, 32⟩
-- TONE_OFF (R432)
def TONE_OFF_MAG (n : Nat) : Fld := ⟨176 + n, 108, 0, 32⟩
-- THR_HI (R432)
def THR_HI_VALUE (n : Nat) : Fld := ⟨176 + n, 112, 0, 32⟩
-- THR_LO (R432)
def THR_LO_VALUE (n : Nat) : Fld := ⟨176 + n, 116, 0, 32⟩
-- THR_HYST (R432)
def THR_HYST_VALUE (n : Nat) : Fld := ⟨176 + n, 120, 0, 31⟩
-- THR_CTL (R432)
def THR_CTL_UP_EN (n : Nat) : Fld := ⟨176 + n, 124, 0, 1⟩
def THR_CTL_LO_EN (n : Nat) : Fld := ⟨176 + n, 124, 1, 1⟩
-- OUT_CTL (R432)
def OUT_CTL_EN (n : Nat) : Fld := ⟨176 + n, 128, 0, 1⟩
def OUT_CTL_MODE (n : Nat) : Fld := ⟨176 + n, 128, 1, 1⟩
def OUT_CTL_SIZE_LOG2 (n : Nat) : Fld := ⟨176 + n, 128, 8, 5⟩
-- OUT_BASE_LO (R432)
def OUT_BASE_LO_ADDR (n : Nat) : Fld := ⟨176 + n, 132, 16, 16⟩
-- PAR_BASE_LO (R432)
def PAR_BASE_LO_ADDR (n : Nat) : Fld := ⟨176 + n, 148, 16, 16⟩
-- OUT_BASE_HI (R432)
def OUT_BASE_HI_ADDR (n : Nat) : Fld := ⟨176 + n, 136, 0, 8⟩
-- PAR_BASE_HI (R432)
def PAR_BASE_HI_ADDR (n : Nat) : Fld := ⟨176 + n, 152, 0, 8⟩
-- PAR_CTL (R432)
def PAR_CTL_EN (n : Nat) : Fld := ⟨176 + n, 140, 0, 1⟩
def PAR_CTL_MODE (n : Nat) : Fld := ⟨176 + n, 140, 1, 1⟩
def PAR_CTL_TRIG (n : Nat) : Fld := ⟨176 + n, 140, 2, 4⟩
def PAR_CTL_GROUP (n : Nat) : Fld := ⟨176 + n, 140, 8, 4⟩
def PAR_CTL_PAR_LOG2 (n : Nat) : Fld := ⟨176 + n, 140, 12, 5⟩
def PAR_CTL_NSLOT_LOG2 (n : Nat) : Fld := ⟨176 + n, 140, 20, 4⟩
-- PAR_POST (R432)
def PAR_POST_POST (n : Nat) : Fld := ⟨176 + n, 144, 0, 16⟩
-- CMD (R432)
def CMD_BANK_SWAP (n : Nat) : Fld := ⟨176 + n, 156, 0, 1⟩
def CMD_PAR_TRIG (n : Nat) : Fld := ⟨176 + n, 156, 1, 1⟩
def CMD_RESTART (n : Nat) : Fld := ⟨176 + n, 156, 2, 1⟩
-- STAT (R432)
def STAT_STATE (n : Nat) : Fld := ⟨176 + n, 192, 0, 2⟩
def STAT_BANK (n : Nat) : Fld := ⟨176 + n, 192, 2, 1⟩
def STAT_FADE (n : Nat) : Fld := ⟨176 + n, 192, 3, 1⟩
def STAT_PEND (n : Nat) : Fld := ⟨176 + n, 192, 4, 1⟩
def STAT_STANDBY_EMPTY (n : Nat) : Fld := ⟨176 + n, 192, 5, 1⟩
def STAT_REFUSE (n : Nat) : Fld := ⟨176 + n, 192, 6, 3⟩
def STAT_TONE_PRESENT (n : Nat) : Fld := ⟨176 + n, 192, 9, 1⟩
def STAT_UP_ARMED (n : Nat) : Fld := ⟨176 + n, 192, 10, 1⟩
def STAT_LO_ARMED (n : Nat) : Fld := ⟨176 + n, 192, 11, 1⟩
def STAT_PAR_STATE (n : Nat) : Fld := ⟨176 + n, 192, 12, 2⟩
def STAT_OUT_BAD (n : Nat) : Fld := ⟨176 + n, 192, 14, 1⟩
def STAT_PAR_BAD (n : Nat) : Fld := ⟨176 + n, 192, 15, 1⟩
def STAT_FADE_POS (n : Nat) : Fld := ⟨176 + n, 192, 16, 12⟩
-- OUT_WR (R432)
def OUT_WR_COUNT (n : Nat) : Fld := ⟨176 + n, 196, 0, 32⟩
-- OUT_RD (R432)
def OUT_RD_COUNT (n : Nat) : Fld := ⟨176 + n, 200, 0, 32⟩
-- OUT_DROP (R432)
def OUT_DROP_COUNT (n : Nat) : Fld := ⟨176 + n, 204, 0, 32⟩
-- LAST_VAL (R432)
def LAST_VAL_VALUE (n : Nat) : Fld := ⟨176 + n, 208, 0, 32⟩
-- LAST_TS_LO (R432)
def LAST_TS_LO_NS (n : Nat) : Fld := ⟨176 + n, 212, 0, 32⟩
-- LAST_TS_HI (R432)
def LAST_TS_HI_NS (n : Nat) : Fld := ⟨176 + n, 216, 0, 32⟩
-- TONE_MAG (R432)
def TONE_MAG_MAG (n : Nat) : Fld := ⟨176 + n, 220, 0, 32⟩
-- TONE_PHASE (R432)
def TONE_PHASE_PHASE (n : Nat) : Fld := ⟨176 + n, 224, 0, 16⟩
-- TONE_SEQ (R432)
def TONE_SEQ_SEQ (n : Nat) : Fld := ⟨176 + n, 228, 0, 32⟩
-- PAR_WR (R432)
def PAR_WR_COUNT (n : Nat) : Fld := ⟨176 + n, 232, 0, 32⟩
-- PAR_RD (R432)
def PAR_RD_COUNT (n : Nat) : Fld := ⟨176 + n, 236, 0, 32⟩
-- CNT (R432)
def CNT_GAP (n : Nat) : Fld := ⟨176 + n, 240, 0, 8⟩
def CNT_SAT (n : Nat) : Fld := ⟨176 + n, 240, 8, 8⟩
def CNT_PAR_SKIP (n : Nat) : Fld := ⟨176 + n, 240, 16, 8⟩
def CNT_PAR_IGN (n : Nat) : Fld := ⟨176 + n, 240, 24, 8⟩
-- ANN_CNT (R432)
def ANN_CNT_DONE (n : Nat) : Fld := ⟨176 + n, 244, 0, 16⟩
def ANN_CNT_REPLACED (n : Nat) : Fld := ⟨176 + n, 244, 16, 8⟩
def ANN_CNT_REFUSED (n : Nat) : Fld := ⟨176 + n, 244, 24, 8⟩
-- BANK_NOW (R432)
def BANK_NOW_NTAPS (n : Nat) : Fld := ⟨176 + n, 248, 0, 32⟩
-- SHIFT_NOW (R432)
def SHIFT_NOW_SHIFT (n : Nat) : Fld := ⟨176 + n, 252, 0, 32⟩
-- COEF (R432)
def COEF_VALUE (n s t : Nat) : Fld := ⟨176 + n, 1024 + 256 * s + 4 * t, 0, 18⟩
def COEF_SIGN (n s t : Nat) : Fld := ⟨176 + n, 1024 + 256 * s + 4 * t, 18, 14⟩
def evTONE_ON (n : Nat) : Nat := (176 + n) * 32 + 0
def evTONE_OFF (n : Nat) : Nat := (176 + n) * 32 + 1
def evTHR_UPPER (n : Nat) : Nat := (176 + n) * 32 + 2
def evTHR_LOWER (n : Nat) : Nat := (176 + n) * 32 + 3
def evFADE_DONE (n : Nat) : Nat := (176 + n) * 32 + 4
def evANNEAL_REPLACED (n : Nat) : Nat := (176 + n) * 32 + 5
def evBANK_REFUSED (n : Nat) : Nat := (176 + n) * 32 + 6
def evPAR_DONE (n : Nat) : Nat := (176 + n) * 32 + 7
def evPAR_SKIP (n : Nat) : Nat := (176 + n) * 32 + 8
def evPAR_ERR (n : Nat) : Nat := (176 + n) * 32 + 9
def evOUT_FULL (n : Nat) : Nat := (176 + n) * 32 + 10
def evOUT_ERR (n : Nat) : Nat := (176 + n) * 32 + 11
def evINPUT_GAP (n : Nat) : Nat := (176 + n) * 32 + 12
def evSTAGE_SAT (n : Nat) : Nat := (176 + n) * 32 + 13
def evRUN (n : Nat) : Nat := (176 + n) * 32 + 14
end FILT

namespace HERD
/-- The page number (R173). -/
def page (h : Nat) : Nat := 224 + h
-- CTL (R466)
def CTL_MIN_L (h : Nat) : Fld := ⟨224 + h, 64, 0, 5⟩
def CTL_SCAN_EN (h : Nat) : Fld := ⟨224 + h, 64, 8, 1⟩
-- TMO (R466)
def TMO_RX_MS (h : Nat) : Fld := ⟨224 + h, 68, 0, 8⟩
def TMO_TRAIN_MS (h : Nat) : Fld := ⟨224 + h, 68, 8, 8⟩
def TMO_ALIGN_MS (h : Nat) : Fld := ⟨224 + h, 68, 16, 8⟩
def TMO_SILENT_MS (h : Nat) : Fld := ⟨224 + h, 68, 24, 8⟩
-- TX_PRESET (R466)
def TX_PRESET_CM2 (h : Nat) : Fld := ⟨224 + h, 72, 0, 8⟩
def TX_PRESET_CM1 (h : Nat) : Fld := ⟨224 + h, 72, 8, 8⟩
def TX_PRESET_CP1 (h : Nat) : Fld := ⟨224 + h, 72, 16, 8⟩
def TX_PRESET_CP2 (h : Nat) : Fld := ⟨224 + h, 72, 24, 8⟩
-- CMD (R466)
def CMD_RETRAIN (h : Nat) : Fld := ⟨224 + h, 76, 0, 1⟩
def CMD_LANE_TEST (h : Nat) : Fld := ⟨224 + h, 76, 1, 1⟩
def CMD_LANE (h : Nat) : Fld := ⟨224 + h, 76, 8, 5⟩
def CMD_DIR (h : Nat) : Fld := ⟨224 + h, 76, 13, 1⟩
-- EYE_CTL (R466)
def EYE_CTL_DWELL_LOG2 (h : Nat) : Fld := ⟨224 + h, 80, 0, 5⟩
def EYE_CTL_THR (h : Nat) : Fld := ⟨224 + h, 80, 8, 8⟩
def EYE_CTL_MIN_H (h : Nat) : Fld := ⟨224 + h, 80, 16, 8⟩
def EYE_CTL_MIN_W (h : Nat) : Fld := ⟨224 + h, 80, 24, 8⟩
-- STAT (R466)
def STAT_STATE (h : Nat) : Fld := ⟨224 + h, 96, 0, 3⟩
def STAT_ABSENT (h : Nat) : Fld := ⟨224 + h, 96, 3, 1⟩
def STAT_FAILOVER (h : Nat) : Fld := ⟨224 + h, 96, 4, 1⟩
def STAT_L_ACTIVE (h : Nat) : Fld := ⟨224 + h, 96, 8, 5⟩
def STAT_TX_SPARES (h : Nat) : Fld := ⟨224 + h, 96, 16, 3⟩
def STAT_RX_SPARES (h : Nat) : Fld := ⟨224 + h, 96, 20, 3⟩
def STAT_RX_ACTIVE (h : Nat) : Fld := ⟨224 + h, 96, 24, 3⟩
-- CNT (R466)
def CNT_FAILOVER (h : Nat) : Fld := ⟨224 + h, 100, 0, 8⟩
def CNT_RETRY (h : Nat) : Fld := ⟨224 + h, 100, 8, 16⟩
def CNT_REQ_REF (h : Nat) : Fld := ⟨224 + h, 100, 24, 8⟩
-- LANE_TX (R466)
def LANE_TX_ROLE (h i : Nat) : Fld := ⟨224 + h, 256 + 8 * i, 0, 3⟩
def LANE_TX_DONE (h i : Nat) : Fld := ⟨224 + h, 256 + 8 * i, 3, 1⟩
def LANE_TX_LOGICAL (h i : Nat) : Fld := ⟨224 + h, 256 + 8 * i, 4, 5⟩
def LANE_TX_CAUSE (h i : Nat) : Fld := ⟨224 + h, 256 + 8 * i, 9, 3⟩
def LANE_TX_SEQ (h i : Nat) : Fld := ⟨224 + h, 256 + 8 * i, 16, 8⟩
-- LANE_COEF (R466)
def LANE_COEF_TAPS (h i : Nat) : Fld := ⟨224 + h, 260 + 8 * i, 0, 32⟩
-- LANE_RX (R466)
def LANE_RX_ROLE (h j : Nat) : Fld := ⟨224 + h, 416 + 4 * j, 0, 3⟩
def LANE_RX_SIG (h j : Nat) : Fld := ⟨224 + h, 416 + 4 * j, 3, 1⟩
def LANE_RX_CDR (h j : Nat) : Fld := ⟨224 + h, 416 + 4 * j, 4, 1⟩
def LANE_RX_BLK (h j : Nat) : Fld := ⟨224 + h, 416 + 4 * j, 5, 1⟩
def LANE_RX_ADAPT_HOLD (h j : Nat) : Fld := ⟨224 + h, 416 + 4 * j, 6, 1⟩
def LANE_RX_LOGICAL (h j : Nat) : Fld := ⟨224 + h, 416 + 4 * j, 8, 2⟩
def LANE_RX_CAUSE (h j : Nat) : Fld := ⟨224 + h, 416 + 4 * j, 10, 3⟩
def LANE_RX_BLK_ERR (h j : Nat) : Fld := ⟨224 + h, 416 + 4 * j, 16, 16⟩
-- EYE_RES (R466)
def EYE_RES_HEIGHT (h j e : Nat) : Fld := ⟨224 + h, 512 + 16 * j + 4 * e, 0, 12⟩
def EYE_RES_WIDTH (h j e : Nat) : Fld := ⟨224 + h, 512 + 16 * j + 4 * e, 16, 6⟩
def EYE_RES_SCANS (h j e : Nat) : Fld := ⟨224 + h, 512 + 16 * j + 4 * e, 24, 7⟩
def EYE_RES_VALID (h j e : Nat) : Fld := ⟨224 + h, 512 + 16 * j + 4 * e, 31, 1⟩
-- TX_MARGIN (R466)
def TX_MARGIN_HEIGHT (h i : Nat) : Fld := ⟨224 + h, 768 + 4 * i, 0, 12⟩
def TX_MARGIN_WIDTH (h i : Nat) : Fld := ⟨224 + h, 768 + 4 * i, 16, 6⟩
def TX_MARGIN_VALID (h i : Nat) : Fld := ⟨224 + h, 768 + 4 * i, 31, 1⟩
def evHERD_UP (h : Nat) : Nat := (224 + h) * 32 + 0
def evHERD_DOWN (h : Nat) : Nat := (224 + h) * 32 + 1
def evPARTNER_ABSENT (h : Nat) : Nat := (224 + h) * 32 + 2
def evPARTNER_SILENT (h : Nat) : Nat := (224 + h) * 32 + 3
def evTRAIN_FAIL (h : Nat) : Nat := (224 + h) * 32 + 4
def evALIGN_FAIL (h : Nat) : Nat := (224 + h) * 32 + 5
def evLANE_FAIL (h : Nat) : Nat := (224 + h) * 32 + 6
def evFAILOVER_DONE (h : Nat) : Nat := (224 + h) * 32 + 7
def evNO_SPARE (h : Nat) : Nat := (224 + h) * 32 + 8
def evRX_LOS (h : Nat) : Nat := (224 + h) * 32 + 9
def evRX_LOL (h : Nat) : Nat := (224 + h) * 32 + 10
def evADAPT_HOLD (h : Nat) : Nat := (224 + h) * 32 + 11
def evMARGIN_LOW (h : Nat) : Nat := (224 + h) * 32 + 12
def evREQ_REFUSED (h : Nat) : Nat := (224 + h) * 32 + 13
def evLANE_READY (h : Nat) : Nat := (224 + h) * 32 + 14
end HERD

namespace LINK0
/-- The page number (R173). -/
def page : Nat := 248
-- LL_CTL (R505)
def LL_CTL_RPL_TMO_US : Fld := ⟨248, 64, 0, 10⟩
def LL_CTL_CREDIT_IVL : Fld := ⟨248, 64, 16, 16⟩
-- HL_SEQ (R505)
def HL_SEQ_TX_NEXT (h : Nat) : Fld := ⟨248, 128 + 4 * h, 0, 16⟩
def HL_SEQ_RX_EXP (h : Nat) : Fld := ⟨248, 128 + 4 * h, 16, 16⟩
-- HL_BUF (R505)
def HL_BUF_RPL_USED (h : Nat) : Fld := ⟨248, 256 + 4 * h, 0, 11⟩
def HL_BUF_EPOCH (h : Nat) : Fld := ⟨248, 256 + 4 * h, 16, 8⟩
def HL_BUF_PEER_EPOCH (h : Nat) : Fld := ⟨248, 256 + 4 * h, 24, 8⟩
-- HL_CNT (R505)
def HL_CNT_REPLAY (h : Nat) : Fld := ⟨248, 384 + 8 * h, 0, 16⟩
def HL_CNT_HDR_ERR (h : Nat) : Fld := ⟨248, 384 + 8 * h, 16, 16⟩
-- HL_ERR (R505)
def HL_ERR_GCM_FAIL (h : Nat) : Fld := ⟨248, 388 + 8 * h, 0, 16⟩
def HL_ERR_NAK_TX (h : Nat) : Fld := ⟨248, 388 + 8 * h, 16, 16⟩
/-- Event REPLAY. -/
def evREPLAY (h : Nat) : Nat := 248 * 32 + (0 + h)
def evHDR_ERR : Nat := 248 * 32 + 17
def evPEER_RESET : Nat := 248 * 32 + 18
def evRPL_STALL : Nat := 248 * 32 + 19
end LINK0

namespace LINK1
/-- The page number (R173). -/
def page : Nat := 249
-- SES_CTL (R505)
def SES_CTL_IDLE_MS : Fld := ⟨249, 64, 0, 16⟩
def SES_CTL_KEYX_MS : Fld := ⟨249, 64, 16, 8⟩
def SES_CTL_GCM_MAX : Fld := ⟨249, 64, 24, 8⟩
-- SES_KILL (R505)
def SES_KILL_SLOTS : Fld := ⟨249, 68, 0, 8⟩
-- KEYX_LAST (R505)
def KEYX_LAST_REASON : Fld := ⟨249, 72, 0, 4⟩
def KEYX_LAST_SLOT : Fld := ⟨249, 72, 4, 3⟩
def KEYX_LAST_HERD : Fld := ⟨249, 72, 8, 5⟩
-- SES_STAT (R505)
def SES_STAT_STATE (s : Nat) : Fld := ⟨249, 128 + 8 * s, 0, 2⟩
def SES_STAT_HERD (s : Nat) : Fld := ⟨249, 128 + 8 * s, 8, 5⟩
def SES_STAT_AUTH (s : Nat) : Fld := ⟨249, 128 + 8 * s, 16, 2⟩
def SES_STAT_END_REASON (s : Nat) : Fld := ⟨249, 128 + 8 * s, 24, 8⟩
-- SES_CNT (R505)
def SES_CNT_GCM_RUN (s : Nat) : Fld := ⟨249, 132 + 8 * s, 0, 8⟩
def SES_CNT_UPS (s : Nat) : Fld := ⟨249, 132 + 8 * s, 16, 16⟩
/-- Event SES_UP. -/
def evSES_UP (s : Nat) : Nat := 249 * 32 + (0 + s)
/-- Event SES_DOWN. -/
def evSES_DOWN (s : Nat) : Nat := 249 * 32 + (8 + s)
def evKEYX_REJECT : Nat := 249 * 32 + 16
def evGCM_FAIL : Nat := 249 * 32 + 17
end LINK1

namespace LINK2
/-- The page number (R173). -/
def page : Nat := 250
-- TEL_SUBS (R505)
def TEL_SUBS_PORTS (s : Nat) : Fld := ⟨250, 64 + 4 * s, 0, 16⟩
-- TEL_STAT (R505)
def TEL_STAT_DROP (s : Nat) : Fld := ⟨250, 128 + 4 * s, 0, 16⟩
def TEL_STAT_QUEUED (s : Nat) : Fld := ⟨250, 128 + 4 * s, 16, 5⟩
def evTEL_DROP : Nat := 250 * 32 + 0
def evMARGIN_IGNORED : Nat := 250 * 32 + 1
end LINK2

namespace MEMC
/-- The page number (R173). -/
def page : Nat := 256
-- SCRUB_CTL (R530)
def SCRUB_CTL_EN : Fld := ⟨256, 64, 0, 1⟩
def SCRUB_CTL_PER_H : Fld := ⟨256, 64, 8, 8⟩
-- SHARE_LO (R530)
def SHARE_LO_W0 : Fld := ⟨256, 68, 0, 4⟩
def SHARE_LO_W1 : Fld := ⟨256, 68, 4, 4⟩
def SHARE_LO_W2 : Fld := ⟨256, 68, 8, 4⟩
def SHARE_LO_W3 : Fld := ⟨256, 68, 12, 4⟩
def SHARE_LO_W4 : Fld := ⟨256, 68, 16, 4⟩
def SHARE_LO_W5 : Fld := ⟨256, 68, 20, 4⟩
def SHARE_LO_W6 : Fld := ⟨256, 68, 24, 4⟩
def SHARE_LO_W7 : Fld := ⟨256, 68, 28, 4⟩
-- SHARE_HI (R530)
def SHARE_HI_W0 : Fld := ⟨256, 72, 0, 4⟩
def SHARE_HI_W1 : Fld := ⟨256, 72, 4, 4⟩
def SHARE_HI_W2 : Fld := ⟨256, 72, 8, 4⟩
def SHARE_HI_W3 : Fld := ⟨256, 72, 12, 4⟩
def SHARE_HI_W4 : Fld := ⟨256, 72, 16, 4⟩
def SHARE_HI_W5 : Fld := ⟨256, 72, 20, 4⟩
def SHARE_HI_W6 : Fld := ⟨256, 72, 24, 4⟩
def SHARE_HI_W7 : Fld := ⟨256, 72, 28, 4⟩
-- WEAK_CMD (R530)
def WEAK_CMD_IDX : Fld := ⟨256, 76, 0, 8⟩
def WEAK_CMD_CLR_ONE : Fld := ⟨256, 76, 8, 1⟩
def WEAK_CMD_CLR_ALL : Fld := ⟨256, 76, 9, 1⟩
-- STAT (R530)
def STAT_TRAINED : Fld := ⟨256, 96, 0, 1⟩
def STAT_SCRUB_RUN : Fld := ⟨256, 96, 1, 1⟩
def STAT_WEAK_USED : Fld := ⟨256, 96, 4, 9⟩
-- WRITTEN (R530)
def WRITTEN_UNITS : Fld := ⟨256, 100, 0, 22⟩
-- REFETCH_CNT (R530)
def REFETCH_CNT_COUNT : Fld := ⟨256, 104, 0, 32⟩
-- POISON_CNT (R530)
def POISON_CNT_CRC : Fld := ⟨256, 108, 0, 16⟩
def POISON_CNT_STORED : Fld := ⟨256, 108, 16, 16⟩
-- POISON_LAST_LO (R530)
def POISON_LAST_LO_ADDR : Fld := ⟨256, 112, 0, 32⟩
-- POISON_LAST_HI (R530)
def POISON_LAST_HI_ADDR : Fld := ⟨256, 116, 0, 8⟩
def POISON_LAST_HI_MASTER : Fld := ⟨256, 116, 8, 4⟩
def POISON_LAST_HI_STORED : Fld := ⟨256, 116, 12, 1⟩
def POISON_LAST_HI_VALID : Fld := ⟨256, 116, 31, 1⟩
-- SCRUB_POS (R530)
def SCRUB_POS_LINE : Fld := ⟨256, 120, 0, 27⟩
-- SCRUB_STAT (R530)
def SCRUB_STAT_PASSES : Fld := ⟨256, 124, 0, 16⟩
def SCRUB_STAT_BAD : Fld := ⟨256, 124, 16, 16⟩
-- SCRUB_BAD (R530)
def SCRUB_BAD_LINE : Fld := ⟨256, 128, 0, 27⟩
def SCRUB_BAD_VALID : Fld := ⟨256, 128, 31, 1⟩
-- WEAK_OVF (R530)
def WEAK_OVF_COUNT : Fld := ⟨256, 132, 0, 32⟩
-- PARTIAL_CNT (R530)
def PARTIAL_CNT_COUNT : Fld := ⟨256, 136, 0, 16⟩
-- FUSE (R530)
def FUSE_ROWS (d : Nat) : Fld := ⟨256, 192 + 4 * d, 0, 12⟩
def FUSE_OK (d : Nat) : Fld := ⟨256, 192 + 4 * d, 16, 1⟩
-- WEAK_LO (R530)
def WEAK_LO_LINE (k : Nat) : Fld := ⟨256, 2048 + 8 * k, 0, 27⟩
-- WEAK_HI (R530)
def WEAK_HI_COUNT (k : Nat) : Fld := ⟨256, 2052 + 8 * k, 0, 8⟩
def WEAK_HI_VALID (k : Nat) : Fld := ⟨256, 2052 + 8 * k, 31, 1⟩
def evPOISON_READ : Nat := 256 * 32 + 0
def evWEAK_LINE : Nat := 256 * 32 + 1
def evWEAK_FULL : Nat := 256 * 32 + 2
def evSCRUB_BAD : Nat := 256 * 32 + 3
def evSCRUB_PASS : Nat := 256 * 32 + 4
def evPARTIAL_REFUSED : Nat := 256 * 32 + 5
def evFUSE_ERR : Nat := 256 * 32 + 6
end MEMC

namespace RETIRE
/-- The page number (R173). -/
def page : Nat := 257
-- ADD (R532)
def ADD_PAGE : Fld := ⟨257, 64, 0, 17⟩
-- STAT (R532)
def STAT_COUNT : Fld := ⟨257, 96, 0, 13⟩
def STAT_LAST : Fld := ⟨257, 96, 16, 2⟩
-- RD_IDX (R532)
def RD_IDX_IDX : Fld := ⟨257, 100, 0, 12⟩
-- RD_DATA (R532)
def RD_DATA_PAGE : Fld := ⟨257, 104, 0, 17⟩
def RD_DATA_VALID : Fld := ⟨257, 104, 31, 1⟩
-- HIT_LAST (R532)
def HIT_LAST_PAGE : Fld := ⟨257, 108, 0, 17⟩
def HIT_LAST_MASTER : Fld := ⟨257, 108, 20, 4⟩
def HIT_LAST_WRITE : Fld := ⟨257, 108, 24, 1⟩
def HIT_LAST_VALID : Fld := ⟨257, 108, 31, 1⟩
-- HIT_CNT (R532)
def HIT_CNT_COUNT : Fld := ⟨257, 112, 0, 32⟩
def evRETIRED_HIT : Nat := 257 * 32 + 0
def evRETIRE_NEAR : Nat := 257 * 32 + 1
def evRETIRE_FULL : Nat := 257 * 32 + 2
end RETIRE

namespace SPM
/-- The page number (R173). -/
def page : Nat := 264
-- CFG (R567)
def CFG_UNIT : Fld := ⟨264, 64, 0, 6⟩
-- STAT (R567)
def STAT_WQ : Fld := ⟨264, 96, 0, 5⟩
def STAT_FRAME : Fld := ⟨264, 96, 5, 1⟩
-- LAST (R567)
def LAST_CODE : Fld := ⟨264, 100, 0, 4⟩
def LAST_IRREG : Fld := ⟨264, 100, 4, 3⟩
def LAST_BITS : Fld := ⟨264, 100, 8, 5⟩
def LAST_WORDS : Fld := ⟨264, 100, 16, 16⟩
-- CNT (R567)
def CNT_FRAMES : Fld := ⟨264, 104, 0, 16⟩
def CNT_IRREG : Fld := ⟨264, 104, 16, 16⟩
def evFRAME_IRREG : Nat := 264 * 32 + 0
def evWQ_OVERFLOW : Nat := 264 * 32 + 1
def evSPM_BUS_ERR : Nat := 264 * 32 + 2
end SPM

namespace SPF
/-- The page number (R173). -/
def page : Nat := 265
-- CFG (R570)
def CFG_DIV_1S : Fld := ⟨265, 64, 0, 8⟩
def CFG_DIV_8D : Fld := ⟨265, 64, 8, 8⟩
def CFG_POLL_US : Fld := ⟨265, 64, 16, 8⟩
-- TMO (R570)
def TMO_MS : Fld := ⟨265, 68, 0, 16⟩
-- ERASE (R570)
def ERASE_OFFSET : Fld := ⟨265, 72, 0, 26⟩
def ERASE_TYPE : Fld := ⟨265, 72, 26, 2⟩
-- Q_CMD (R570)
def Q_CMD_UNIT : Fld := ⟨265, 76, 0, 6⟩
def Q_CMD_COUNT : Fld := ⟨265, 76, 8, 7⟩
def Q_CMD_DIR : Fld := ⟨265, 76, 16, 1⟩
def Q_CMD_MODE : Fld := ⟨265, 76, 17, 1⟩
def Q_CMD_PERWORD : Fld := ⟨265, 76, 18, 1⟩
def Q_CMD_CONT : Fld := ⟨265, 76, 19, 1⟩
def Q_CMD_DUMMY : Fld := ⟨265, 76, 20, 8⟩
-- Q_TX (R570)
def Q_TX_WORD : Fld := ⟨265, 80, 0, 32⟩
-- Q_RX (R570)
def Q_RX_WORD : Fld := ⟨265, 84, 0, 32⟩
-- STAT (R570)
def STAT_MODE : Fld := ⟨265, 96, 0, 2⟩
def STAT_DISC_FAIL : Fld := ⟨265, 96, 2, 3⟩
def STAT_BUSY : Fld := ⟨265, 96, 5, 1⟩
def STAT_ERASE_HELD : Fld := ⟨265, 96, 6, 1⟩
def STAT_ERASE_RES : Fld := ⟨265, 96, 8, 3⟩
-- Q_STAT (R570)
def Q_STAT_TX_WORDS : Fld := ⟨265, 100, 0, 7⟩
def Q_STAT_RX_WORDS : Fld := ⟨265, 100, 8, 7⟩
def Q_STAT_ENTRIES : Fld := ⟨265, 100, 16, 5⟩
def Q_STAT_REFUSED : Fld := ⟨265, 100, 24, 1⟩
def Q_STAT_UNDER : Fld := ⟨265, 100, 25, 1⟩
def Q_STAT_OVER : Fld := ⟨265, 100, 26, 1⟩
-- GEOM (R570)
def GEOM_PAGE_LOG2 : Fld := ⟨265, 104, 0, 4⟩
def GEOM_E1_LOG2 : Fld := ⟨265, 104, 4, 5⟩
def GEOM_E2_LOG2 : Fld := ⟨265, 104, 9, 5⟩
def GEOM_E3_LOG2 : Fld := ⟨265, 104, 14, 5⟩
def GEOM_E4_LOG2 : Fld := ⟨265, 104, 19, 5⟩
def GEOM_DUMMY_8D : Fld := ⟨265, 104, 24, 7⟩
-- TIMES (R570)
def TIMES_PROG_US : Fld := ⟨265, 108, 0, 16⟩
-- ERASE_MS (R570)
def ERASE_MS_MS (e : Nat) : Fld := ⟨265, 112 + 4 * e, 0, 24⟩
-- CNT (R570)
def CNT_PROGRAMS : Fld := ⟨265, 128, 0, 16⟩
def CNT_ERASES : Fld := ⟨265, 128, 16, 16⟩
-- LAST_ERR (R570)
def LAST_ERR_OFFSET : Fld := ⟨265, 132, 0, 26⟩
def LAST_ERR_STUCK : Fld := ⟨265, 132, 26, 1⟩
def LAST_ERR_VALID : Fld := ⟨265, 132, 31, 1⟩
def evDISC_DONE : Nat := 265 * 32 + 0
def evDISC_FAIL : Nat := 265 * 32 + 1
def evERASE_DONE : Nat := 265 * 32 + 2
def evERASE_REFUSED : Nat := 265 * 32 + 3
def evVERIFY_FAIL : Nat := 265 * 32 + 4
def evFLASH_STUCK : Nat := 265 * 32 + 5
def evQ_REFUSED : Nat := 265 * 32 + 6
def evQ_DONE : Nat := 265 * 32 + 7
end SPF

namespace OTP
/-- The page number (R173). -/
def page : Nat := 3
-- CMD (R583)
def CMD_REC : Fld := ⟨3, 64, 0, 8⟩
def CMD_GO : Fld := ⟨3, 64, 8, 1⟩
-- RD_SEL (R583)
def RD_SEL_REC : Fld := ⟨3, 68, 0, 8⟩
def RD_SEL_IDX : Fld := ⟨3, 68, 8, 6⟩
-- STAT (R583)
def STAT_BUSY : Fld := ⟨3, 96, 0, 1⟩
def STAT_LAST : Fld := ⟨3, 96, 1, 3⟩
def STAT_LAST_REC : Fld := ⟨3, 96, 8, 8⟩
def STAT_LAST_GEN : Fld := ⟨3, 96, 16, 2⟩
-- RD_DATA (R583)
def RD_DATA_DATA : Fld := ⟨3, 100, 0, 32⟩
-- REC_STAT (R583)
def REC_STAT_LOADED (r : Nat) : Fld := ⟨3, 128 + 4 * r, 0, 2⟩
def REC_STAT_LVALID (r : Nat) : Fld := ⟨3, 128 + 4 * r, 2, 1⟩
def REC_STAT_NEWEST (r : Nat) : Fld := ⟨3, 128 + 4 * r, 4, 2⟩
def REC_STAT_NVALID (r : Nat) : Fld := ⟨3, 128 + 4 * r, 6, 1⟩
def REC_STAT_USED (r : Nat) : Fld := ⟨3, 128 + 4 * r, 8, 3⟩
def REC_STAT_DECAY (r : Nat) : Fld := ⟨3, 128 + 4 * r, 11, 1⟩
-- WBUF (R583)
def WBUF_DATA (k : Nat) : Fld := ⟨3, 256 + 4 * k, 0, 32⟩
def evGEN_SEALED : Nat := 3 * 32 + 0
def evGEN_REFUSED : Nat := 3 * 32 + 1
def evGEN_LAST : Nat := 3 * 32 + 2
def evDECAY : Nat := 3 * 32 + 3
end OTP

namespace SEC
/-- The page number (R173). -/
def page : Nat := 4
-- CMD (R595)
def CMD_PROVISION : Fld := ⟨4, 64, 0, 1⟩
def CMD_SIGN : Fld := ⟨4, 64, 1, 1⟩
-- LIFE (R595)
def LIFE_FIELD : Fld := ⟨4, 96, 0, 1⟩
def LIFE_DEBUG_OFF : Fld := ⟨4, 96, 1, 1⟩
def LIFE_CAPTURE_OFF : Fld := ⟨4, 96, 2, 1⟩
-- STAT (R595)
def STAT_KEY : Fld := ⟨4, 100, 0, 1⟩
def STAT_PROV_BUSY : Fld := ⟨4, 100, 1, 1⟩
def STAT_SIGN_BUSY : Fld := ⟨4, 100, 2, 1⟩
def STAT_RNG_OK : Fld := ⟨4, 100, 3, 1⟩
def STAT_PROV_RES : Fld := ⟨4, 100, 4, 3⟩
def STAT_SIGN_RES : Fld := ⟨4, 100, 8, 2⟩
-- UID_LO (R595)
def UID_LO_UID : Fld := ⟨4, 104, 0, 32⟩
-- UID_HI (R595)
def UID_HI_UID : Fld := ⟨4, 108, 0, 32⟩
-- SIGN_IN (R595)
def SIGN_IN_DATA (k : Nat) : Fld := ⟨4, 128 + 4 * k, 0, 32⟩
-- SIGN_OUT (R595)
def SIGN_OUT_DATA (k : Nat) : Fld := ⟨4, 256 + 4 * k, 0, 32⟩
-- ID_PUB (R595)
def ID_PUB_DATA (k : Nat) : Fld := ⟨4, 512 + 4 * k, 0, 32⟩
def evPROV_DONE : Nat := 4 * 32 + 0
def evPROV_REFUSED : Nat := 4 * 32 + 1
def evSIGN_DONE : Nat := 4 * 32 + 2
def evRNG_FAIL : Nat := 4 * 32 + 3
end SEC

namespace ACL
/-- The page number (R173). -/
def page (t : Nat) : Nat := 768 + t
-- STAT (R604)
def STAT_LOCKED (t : Nat) : Fld := ⟨768 + t, 96, 0, 7⟩
def STAT_ENABLED (t : Nat) : Fld := ⟨768 + t, 96, 8, 7⟩
-- DENY_LAST (R604)
def DENY_LAST_MASTER (t : Nat) : Fld := ⟨768 + t, 100, 0, 4⟩
def DENY_LAST_KIND (t : Nat) : Fld := ⟨768 + t, 100, 4, 2⟩
def DENY_LAST_VALID (t : Nat) : Fld := ⟨768 + t, 100, 31, 1⟩
-- DENY_ADDR (R604)
def DENY_ADDR_PAGE (t : Nat) : Fld := ⟨768 + t, 104, 0, 28⟩
-- DENY_CNT (R604)
def DENY_CNT_COUNT (t : Nat) : Fld := ⟨768 + t, 108, 0, 32⟩
-- RGN_BASE (R604)
def RGN_BASE_PAGE (t r : Nat) : Fld := ⟨768 + t, 256 + 16 * r, 0, 28⟩
def RGN_BASE_LOCK (t r : Nat) : Fld := ⟨768 + t, 256 + 16 * r, 30, 1⟩
def RGN_BASE_EN (t r : Nat) : Fld := ⟨768 + t, 256 + 16 * r, 31, 1⟩
-- RGN_LIMIT (R604)
def RGN_LIMIT_PAGE (t r : Nat) : Fld := ⟨768 + t, 260 + 16 * r, 0, 28⟩
-- RGN_RT_LO (R604)
def RGN_RT_LO_RIGHTS (t r : Nat) : Fld := ⟨768 + t, 264 + 16 * r, 0, 24⟩
-- RGN_RT_HI (R604)
def RGN_RT_HI_RIGHTS (t r : Nat) : Fld := ⟨768 + t, 268 + 16 * r, 0, 24⟩
def evDENIED (t : Nat) : Nat := (768 + t) * 32 + 0
end ACL

namespace CORE
/-- The page number (R173). -/
def page (n : Nat) : Nat := 272 + n
-- CTL (R610)
def CTL_MAX_RUN (n : Nat) : Fld := ⟨272 + n, 64, 0, 4⟩
-- CMD (R610)
def CMD_INV (n : Nat) : Fld := ⟨272 + n, 68, 0, 1⟩
-- STAT (R610)
def STAT_STATE (n : Nat) : Fld := ⟨272 + n, 96, 0, 2⟩
def STAT_CAUSE (n : Nat) : Fld := ⟨272 + n, 96, 2, 2⟩
def STAT_RUN (n : Nat) : Fld := ⟨272 + n, 96, 4, 4⟩
-- CNT (R610)
def CNT_MISMATCH (n : Nat) : Fld := ⟨272 + n, 100, 0, 16⟩
def CNT_RESTARTS (n : Nat) : Fld := ⟨272 + n, 100, 16, 16⟩
def evMISMATCH (n : Nat) : Nat := (272 + n) * 32 + 0
def evRESTART_DONE (n : Nat) : Nat := (272 + n) * 32 + 1
def evPAIR_HELD (n : Nat) : Nat := (272 + n) * 32 + 2
end CORE

end Reg

/-- The block registers of the PWR page, as rows. -/
def rowsPWR : List RRow := [
  ⟨64, [], [⟨0, 16, .ro, false, 0, .any⟩]⟩,
  ⟨68, [], [⟨0, 16, .ro, false, 0, .any⟩]⟩,
  ⟨72, [], [⟨0, 16, .rw, true, 11000, .rng 10000 11400⟩, ⟨16, 12, .rw, true, 200, .rng 0 1000⟩]⟩,
  ⟨76, [], [⟨0, 16, .rw, true, 3050, .rng 2900 3200⟩, ⟨16, 12, .rw, true, 50, .rng 0 200⟩]⟩,
  ⟨80, [], [⟨0, 16, .rw, true, 10, .rng 1 1000⟩, ⟨16, 1, .rw, true, 0, .any⟩]⟩,
  ⟨84, [], [⟨0, 1, .ro, false, 1, .any⟩, ⟨1, 1, .ro, false, 0, .any⟩, ⟨2, 1, .ro, false, 0, .any⟩, ⟨3, 1, .ro, false, 0, .any⟩, ⟨4, 1, .ro, false, 1, .any⟩, ⟨8, 1, .ro, false, 0, .any⟩, ⟨9, 1, .ro, false, 0, .any⟩, ⟨10, 1, .ro, false, 0, .any⟩, ⟨11, 1, .ro, false, 0, .any⟩]⟩,
  ⟨88, [], [⟨0, 32, .ro, false, 0, .any⟩]⟩,
  ⟨92, [], [⟨0, 3, .ro, false, 0, .any⟩, ⟨3, 1, .ro, false, 0, .any⟩, ⟨8, 8, .ro, false, 0, .any⟩]⟩,
  ⟨96, [], [⟨0, 26, .ro, false, 0, .any⟩]⟩,
  ⟨100, [], [⟨0, 16, .ro, false, 0, .any⟩, ⟨31, 1, .ro, false, 0, .any⟩]⟩,
  ⟨104, [], [⟨0, 8, .ro, false, 0, .any⟩, ⟨8, 8, .rw, true, 100, .rng 60 115⟩, ⟨16, 8, .ro, false, 120, .any⟩]⟩,
  ⟨108, [], [⟨0, 8, .ro, false, 0, .any⟩, ⟨8, 8, .ro, false, 0, .any⟩]⟩]

/-- The block registers of the CLK page, as rows. -/
def rowsCLK : List RRow := [
  ⟨64, [(6, 4)], [⟨0, 12, .rw, true, 0, .rng 1 4095⟩, ⟨12, 2, .rw, true, 0, .gtZero 2⟩, ⟨16, 8, .rw, true, 1, .rng 1 255⟩]⟩,
  ⟨88, [], [⟨0, 6, .ro, false, 0, .any⟩, ⟨8, 6, .ro, false, 0, .any⟩, ⟨16, 6, .ro, false, 0, .any⟩, ⟨24, 6, .ro, false, 0, .any⟩]⟩,
  ⟨92, [], [⟨0, 16, .rw, true, 4096, .rng 16 65535⟩]⟩,
  ⟨96, [], [⟨0, 10, .ro, false, 0, .any⟩, ⟨12, 4, .ro, false, 0, .any⟩, ⟨31, 1, .ro, false, 0, .any⟩]⟩,
  ⟨100, [], [⟨0, 11, .rw, true, 100, .rng 25 2000⟩, ⟨12, 10, .rw, true, 100, .rng 1 1000⟩, ⟨22, 10, .rw, true, 10, .rng 1 1000⟩]⟩,
  ⟨104, [], [⟨0, 16, .ro, false, 0, .any⟩, ⟨16, 1, .ro, false, 0, .any⟩, ⟨17, 1, .ro, false, 0, .any⟩, ⟨18, 1, .ro, false, 0, .any⟩, ⟨19, 1, .ro, false, 0, .any⟩, ⟨20, 1, .ro, false, 0, .any⟩]⟩,
  ⟨108, [], [⟨0, 2, .ro, false, 0, .any⟩, ⟨16, 16, .ro, false, 0, .any⟩]⟩,
  ⟨112, [], [⟨0, 1, .wo, false, 0, .any⟩]⟩,
  ⟨116, [], [⟨0, 16, .ro, false, 0, .any⟩, ⟨16, 11, .ro, false, 0, .any⟩, ⟨28, 3, .ro, false, 0, .any⟩]⟩,
  ⟨120, [], [⟨0, 3, .ro, false, 0, .any⟩, ⟨4, 3, .ro, false, 0, .any⟩, ⟨8, 16, .rw, true, 100, .rng 1 65535⟩]⟩,
  ⟨124, [], [⟨0, 20, .ro, false, 100000, .any⟩, ⟨31, 1, .ro, false, 0, .any⟩]⟩]

/-- The block registers of the TIME page, as rows. -/
def rowsTIME0 : List RRow := [
  ⟨64, [], [⟨0, 32, .ro, false, 0, .any⟩]⟩,
  ⟨68, [], [⟨0, 32, .ro, false, 0, .any⟩]⟩,
  ⟨72, [], [⟨0, 16, .ro, false, 0, .any⟩]⟩,
  ⟨76, [], [⟨0, 1, .ro, false, 0, .any⟩, ⟨1, 1, .ro, false, 0, .any⟩, ⟨2, 1, .ro, false, 0, .any⟩, ⟨3, 1, .w1c, false, 0, .any⟩, ⟨4, 1, .w1c, false, 0, .any⟩, ⟨16, 16, .ro, false, 0, .any⟩]⟩,
  ⟨80, [], [⟨0, 32, .rw, false, 0, .any⟩]⟩,
  ⟨84, [], [⟨0, 32, .rw, false, 0, .any⟩]⟩,
  ⟨88, [], [⟨0, 16, .rw, false, 0, .any⟩]⟩,
  ⟨92, [], [⟨0, 3, .wo, false, 0, .any⟩]⟩,
  ⟨96, [], [⟨0, 32, .ro, false, 0, .any⟩]⟩,
  ⟨100, [], [⟨0, 32, .ro, false, 0, .any⟩]⟩,
  ⟨104, [], [⟨0, 16, .ro, false, 0, .any⟩]⟩,
  ⟨108, [], [⟨0, 32, .ro, false, 0, .any⟩]⟩]

def rowsTIME1 : List RRow := [
  ⟨112, [], [⟨0, 32, .ro, false, 0, .any⟩]⟩,
  ⟨116, [], [⟨0, 24, .rw, true, 1000000, .rng 1 16777215⟩]⟩,
  ⟨120, [], [⟨0, 32, .rw, true, 1000000000, .rng 1000 4294967295⟩]⟩,
  ⟨124, [], [⟨0, 32, .rw, true, 0, .any⟩]⟩,
  ⟨128, [], [⟨0, 1, .rw, true, 0, .any⟩, ⟨8, 8, .rw, true, 10, .rng 1 255⟩]⟩]

/-- All of them. -/
def rowsTIME : List RRow := rowsTIME0 ++ rowsTIME1

/-- The block registers of the DEV page, as rows. -/
def rowsDEV : List RRow := [
  ⟨64, [], [⟨0, 16, .ro, false, 5669, .any⟩, ⟨16, 8, .ro, false, 161, .any⟩]⟩,
  ⟨68, [], [⟨0, 1, .ro, false, 1, .any⟩, ⟨1, 1, .ro, false, 0, .any⟩, ⟨2, 1, .ro, false, 0, .any⟩, ⟨3, 1, .ro, false, 0, .any⟩, ⟨8, 4, .ro, false, 0, .any⟩, ⟨12, 1, .ro, false, 0, .any⟩, ⟨16, 2, .ro, false, 0, .any⟩]⟩,
  ⟨72, [], [⟨0, 16, .ro, false, 0, .any⟩]⟩,
  ⟨76, [], [⟨0, 16, .wo, false, 0, .any⟩, ⟨16, 4, .wo, false, 0, .any⟩]⟩,
  ⟨80, [], [⟨0, 3, .ro, false, 0, .any⟩, ⟨3, 1, .ro, false, 0, .any⟩, ⟨4, 1, .ro, false, 0, .any⟩, ⟨5, 1, .ro, false, 0, .any⟩, ⟨8, 4, .ro, false, 0, .any⟩, ⟨12, 4, .ro, false, 0, .any⟩]⟩,
  ⟨84, [], [⟨0, 16, .ro, false, 0, .any⟩, ⟨16, 8, .ro, false, 0, .any⟩]⟩,
  ⟨88, [], [⟨0, 1, .wo, false, 0, .any⟩, ⟨1, 1, .wo, false, 0, .any⟩]⟩,
  ⟨92, [], [⟨0, 16, .ro, false, 5000, .any⟩, ⟨31, 1, .ro, false, 0, .any⟩]⟩]

/-- The common header (R160), as rows. -/
def rowsHDR : List RRow := [
  ⟨0, [], [⟨0, 10, .ro, false, 0, .any⟩, ⟨10, 6, .ro, false, 0, .any⟩, ⟨16, 8, .ro, false, 0, .any⟩, ⟨24, 8, .ro, false, 1, .any⟩]⟩,
  ⟨4, [], [⟨0, 1, .ro, false, 0, .any⟩, ⟨1, 1, .ro, false, 0, .any⟩, ⟨2, 1, .ro, false, 0, .any⟩, ⟨8, 8, .ro, false, 0, .any⟩, ⟨16, 16, .ro, false, 0, .any⟩]⟩,
  ⟨8, [], [⟨0, 1, .rw, true, 0, .any⟩, ⟨1, 1, .wo, false, 0, .any⟩, ⟨2, 1, .rw, false, 0, .any⟩, ⟨3, 1, .wo, false, 0, .any⟩]⟩,
  ⟨12, [], [⟨0, 1, .ro, false, 0, .any⟩, ⟨1, 1, .ro, false, 0, .any⟩, ⟨2, 1, .ro, false, 0, .any⟩, ⟨3, 1, .ro, false, 0, .any⟩, ⟨4, 1, .ro, false, 0, .any⟩, ⟨16, 16, .ro, false, 0, .any⟩]⟩,
  ⟨16, [], [⟨0, 32, .rw, false, 0, .any⟩]⟩,
  ⟨20, [], [⟨0, 32, .w1c, false, 0, .any⟩]⟩,
  ⟨24, [], [⟨0, 32, .rw, false, 0, .any⟩]⟩,
  ⟨28, [], [⟨0, 32, .ro, false, 0, .any⟩]⟩,
  ⟨32, [], [⟨0, 4, .ro, false, 0, .any⟩, ⟨8, 1, .ro, false, 0, .any⟩, ⟨16, 1, .wo, false, 0, .any⟩, ⟨17, 1, .wo, false, 0, .any⟩, ⟨18, 1, .wo, false, 0, .any⟩]⟩,
  ⟨36, [], [⟨2, 10, .ro, false, 0, .any⟩, ⟨12, 4, .ro, false, 0, .any⟩, ⟨16, 4, .ro, false, 0, .any⟩, ⟨20, 1, .ro, false, 0, .any⟩, ⟨24, 8, .ro, false, 0, .any⟩]⟩]

/-- The block registers of the EVT0 page, as rows. -/
def rowsEVT0 : List RRow := [
  ⟨64, [], [⟨0, 1, .ro, false, 0, .any⟩]⟩,
  ⟨68, [], [⟨0, 10, .ro, false, 0, .any⟩, ⟨12, 4, .ro, false, 0, .any⟩, ⟨16, 4, .ro, false, 0, .any⟩]⟩,
  ⟨128, [(32, 4)], [⟨0, 32, .ro, false, 0, .any⟩]⟩]

/-- The block registers of the EVT1 page, as rows. -/
def rowsEVT1 : List RRow := [
  ⟨64, [], [⟨0, 1, .rw, true, 0, .any⟩, ⟨8, 5, .rw, true, 12, .rng 12 24⟩]⟩,
  ⟨68, [], [⟨16, 16, .rw, true, 0, .any⟩]⟩,
  ⟨72, [], [⟨0, 8, .rw, true, 16, .any⟩]⟩,
  ⟨76, [], [⟨0, 32, .ro, false, 0, .any⟩]⟩,
  ⟨80, [], [⟨0, 32, .rw, false, 0, .any⟩]⟩,
  ⟨84, [], [⟨0, 32, .ro, false, 0, .any⟩]⟩,
  ⟨88, [], [⟨0, 1, .ro, false, 0, .any⟩, ⟨1, 1, .ro, false, 0, .any⟩, ⟨2, 1, .ro, false, 0, .any⟩, ⟨16, 16, .ro, false, 0, .any⟩]⟩]

/-- The block registers of the EVT2 page, as rows. -/
def rowsEVT2 : List RRow := [
  ⟨64, [], [⟨0, 16, .rw, true, 65535, .any⟩, ⟨16, 1, .rw, true, 0, .any⟩, ⟨24, 8, .rw, true, 10, .rng 1 255⟩]⟩,
  ⟨68, [], [⟨0, 16, .ro, false, 0, .any⟩, ⟨16, 1, .ro, false, 1, .any⟩, ⟨17, 1, .ro, false, 0, .any⟩, ⟨18, 1, .ro, false, 0, .any⟩, ⟨19, 1, .ro, false, 0, .any⟩]⟩,
  ⟨72, [], [⟨0, 20, .w1c, false, 65536, .any⟩]⟩,
  ⟨128, [(32, 4)], [⟨0, 32, .rw, false, 0, .any⟩]⟩,
  ⟨256, [(8, 4)], [⟨0, 16, .ro, false, 0, .any⟩, ⟨16, 1, .ro, false, 0, .any⟩, ⟨23, 7, .ro, false, 0, .any⟩]⟩,
  ⟨512, [(8, 128), (32, 4)], [⟨0, 32, .rw, false, 0, .any⟩]⟩]

/-- The block registers of the PORT pages, as rows. -/
def rowsPORT0 : List RRow := [
  ⟨64, [], [⟨0, 1, .rw, true, 1, .any⟩, ⟨1, 1, .rw, true, 0, .any⟩]⟩,
  ⟨68, [], [⟨0, 16, .rw, true, 65286, .srng 16 (-300) (-150)⟩, ⟨16, 16, .rw, true, 50, .srng 16 0 90⟩]⟩,
  ⟨72, [], [⟨0, 8, .rw, true, 10, .rng 0 50⟩, ⟨16, 16, .rw, true, 100, .rng 1 65535⟩]⟩,
  ⟨76, [], [⟨0, 8, .rw, true, 128, .any⟩, ⟨8, 8, .rw, true, 128, .any⟩, ⟨16, 8, .rw, true, 128, .any⟩, ⟨24, 8, .rw, true, 128, .any⟩]⟩,
  ⟨80, [], [⟨0, 8, .rw, true, 40, .rng 8 100⟩, ⟨8, 4, .rw, true, 2, .rng 1 15⟩, ⟨16, 8, .rw, true, 10, .rng 1 255⟩]⟩,
  ⟨84, [], [⟨0, 8, .rw, true, 255, .any⟩, ⟨8, 8, .rw, true, 255, .any⟩, ⟨16, 8, .rw, true, 255, .any⟩, ⟨24, 8, .rw, true, 255, .any⟩]⟩,
  ⟨88, [], [⟨0, 20, .rw, true, 10000, .rng 1 1048575⟩]⟩,
  ⟨96, [], [⟨0, 1, .ro, false, 0, .any⟩, ⟨1, 1, .ro, false, 0, .any⟩, ⟨2, 1, .ro, false, 0, .any⟩, ⟨3, 1, .ro, false, 0, .any⟩, ⟨4, 4, .ro, false, 0, .any⟩]⟩,
  ⟨100, [], [⟨0, 9, .ro, false, 33, .any⟩]⟩,
  ⟨104, [], [⟨0, 9, .w1c, false, 33, .any⟩]⟩,
  ⟨108, [], [⟨0, 32, .ro, false, 2155905152, .any⟩]⟩,
  ⟨112, [], [⟨0, 16, .ro, false, 0, .any⟩, ⟨16, 16, .ro, false, 0, .any⟩]⟩]

def rowsPORT1 : List RRow := [
  ⟨116, [], [⟨0, 32, .ro, false, 0, .any⟩]⟩,
  ⟨120, [], [⟨0, 32, .ro, false, 0, .any⟩]⟩,
  ⟨124, [], [⟨0, 32, .ro, false, 0, .any⟩]⟩]

/-- All of them. -/
def rowsPORT : List RRow := rowsPORT0 ++ rowsPORT1

/-- The block registers of the CNV pages, as rows. -/
def rowsCNV0 : List RRow := [
  ⟨64, [], [⟨0, 18, .rw, true, 200000, .rng 40000 200000⟩]⟩,
  ⟨68, [], [⟨0, 1, .rw, true, 1, .any⟩, ⟨8, 16, .rw, true, 1000, .any⟩, ⟨24, 3, .rw, true, 4, .rng 1 7⟩]⟩,
  ⟨72, [], [⟨0, 8, .rw, true, 8, .rng 1 255⟩, ⟨8, 8, .rw, true, 24, .rng 1 255⟩]⟩,
  ⟨76, [], [⟨0, 7, .rw, true, 0, .any⟩, ⟨7, 1, .rw, true, 0, .any⟩]⟩,
  ⟨80, [], [⟨0, 1, .wo, false, 0, .any⟩]⟩,
  ⟨84, [], [⟨0, 5, .rw, true, 16, .rng 1 24⟩]⟩,
  ⟨96, [], [⟨0, 3, .ro, false, 0, .any⟩, ⟨3, 1, .ro, false, 0, .any⟩, ⟨4, 1, .ro, false, 0, .any⟩, ⟨5, 1, .ro, false, 0, .any⟩, ⟨6, 1, .ro, false, 0, .any⟩, ⟨8, 7, .ro, false, 127, .any⟩, ⟨16, 3, .ro, false, 5, .any⟩]⟩,
  ⟨100, [], [⟨0, 18, .ro, false, 0, .any⟩]⟩,
  ⟨104, [], [⟨0, 32, .ro, false, 0, .any⟩]⟩,
  ⟨108, [], [⟨0, 16, .ro, false, 0, .any⟩, ⟨16, 16, .ro, false, 0, .any⟩]⟩,
  ⟨112, [], [⟨0, 7, .ro, false, 0, .any⟩, ⟨7, 1, .ro, false, 0, .any⟩, ⟨8, 7, .ro, false, 0, .any⟩, ⟨15, 1, .ro, false, 0, .any⟩, ⟨16, 4, .ro, false, 0, .any⟩, ⟨20, 4, .ro, false, 0, .any⟩]⟩,
  ⟨128, [], [⟨0, 32, .ro, false, 0, .any⟩]⟩]

def rowsCNV1 : List RRow := [
  ⟨132, [], [⟨0, 1, .ro, false, 0, .any⟩, ⟨1, 1, .ro, false, 0, .any⟩, ⟨2, 1, .ro, false, 0, .any⟩, ⟨3, 1, .ro, false, 0, .any⟩]⟩,
  ⟨136, [], [⟨0, 32, .ro, false, 0, .any⟩]⟩,
  ⟨140, [], [⟨0, 32, .ro, false, 0, .any⟩]⟩,
  ⟨144, [], [⟨0, 32, .ro, false, 0, .any⟩]⟩,
  ⟨148, [], [⟨0, 32, .ro, false, 0, .any⟩]⟩,
  ⟨152, [], [⟨0, 32, .ro, false, 0, .any⟩]⟩,
  ⟨156, [], [⟨0, 32, .ro, false, 0, .any⟩]⟩,
  ⟨160, [], [⟨0, 32, .ro, false, 0, .any⟩]⟩,
  ⟨164, [], [⟨0, 32, .ro, false, 0, .any⟩]⟩,
  ⟨168, [], [⟨0, 8, .ro, false, 0, .any⟩, ⟨8, 8, .ro, false, 0, .any⟩, ⟨16, 1, .ro, false, 0, .any⟩]⟩,
  ⟨172, [], [⟨0, 32, .ro, false, 0, .any⟩]⟩,
  ⟨1024, [(65, 8)], [⟨0, 16, .ro, false, 0, .any⟩, ⟨16, 16, .ro, false, 0, .any⟩]⟩]

def rowsCNV2 : List RRow := [
  ⟨1028, [(65, 8)], [⟨0, 12, .ro, false, 0, .any⟩, ⟨16, 3, .ro, false, 0, .any⟩, ⟨24, 8, .ro, false, 0, .any⟩]⟩,
  ⟨2048, [(256, 4)], [⟨0, 32, .ro, false, 0, .any⟩]⟩]

/-- All of them. -/
def rowsCNV : List RRow := rowsCNV0 ++ rowsCNV1 ++ rowsCNV2

/-- The block registers of the EQ pages, as rows. -/
def rowsEQ0 : List RRow := [
  ⟨64, [], [⟨0, 5, .rw, true, 16, .rng 12 16⟩, ⟨8, 6, .rw, true, 63, .odd 7 63⟩, ⟨16, 3, .rw, true, 0, .gtZero 2⟩, ⟨20, 2, .rw, true, 0, .any⟩, ⟨24, 1, .rw, true, 0, .any⟩]⟩,
  ⟨68, [], [⟨0, 22, .rw, true, 0, .any⟩]⟩,
  ⟨72, [], [⟨0, 18, .rw, true, 155000, .rng 152000 163000⟩]⟩,
  ⟨76, [], [⟨0, 8, .rw, true, 0, .srng 8 (-127) 127⟩, ⟨8, 8, .rw, true, 0, .srng 8 (-127) 127⟩, ⟨16, 8, .rw, true, 0, .srng 8 (-127) 127⟩, ⟨24, 8, .rw, true, 0, .srng 8 (-127) 127⟩]⟩,
  ⟨80, [], [⟨0, 12, .rw, true, 64, .rng 1 4095⟩, ⟨16, 12, .rw, true, 64, .rng 1 4095⟩]⟩,
  ⟨84, [], [⟨0, 4, .rw, true, 6, .any⟩, ⟨4, 4, .rw, true, 8, .any⟩, ⟨8, 4, .rw, true, 6, .any⟩, ⟨12, 1, .rw, true, 1, .any⟩]⟩,
  ⟨88, [], [⟨0, 4, .rw, true, 6, .rng 4 8⟩, ⟨8, 4, .rw, true, 7, .odd 1 15⟩]⟩,
  ⟨92, [], [⟨0, 15, .rw, true, 1, .rng 1 32767⟩, ⟨16, 15, .rw, true, 16384, .rng 1 32767⟩]⟩,
  ⟨96, [], [⟨0, 4, .rw, true, 12, .rng 8 15⟩, ⟨4, 8, .rw, true, 4, .rng 1 64⟩, ⟨12, 4, .rw, true, 14, .rng 1 15⟩, ⟨16, 4, .rw, true, 8, .rng 1 15⟩]⟩,
  ⟨100, [], [⟨0, 8, .rw, true, 32, .any⟩, ⟨8, 4, .rw, true, 8, .rng 6 12⟩]⟩,
  ⟨104, [], [⟨6, 26, .rw, true, 0, .any⟩]⟩,
  ⟨108, [], [⟨0, 8, .rw, true, 16, .any⟩]⟩]

def rowsEQ1 : List RRow := [
  ⟨112, [], [⟨6, 26, .rw, true, 0, .any⟩]⟩,
  ⟨116, [], [⟨0, 8, .rw, true, 16, .any⟩]⟩,
  ⟨120, [], [⟨0, 1, .wo, false, 0, .any⟩, ⟨1, 1, .wo, false, 0, .any⟩, ⟨2, 1, .wo, false, 0, .any⟩]⟩,
  ⟨128, [], [⟨0, 3, .ro, false, 0, .any⟩, ⟨3, 1, .ro, false, 0, .any⟩, ⟨4, 1, .ro, false, 0, .any⟩, ⟨5, 1, .ro, false, 0, .any⟩, ⟨6, 1, .ro, false, 0, .any⟩, ⟨7, 1, .ro, false, 0, .any⟩, ⟨8, 1, .ro, false, 0, .any⟩, ⟨9, 1, .ro, false, 0, .any⟩, ⟨10, 1, .ro, false, 0, .any⟩, ⟨11, 1, .ro, false, 0, .any⟩, ⟨12, 1, .ro, false, 0, .any⟩]⟩,
  ⟨132, [], [⟨0, 32, .ro, false, 16144, .any⟩]⟩,
  ⟨136, [], [⟨0, 22, .ro, false, 0, .any⟩]⟩,
  ⟨140, [], [⟨0, 22, .ro, false, 0, .any⟩]⟩,
  ⟨144, [], [⟨0, 22, .ro, false, 0, .any⟩]⟩,
  ⟨148, [], [⟨0, 22, .ro, false, 0, .any⟩]⟩,
  ⟨152, [], [⟨0, 12, .ro, false, 0, .any⟩, ⟨16, 12, .ro, false, 0, .any⟩]⟩,
  ⟨156, [], [⟨0, 3, .ro, false, 0, .any⟩, ⟨8, 1, .ro, false, 0, .any⟩, ⟨9, 1, .ro, false, 0, .any⟩]⟩,
  ⟨160, [], [⟨0, 16, .ro, false, 0, .any⟩, ⟨16, 8, .ro, false, 0, .any⟩, ⟨24, 8, .ro, false, 0, .any⟩]⟩]

def rowsEQ2 : List RRow := [
  ⟨164, [], [⟨0, 16, .ro, false, 0, .any⟩, ⟨16, 16, .ro, false, 0, .any⟩]⟩,
  ⟨168, [], [⟨0, 16, .ro, false, 0, .any⟩, ⟨16, 16, .ro, false, 0, .any⟩]⟩,
  ⟨172, [], [⟨0, 32, .ro, false, 0, .any⟩]⟩,
  ⟨176, [], [⟨0, 32, .ro, false, 1798, .any⟩]⟩,
  ⟨180, [], [⟨0, 32, .ro, false, 1073741825, .any⟩]⟩]

/-- All of them. -/
def rowsEQ : List RRow := rowsEQ0 ++ rowsEQ1 ++ rowsEQ2

/-- The block registers of the SOFT pages, as rows. -/
def rowsSOFT : List RRow := [
  ⟨64, [], [⟨0, 1, .rw, true, 1, .any⟩, ⟨4, 4, .rw, true, 8, .rng 4 12⟩, ⟨8, 8, .rw, true, 16, .rng 1 255⟩, ⟨16, 12, .rw, true, 104, .rng 1 4095⟩]⟩,
  ⟨68, [], [⟨0, 16, .rw, true, 4096, .any⟩, ⟨16, 16, .rw, true, 4096, .any⟩]⟩,
  ⟨72, [], [⟨0, 16, .rw, true, 4096, .any⟩, ⟨16, 16, .rw, true, 4096, .any⟩]⟩,
  ⟨76, [], [⟨0, 16, .rw, true, 1500, .rng 1 65535⟩]⟩,
  ⟨96, [], [⟨0, 2, .ro, false, 0, .any⟩, ⟨2, 1, .ro, false, 0, .any⟩, ⟨3, 2, .ro, false, 0, .any⟩, ⟨5, 1, .ro, false, 0, .any⟩, ⟨6, 1, .ro, false, 0, .any⟩, ⟨7, 1, .ro, false, 0, .any⟩, ⟨8, 12, .ro, false, 0, .any⟩]⟩,
  ⟨100, [], [⟨0, 16, .ro, false, 0, .any⟩, ⟨16, 16, .ro, false, 0, .any⟩]⟩,
  ⟨104, [], [⟨0, 32, .ro, false, 0, .any⟩]⟩,
  ⟨108, [], [⟨0, 32, .ro, false, 0, .any⟩]⟩,
  ⟨112, [], [⟨0, 32, .ro, false, 0, .any⟩]⟩,
  ⟨116, [], [⟨0, 32, .ro, false, 0, .any⟩]⟩,
  ⟨120, [], [⟨0, 32, .ro, false, 0, .any⟩]⟩]

/-- The block registers of the TSTAT pages, as rows. -/
def rowsTSTAT0 : List RRow := [
  ⟨64, [], [⟨0, 1, .rw, true, 0, .any⟩, ⟨1, 1, .rw, true, 0, .any⟩, ⟨8, 5, .rw, true, 8, .rng 4 16⟩]⟩,
  ⟨68, [], [⟨0, 32, .rw, true, 0, .any⟩]⟩,
  ⟨72, [], [⟨0, 32, .rw, true, 0, .any⟩]⟩,
  ⟨76, [], [⟨0, 32, .rw, true, 100000, .rng 100 4294967295⟩]⟩,
  ⟨80, [], [⟨16, 16, .rw, true, 0, .any⟩]⟩,
  ⟨84, [], [⟨0, 8, .rw, true, 16, .any⟩]⟩,
  ⟨96, [], [⟨0, 1, .ro, false, 0, .any⟩, ⟨1, 1, .ro, false, 0, .any⟩, ⟨2, 1, .ro, false, 0, .any⟩]⟩,
  ⟨128, [], [⟨0, 32, .ro, false, 0, .any⟩]⟩,
  ⟨132, [], [⟨0, 1, .ro, false, 0, .any⟩, ⟨1, 1, .ro, false, 0, .any⟩, ⟨2, 1, .ro, false, 0, .any⟩, ⟨3, 1, .ro, false, 0, .any⟩, ⟨4, 1, .ro, false, 0, .any⟩, ⟨5, 1, .ro, false, 0, .any⟩]⟩,
  ⟨136, [], [⟨0, 32, .ro, false, 0, .any⟩]⟩,
  ⟨140, [], [⟨0, 32, .ro, false, 0, .any⟩]⟩,
  ⟨144, [], [⟨0, 32, .ro, false, 0, .any⟩]⟩]

def rowsTSTAT1 : List RRow := [
  ⟨148, [], [⟨0, 32, .ro, false, 0, .any⟩]⟩,
  ⟨152, [], [⟨0, 10, .ro, false, 0, .any⟩]⟩,
  ⟨156, [], [⟨0, 16, .ro, false, 0, .any⟩, ⟨16, 16, .ro, false, 0, .any⟩]⟩,
  ⟨160, [], [⟨0, 22, .ro, false, 0, .any⟩]⟩,
  ⟨164, [], [⟨0, 22, .ro, false, 0, .any⟩]⟩,
  ⟨168, [], [⟨0, 12, .ro, false, 0, .any⟩, ⟨16, 8, .ro, false, 0, .any⟩]⟩,
  ⟨172, [], [⟨0, 16, .ro, false, 0, .any⟩, ⟨16, 16, .ro, false, 0, .any⟩]⟩,
  ⟨176, [], [⟨0, 16, .ro, false, 0, .any⟩, ⟨16, 16, .ro, false, 0, .any⟩]⟩,
  ⟨180, [], [⟨0, 32, .ro, false, 0, .any⟩]⟩,
  ⟨184, [], [⟨0, 32, .ro, false, 0, .any⟩]⟩,
  ⟨188, [], [⟨0, 32, .ro, false, 0, .any⟩]⟩,
  ⟨192, [], [⟨0, 16, .ro, false, 0, .any⟩, ⟨16, 16, .ro, false, 0, .any⟩]⟩]

def rowsTSTAT2 : List RRow := [
  ⟨196, [], [⟨0, 16, .ro, false, 0, .any⟩, ⟨16, 16, .ro, false, 0, .any⟩]⟩,
  ⟨200, [], [⟨0, 16, .ro, false, 0, .any⟩, ⟨16, 16, .ro, false, 0, .any⟩]⟩,
  ⟨216, [], [⟨0, 32, .ro, false, 0, .any⟩]⟩,
  ⟨220, [], [⟨0, 32, .ro, false, 0, .any⟩]⟩,
  ⟨1024, [(4, 256), (64, 4)], [⟨0, 8, .ro, false, 0, .any⟩, ⟨8, 8, .ro, false, 0, .any⟩, ⟨16, 8, .ro, false, 0, .any⟩, ⟨24, 1, .ro, false, 0, .any⟩]⟩]

/-- All of them. -/
def rowsTSTAT : List RRow := rowsTSTAT0 ++ rowsTSTAT1 ++ rowsTSTAT2

/-- The block registers of the PCV pages, as rows. -/
def rowsPCV : List RRow := [
  ⟨64, [], [⟨0, 16, .rw, true, 3600, .any⟩]⟩,
  ⟨68, [], [⟨0, 16, .rw, true, 64, .any⟩, ⟨16, 4, .rw, true, 4, .rng 1 15⟩]⟩,
  ⟨72, [], [⟨0, 1, .wo, false, 0, .any⟩]⟩,
  ⟨96, [], [⟨0, 2, .ro, false, 0, .any⟩, ⟨2, 1, .ro, false, 0, .any⟩, ⟨3, 1, .ro, false, 0, .any⟩, ⟨4, 1, .ro, false, 0, .any⟩, ⟨8, 3, .ro, false, 0, .any⟩, ⟨12, 4, .ro, false, 0, .any⟩]⟩,
  ⟨100, [], [⟨0, 16, .ro, false, 0, .any⟩, ⟨16, 16, .ro, false, 0, .any⟩]⟩,
  ⟨104, [], [⟨0, 32, .ro, false, 0, .any⟩]⟩,
  ⟨108, [], [⟨0, 16, .ro, false, 0, .any⟩, ⟨16, 16, .ro, false, 0, .any⟩]⟩]

/-- The block registers of the SEQ page, as rows. -/
def rowsSEQ0 : List RRow := [
  ⟨64, [], [⟨0, 1, .rw, true, 0, .any⟩, ⟨1, 1, .rw, true, 0, .any⟩, ⟨16, 16, .rw, true, 0, .any⟩]⟩,
  ⟨68, [], [⟨0, 24, .rw, true, 1000000, .rng 1 16777215⟩]⟩,
  ⟨72, [], [⟨0, 32, .rw, false, 0, .any⟩]⟩,
  ⟨76, [], [⟨0, 32, .rw, false, 0, .any⟩]⟩,
  ⟨80, [], [⟨0, 1, .wo, false, 0, .any⟩]⟩,
  ⟨96, [], [⟨0, 1, .ro, false, 0, .any⟩, ⟨1, 1, .ro, false, 0, .any⟩, ⟨2, 2, .ro, false, 0, .any⟩, ⟨4, 1, .ro, false, 0, .any⟩, ⟨16, 16, .ro, false, 0, .any⟩]⟩,
  ⟨100, [], [⟨0, 32, .ro, false, 0, .any⟩]⟩,
  ⟨104, [], [⟨0, 8, .ro, false, 0, .any⟩, ⟨8, 8, .ro, false, 0, .any⟩, ⟨16, 8, .ro, false, 0, .any⟩, ⟨24, 4, .ro, false, 0, .any⟩, ⟨28, 4, .ro, false, 0, .any⟩]⟩,
  ⟨108, [], [⟨0, 32, .ro, false, 0, .any⟩]⟩,
  ⟨112, [], [⟨0, 26, .ro, false, 0, .any⟩, ⟨26, 1, .ro, false, 0, .any⟩, ⟨27, 1, .ro, false, 0, .any⟩, ⟨28, 1, .ro, false, 0, .any⟩, ⟨29, 2, .ro, false, 0, .any⟩]⟩,
  ⟨116, [], [⟨0, 32, .ro, false, 0, .any⟩]⟩,
  ⟨120, [], [⟨0, 32, .ro, false, 0, .any⟩]⟩]

def rowsSEQ1 : List RRow := [
  ⟨256, [(12, 4)], [⟨0, 32, .ro, false, 0, .any⟩]⟩]

/-- All of them. -/
def rowsSEQ : List RRow := rowsSEQ0 ++ rowsSEQ1

/-- The block registers of the PWM page, as rows. -/
def rowsPWM : List RRow := [
  ⟨256, [(64, 4)], [⟨0, 16, .rw, true, 500, .rng 256 65535⟩, ⟨16, 16, .rw, true, 0, .any⟩]⟩,
  ⟨512, [(64, 4)], [⟨0, 16, .rw, true, 0, .any⟩]⟩,
  ⟨768, [(64, 4)], [⟨0, 16, .ro, false, 0, .any⟩, ⟨16, 1, .ro, false, 0, .any⟩, ⟨17, 1, .ro, false, 0, .any⟩]⟩]

/-- The block registers of the TMR page, as rows. -/
def rowsTMR : List RRow := [
  ⟨64, [(16, 4)], [⟨0, 32, .rw, true, 100000, .rng 2 4294967295⟩]⟩,
  ⟨128, [(16, 4)], [⟨0, 32, .rw, true, 0, .any⟩]⟩,
  ⟨192, [], [⟨0, 16, .rw, true, 0, .any⟩]⟩,
  ⟨196, [], [⟨0, 32, .ro, false, 0, .any⟩]⟩,
  ⟨200, [], [⟨0, 32, .ro, false, 0, .any⟩]⟩]

/-- The block registers of the ACCU page, as rows. -/
def rowsACCU0 : List RRow := [
  ⟨64, [], [⟨0, 1, .rw, true, 0, .any⟩]⟩,
  ⟨68, [], [⟨0, 32, .rw, true, 0, .any⟩]⟩,
  ⟨72, [], [⟨0, 32, .rw, true, 0, .any⟩]⟩,
  ⟨76, [], [⟨0, 32, .rw, true, 1000000, .rng 1000 4294967295⟩]⟩,
  ⟨128, [], [⟨0, 32, .ro, false, 0, .any⟩]⟩,
  ⟨132, [], [⟨0, 1, .ro, false, 0, .any⟩, ⟨1, 1, .ro, false, 0, .any⟩]⟩,
  ⟨136, [], [⟨0, 32, .ro, false, 0, .any⟩]⟩,
  ⟨140, [], [⟨0, 32, .ro, false, 0, .any⟩]⟩,
  ⟨1024, [(64, 32)], [⟨0, 32, .ro, false, 0, .any⟩]⟩,
  ⟨1028, [(64, 32)], [⟨0, 32, .ro, false, 0, .any⟩]⟩,
  ⟨1032, [(64, 32)], [⟨0, 32, .ro, false, 0, .any⟩]⟩,
  ⟨1036, [(64, 32)], [⟨0, 32, .ro, false, 0, .any⟩]⟩]

def rowsACCU1 : List RRow := [
  ⟨1040, [(64, 32)], [⟨0, 32, .ro, false, 0, .any⟩]⟩,
  ⟨1044, [(64, 32)], [⟨0, 26, .ro, false, 0, .any⟩]⟩,
  ⟨1048, [(64, 32)], [⟨0, 26, .ro, false, 0, .any⟩]⟩,
  ⟨1052, [(64, 32)], [⟨0, 16, .ro, false, 0, .any⟩, ⟨16, 1, .ro, false, 0, .any⟩, ⟨17, 1, .ro, false, 0, .any⟩, ⟨18, 1, .ro, false, 0, .any⟩, ⟨19, 1, .ro, false, 0, .any⟩]⟩]

/-- All of them. -/
def rowsACCU : List RRow := rowsACCU0 ++ rowsACCU1

/-- The block registers of the RING page, as rows. -/
def rowsRING : List RRow := [
  ⟨256, [(16, 32)], [⟨0, 1, .rw, true, 0, .any⟩, ⟨1, 1, .rw, true, 0, .any⟩, ⟨8, 5, .rw, true, 12, .rng 12 24⟩]⟩,
  ⟨260, [(16, 32)], [⟨16, 16, .rw, true, 0, .any⟩]⟩,
  ⟨264, [(16, 32)], [⟨0, 8, .rw, true, 16, .any⟩]⟩,
  ⟨268, [(16, 32)], [⟨0, 32, .ro, false, 0, .any⟩]⟩,
  ⟨272, [(16, 32)], [⟨0, 32, .rw, false, 0, .any⟩]⟩,
  ⟨276, [(16, 32)], [⟨0, 32, .ro, false, 0, .any⟩]⟩,
  ⟨280, [(16, 32)], [⟨0, 1, .ro, false, 0, .any⟩, ⟨1, 1, .ro, false, 0, .any⟩]⟩]

/-- The block registers of the FILT pages, as rows. -/
def rowsFILT0 : List RRow := [
  ⟨64, [], [⟨0, 5, .rw, true, 0, .rng 0 23⟩, ⟨5, 2, .rw, true, 0, .gtZero 2⟩, ⟨7, 9, .rw, true, 0, .any⟩, ⟨16, 16, .rw, true, 0, .any⟩]⟩,
  ⟨68, [], [⟨0, 3, .rw, true, 1, .rng 1 4⟩, ⟨8, 4, .rw, true, 0, .rng 0 8⟩, ⟨12, 4, .rw, true, 0, .rng 0 8⟩, ⟨16, 4, .rw, true, 0, .rng 0 8⟩, ⟨20, 4, .rw, true, 0, .rng 0 8⟩]⟩,
  ⟨72, [], [⟨0, 26, .rw, true, 0, .any⟩]⟩,
  ⟨76, [], [⟨0, 12, .rw, true, 0, .any⟩, ⟨12, 4, .rw, true, 0, .any⟩]⟩,
  ⟨80, [], [⟨0, 32, .rw, true, 0, .any⟩]⟩,
  ⟨84, [], [⟨0, 12, .rw, true, 64, .rng 1 4095⟩]⟩,
  ⟨88, [], [⟨6, 26, .rw, true, 0, .any⟩]⟩,
  ⟨92, [], [⟨0, 8, .rw, true, 16, .any⟩]⟩,
  ⟨96, [], [⟨0, 1, .rw, true, 0, .any⟩, ⟨8, 5, .rw, true, 12, .rng 8 16⟩, ⟨16, 4, .rw, true, 1, .rng 1 15⟩, ⟨20, 4, .rw, true, 1, .rng 1 15⟩]⟩,
  ⟨100, [], [⟨0, 24, .rw, true, 0, .rng 0 0x800000⟩]⟩,
  ⟨104, [], [⟨0, 32, .rw, true, 0, .any⟩]⟩,
  ⟨108, [], [⟨0, 32, .rw, true, 0, .any⟩]⟩]

def rowsFILT1 : List RRow := [
  ⟨112, [], [⟨0, 32, .rw, true, 2147483647, .any⟩]⟩,
  ⟨116, [], [⟨0, 32, .rw, true, 2147483648, .any⟩]⟩,
  ⟨120, [], [⟨0, 31, .rw, true, 0, .any⟩]⟩,
  ⟨124, [], [⟨0, 1, .rw, true, 0, .any⟩, ⟨1, 1, .rw, true, 0, .any⟩]⟩,
  ⟨128, [], [⟨0, 1, .rw, true, 0, .any⟩, ⟨1, 1, .rw, true, 0, .any⟩, ⟨8, 5, .rw, true, 12, .rng 12 24⟩]⟩,
  ⟨132, [], [⟨16, 16, .rw, true, 0, .any⟩]⟩,
  ⟨148, [], [⟨16, 16, .rw, true, 0, .any⟩]⟩,
  ⟨136, [], [⟨0, 8, .rw, true, 16, .any⟩]⟩,
  ⟨152, [], [⟨0, 8, .rw, true, 16, .any⟩]⟩,
  ⟨140, [], [⟨0, 1, .rw, true, 0, .any⟩, ⟨1, 1, .rw, true, 0, .any⟩, ⟨2, 4, .rw, true, 0, .any⟩, ⟨8, 4, .rw, true, 0, .any⟩, ⟨12, 5, .rw, true, 8, .rng 8 16⟩, ⟨20, 4, .rw, true, 0, .rng 0 8⟩]⟩,
  ⟨144, [], [⟨0, 16, .rw, true, 0, .any⟩]⟩,
  ⟨156, [], [⟨0, 1, .wo, false, 0, .any⟩, ⟨1, 1, .wo, false, 0, .any⟩, ⟨2, 1, .wo, false, 0, .any⟩]⟩]

def rowsFILT2 : List RRow := [
  ⟨192, [], [⟨0, 2, .ro, false, 0, .any⟩, ⟨2, 1, .ro, false, 0, .any⟩, ⟨3, 1, .ro, false, 0, .any⟩, ⟨4, 1, .ro, false, 0, .any⟩, ⟨5, 1, .ro, false, 0, .any⟩, ⟨6, 3, .ro, false, 0, .any⟩, ⟨9, 1, .ro, false, 0, .any⟩, ⟨10, 1, .ro, false, 0, .any⟩, ⟨11, 1, .ro, false, 0, .any⟩, ⟨12, 2, .ro, false, 0, .any⟩, ⟨14, 1, .ro, false, 0, .any⟩, ⟨15, 1, .ro, false, 0, .any⟩, ⟨16, 12, .ro, false, 0, .any⟩]⟩,
  ⟨196, [], [⟨0, 32, .ro, false, 0, .any⟩]⟩,
  ⟨200, [], [⟨0, 32, .rw, false, 0, .any⟩]⟩,
  ⟨204, [], [⟨0, 32, .ro, false, 0, .any⟩]⟩,
  ⟨208, [], [⟨0, 32, .ro, false, 0, .any⟩]⟩,
  ⟨212, [], [⟨0, 32, .ro, false, 0, .any⟩]⟩,
  ⟨216, [], [⟨0, 32, .ro, false, 0, .any⟩]⟩,
  ⟨220, [], [⟨0, 32, .ro, false, 0, .any⟩]⟩,
  ⟨224, [], [⟨0, 16, .ro, false, 0, .any⟩]⟩,
  ⟨228, [], [⟨0, 32, .ro, false, 0, .any⟩]⟩,
  ⟨232, [], [⟨0, 32, .ro, false, 0, .any⟩]⟩,
  ⟨236, [], [⟨0, 32, .rw, false, 0, .any⟩]⟩]

def rowsFILT3 : List RRow := [
  ⟨240, [], [⟨0, 8, .ro, false, 0, .any⟩, ⟨8, 8, .ro, false, 0, .any⟩, ⟨16, 8, .ro, false, 0, .any⟩, ⟨24, 8, .ro, false, 0, .any⟩]⟩,
  ⟨244, [], [⟨0, 16, .ro, false, 0, .any⟩, ⟨16, 8, .ro, false, 0, .any⟩, ⟨24, 8, .ro, false, 0, .any⟩]⟩,
  ⟨248, [], [⟨0, 32, .ro, false, 16843009, .any⟩]⟩,
  ⟨252, [], [⟨0, 32, .ro, false, 0, .any⟩]⟩,
  ⟨1024, [(4, 256), (64, 4)], [⟨0, 18, .ro, false, 0, .any⟩, ⟨18, 14, .ro, false, 0, .any⟩]⟩]

/-- All of them. -/
def rowsFILT : List RRow := rowsFILT0 ++ rowsFILT1 ++ rowsFILT2 ++ rowsFILT3

/-- The block registers of the HERD pages, as rows. -/
def rowsHERD : List RRow := [
  ⟨64, [], [⟨0, 5, .rw, true, 1, .any⟩, ⟨8, 1, .rw, true, 1, .any⟩]⟩,
  ⟨68, [], [⟨0, 8, .rw, true, 100, .rng 1 255⟩, ⟨8, 8, .rw, true, 200, .rng 1 255⟩, ⟨16, 8, .rw, true, 10, .rng 1 255⟩, ⟨24, 8, .rw, true, 20, .rng 1 255⟩]⟩,
  ⟨72, [], [⟨0, 8, .rw, true, 0, .any⟩, ⟨8, 8, .rw, true, 252, .any⟩, ⟨16, 8, .rw, true, 248, .any⟩, ⟨24, 8, .rw, true, 0, .any⟩]⟩,
  ⟨76, [], [⟨0, 1, .wo, false, 0, .any⟩, ⟨1, 1, .wo, false, 0, .any⟩, ⟨8, 5, .wo, false, 0, .any⟩, ⟨13, 1, .wo, false, 0, .any⟩]⟩,
  ⟨80, [], [⟨0, 5, .rw, true, 20, .rng 16 30⟩, ⟨8, 8, .rw, true, 0, .any⟩, ⟨16, 8, .rw, true, 20, .any⟩, ⟨24, 8, .rw, true, 12, .any⟩]⟩,
  ⟨96, [], [⟨0, 3, .ro, false, 0, .any⟩, ⟨3, 1, .ro, false, 0, .any⟩, ⟨4, 1, .ro, false, 0, .any⟩, ⟨8, 5, .ro, false, 18, .any⟩, ⟨16, 3, .ro, false, 0, .any⟩, ⟨20, 3, .ro, false, 0, .any⟩, ⟨24, 3, .ro, false, 0, .any⟩]⟩,
  ⟨100, [], [⟨0, 8, .ro, false, 0, .any⟩, ⟨8, 16, .ro, false, 0, .any⟩, ⟨24, 8, .ro, false, 0, .any⟩]⟩,
  ⟨256, [(19, 8)], [⟨0, 3, .ro, false, 0, .any⟩, ⟨3, 1, .ro, false, 0, .any⟩, ⟨4, 5, .ro, false, 0, .any⟩, ⟨9, 3, .ro, false, 0, .any⟩, ⟨16, 8, .ro, false, 0, .any⟩]⟩,
  ⟨260, [(19, 8)], [⟨0, 32, .ro, false, 0, .any⟩]⟩,
  ⟨416, [(4, 4)], [⟨0, 3, .ro, false, 0, .any⟩, ⟨3, 1, .ro, false, 0, .any⟩, ⟨4, 1, .ro, false, 0, .any⟩, ⟨5, 1, .ro, false, 0, .any⟩, ⟨6, 1, .ro, false, 0, .any⟩, ⟨8, 2, .ro, false, 0, .any⟩, ⟨10, 3, .ro, false, 0, .any⟩, ⟨16, 16, .ro, false, 0, .any⟩]⟩,
  ⟨512, [(4, 16), (3, 4)], [⟨0, 12, .ro, false, 0, .any⟩, ⟨16, 6, .ro, false, 0, .any⟩, ⟨24, 7, .ro, false, 0, .any⟩, ⟨31, 1, .ro, false, 0, .any⟩]⟩,
  ⟨768, [(19, 4)], [⟨0, 12, .ro, false, 0, .any⟩, ⟨16, 6, .ro, false, 0, .any⟩, ⟨31, 1, .ro, false, 0, .any⟩]⟩]

/-- The block registers of the LINK0 page, as rows. -/
def rowsLINK0 : List RRow := [
  ⟨64, [], [⟨0, 10, .rw, true, 100, .rng 1 1023⟩, ⟨16, 16, .rw, true, 1024, .rng 64 65535⟩]⟩,
  ⟨128, [(17, 4)], [⟨0, 16, .ro, false, 0, .any⟩, ⟨16, 16, .ro, false, 0, .any⟩]⟩,
  ⟨256, [(17, 4)], [⟨0, 11, .ro, false, 0, .any⟩, ⟨16, 8, .ro, false, 0, .any⟩, ⟨24, 8, .ro, false, 0, .any⟩]⟩,
  ⟨384, [(17, 8)], [⟨0, 16, .ro, false, 0, .any⟩, ⟨16, 16, .ro, false, 0, .any⟩]⟩,
  ⟨388, [(17, 8)], [⟨0, 16, .ro, false, 0, .any⟩, ⟨16, 16, .ro, false, 0, .any⟩]⟩]

/-- The block registers of the LINK1 page, as rows. -/
def rowsLINK1 : List RRow := [
  ⟨64, [], [⟨0, 16, .rw, true, 1000, .rng 1 65535⟩, ⟨16, 8, .rw, true, 100, .rng 1 255⟩, ⟨24, 8, .rw, true, 16, .rng 1 255⟩]⟩,
  ⟨68, [], [⟨0, 8, .wo, false, 0, .any⟩]⟩,
  ⟨72, [], [⟨0, 4, .ro, false, 0, .any⟩, ⟨4, 3, .ro, false, 0, .any⟩, ⟨8, 5, .ro, false, 0, .any⟩]⟩,
  ⟨128, [(8, 8)], [⟨0, 2, .ro, false, 0, .any⟩, ⟨8, 5, .ro, false, 0, .any⟩, ⟨16, 2, .ro, false, 0, .any⟩, ⟨24, 8, .ro, false, 0, .any⟩]⟩,
  ⟨132, [(8, 8)], [⟨0, 8, .ro, false, 0, .any⟩, ⟨16, 16, .ro, false, 0, .any⟩]⟩]

/-- The block registers of the LINK2 page, as rows. -/
def rowsLINK2 : List RRow := [
  ⟨64, [(8, 4)], [⟨0, 16, .rw, false, 0, .any⟩]⟩,
  ⟨128, [(8, 4)], [⟨0, 16, .ro, false, 0, .any⟩, ⟨16, 5, .ro, false, 0, .any⟩]⟩]

/-- The block registers of the MEMC page, as rows. -/
def rowsMEMC0 : List RRow := [
  ⟨64, [], [⟨0, 1, .rw, true, 1, .any⟩, ⟨8, 8, .rw, true, 24, .rng 1 255⟩]⟩,
  ⟨68, [], [⟨0, 4, .rw, true, 4, .any⟩, ⟨4, 4, .rw, true, 4, .any⟩, ⟨8, 4, .rw, true, 4, .any⟩, ⟨12, 4, .rw, true, 4, .any⟩, ⟨16, 4, .rw, true, 4, .any⟩, ⟨20, 4, .rw, true, 4, .any⟩, ⟨24, 4, .rw, true, 4, .any⟩, ⟨28, 4, .rw, true, 4, .any⟩]⟩,
  ⟨72, [], [⟨0, 4, .rw, true, 4, .any⟩, ⟨4, 4, .rw, true, 4, .any⟩, ⟨8, 4, .rw, true, 4, .any⟩, ⟨12, 4, .rw, true, 4, .any⟩, ⟨16, 4, .rw, true, 4, .any⟩, ⟨20, 4, .rw, true, 4, .any⟩, ⟨24, 4, .rw, true, 4, .any⟩, ⟨28, 4, .rw, true, 4, .any⟩]⟩,
  ⟨76, [], [⟨0, 8, .wo, false, 0, .any⟩, ⟨8, 1, .wo, false, 0, .any⟩, ⟨9, 1, .wo, false, 0, .any⟩]⟩,
  ⟨96, [], [⟨0, 1, .ro, false, 0, .any⟩, ⟨1, 1, .ro, false, 0, .any⟩, ⟨4, 9, .ro, false, 0, .any⟩]⟩,
  ⟨100, [], [⟨0, 22, .ro, false, 0, .any⟩]⟩,
  ⟨104, [], [⟨0, 32, .ro, false, 0, .any⟩]⟩,
  ⟨108, [], [⟨0, 16, .ro, false, 0, .any⟩, ⟨16, 16, .ro, false, 0, .any⟩]⟩,
  ⟨112, [], [⟨0, 32, .ro, false, 0, .any⟩]⟩,
  ⟨116, [], [⟨0, 8, .ro, false, 0, .any⟩, ⟨8, 4, .ro, false, 0, .any⟩, ⟨12, 1, .ro, false, 0, .any⟩, ⟨31, 1, .ro, false, 0, .any⟩]⟩,
  ⟨120, [], [⟨0, 27, .ro, false, 0, .any⟩]⟩,
  ⟨124, [], [⟨0, 16, .ro, false, 0, .any⟩, ⟨16, 16, .ro, false, 0, .any⟩]⟩]

def rowsMEMC1 : List RRow := [
  ⟨128, [], [⟨0, 27, .ro, false, 0, .any⟩, ⟨31, 1, .ro, false, 0, .any⟩]⟩,
  ⟨132, [], [⟨0, 32, .ro, false, 0, .any⟩]⟩,
  ⟨136, [], [⟨0, 16, .ro, false, 0, .any⟩]⟩,
  ⟨192, [(8, 4)], [⟨0, 12, .ro, false, 0, .any⟩, ⟨16, 1, .ro, false, 0, .any⟩]⟩,
  ⟨2048, [(256, 8)], [⟨0, 27, .ro, false, 0, .any⟩]⟩,
  ⟨2052, [(256, 8)], [⟨0, 8, .ro, false, 0, .any⟩, ⟨31, 1, .ro, false, 0, .any⟩]⟩]

/-- All of them. -/
def rowsMEMC : List RRow := rowsMEMC0 ++ rowsMEMC1

/-- The block registers of the RETIRE page, as rows. -/
def rowsRETIRE : List RRow := [
  ⟨64, [], [⟨0, 17, .wo, false, 0, .any⟩]⟩,
  ⟨96, [], [⟨0, 13, .ro, false, 0, .any⟩, ⟨16, 2, .ro, false, 0, .any⟩]⟩,
  ⟨100, [], [⟨0, 12, .rw, false, 0, .any⟩]⟩,
  ⟨104, [], [⟨0, 17, .ro, false, 0, .any⟩, ⟨31, 1, .ro, false, 0, .any⟩]⟩,
  ⟨108, [], [⟨0, 17, .ro, false, 0, .any⟩, ⟨20, 4, .ro, false, 0, .any⟩, ⟨24, 1, .ro, false, 0, .any⟩, ⟨31, 1, .ro, false, 0, .any⟩]⟩,
  ⟨112, [], [⟨0, 32, .ro, false, 0, .any⟩]⟩]

/-- The block registers of the SPM page, as rows. -/
def rowsSPM : List RRow := [
  ⟨64, [], [⟨0, 6, .rw, true, 32, .rng 4 32⟩]⟩,
  ⟨96, [], [⟨0, 5, .ro, false, 0, .any⟩, ⟨5, 1, .ro, false, 0, .any⟩]⟩,
  ⟨100, [], [⟨0, 4, .ro, false, 0, .any⟩, ⟨4, 3, .ro, false, 0, .any⟩, ⟨8, 5, .ro, false, 0, .any⟩, ⟨16, 16, .ro, false, 0, .any⟩]⟩,
  ⟨104, [], [⟨0, 16, .ro, false, 0, .any⟩, ⟨16, 16, .ro, false, 0, .any⟩]⟩]

/-- The block registers of the SPF page, as rows. -/
def rowsSPF0 : List RRow := [
  ⟨64, [], [⟨0, 8, .rw, true, 16, .rng 16 255⟩, ⟨8, 8, .rw, true, 4, .rng 4 255⟩, ⟨16, 8, .rw, true, 10, .rng 1 255⟩]⟩,
  ⟨68, [], [⟨0, 16, .rw, true, 1000, .rng 1 65535⟩]⟩,
  ⟨72, [], [⟨0, 26, .wo, false, 0, .any⟩, ⟨26, 2, .wo, false, 0, .any⟩]⟩,
  ⟨76, [], [⟨0, 6, .wo, false, 0, .any⟩, ⟨8, 7, .wo, false, 0, .any⟩, ⟨16, 1, .wo, false, 0, .any⟩, ⟨17, 1, .wo, false, 0, .any⟩, ⟨18, 1, .wo, false, 0, .any⟩, ⟨19, 1, .wo, false, 0, .any⟩, ⟨20, 8, .wo, false, 0, .any⟩]⟩,
  ⟨80, [], [⟨0, 32, .wo, false, 0, .any⟩]⟩,
  ⟨84, [], [⟨0, 32, .ro, false, 0, .any⟩]⟩,
  ⟨96, [], [⟨0, 2, .ro, false, 0, .any⟩, ⟨2, 3, .ro, false, 0, .any⟩, ⟨5, 1, .ro, false, 0, .any⟩, ⟨6, 1, .ro, false, 0, .any⟩, ⟨8, 3, .ro, false, 0, .any⟩]⟩,
  ⟨100, [], [⟨0, 7, .ro, false, 0, .any⟩, ⟨8, 7, .ro, false, 0, .any⟩, ⟨16, 5, .ro, false, 0, .any⟩, ⟨24, 1, .w1c, false, 0, .any⟩, ⟨25, 1, .w1c, false, 0, .any⟩, ⟨26, 1, .w1c, false, 0, .any⟩]⟩,
  ⟨104, [], [⟨0, 4, .ro, false, 0, .any⟩, ⟨4, 5, .ro, false, 0, .any⟩, ⟨9, 5, .ro, false, 0, .any⟩, ⟨14, 5, .ro, false, 0, .any⟩, ⟨19, 5, .ro, false, 0, .any⟩, ⟨24, 7, .ro, false, 0, .any⟩]⟩,
  ⟨108, [], [⟨0, 16, .ro, false, 0, .any⟩]⟩,
  ⟨112, [(4, 4)], [⟨0, 24, .ro, false, 0, .any⟩]⟩,
  ⟨128, [], [⟨0, 16, .ro, false, 0, .any⟩, ⟨16, 16, .ro, false, 0, .any⟩]⟩]

def rowsSPF1 : List RRow := [
  ⟨132, [], [⟨0, 26, .ro, false, 0, .any⟩, ⟨26, 1, .ro, false, 0, .any⟩, ⟨31, 1, .ro, false, 0, .any⟩]⟩]

/-- All of them. -/
def rowsSPF : List RRow := rowsSPF0 ++ rowsSPF1

/-- The block registers of the OTP page, as rows. -/
def rowsOTP : List RRow := [
  ⟨64, [], [⟨0, 8, .wo, false, 0, .any⟩, ⟨8, 1, .wo, false, 0, .any⟩]⟩,
  ⟨68, [], [⟨0, 8, .rw, false, 0, .any⟩, ⟨8, 6, .rw, false, 0, .any⟩]⟩,
  ⟨96, [], [⟨0, 1, .ro, false, 0, .any⟩, ⟨1, 3, .ro, false, 0, .any⟩, ⟨8, 8, .ro, false, 0, .any⟩, ⟨16, 2, .ro, false, 0, .any⟩]⟩,
  ⟨100, [], [⟨0, 32, .ro, false, 0, .any⟩]⟩,
  ⟨132, [(8, 4)], [⟨0, 2, .ro, false, 0, .any⟩, ⟨2, 1, .ro, false, 0, .any⟩, ⟨4, 2, .ro, false, 0, .any⟩, ⟨6, 1, .ro, false, 0, .any⟩, ⟨8, 3, .ro, false, 0, .any⟩, ⟨11, 1, .ro, false, 0, .any⟩]⟩,
  ⟨256, [(52, 4)], [⟨0, 32, .rw, false, 0, .any⟩]⟩]

/-- The block registers of the SEC page, as rows. -/
def rowsSEC : List RRow := [
  ⟨64, [], [⟨0, 1, .wo, false, 0, .any⟩, ⟨1, 1, .wo, false, 0, .any⟩]⟩,
  ⟨96, [], [⟨0, 1, .ro, false, 1, .any⟩, ⟨1, 1, .ro, false, 1, .any⟩, ⟨2, 1, .ro, false, 1, .any⟩]⟩,
  ⟨100, [], [⟨0, 1, .ro, false, 0, .any⟩, ⟨1, 1, .ro, false, 0, .any⟩, ⟨2, 1, .ro, false, 0, .any⟩, ⟨3, 1, .ro, false, 0, .any⟩, ⟨4, 3, .ro, false, 0, .any⟩, ⟨8, 2, .ro, false, 0, .any⟩]⟩,
  ⟨104, [], [⟨0, 32, .ro, false, 0, .any⟩]⟩,
  ⟨108, [], [⟨0, 32, .ro, false, 0, .any⟩]⟩,
  ⟨128, [(12, 4)], [⟨0, 32, .rw, false, 0, .any⟩]⟩,
  ⟨256, [(24, 4)], [⟨0, 32, .ro, false, 0, .any⟩]⟩,
  ⟨512, [(25, 4)], [⟨0, 32, .ro, false, 0, .any⟩]⟩]

/-- The block registers of the ACL pages, as rows. -/
def rowsACL : List RRow := [
  ⟨96, [], [⟨0, 7, .ro, false, 0, .any⟩, ⟨8, 7, .ro, false, 1, .any⟩]⟩,
  ⟨100, [], [⟨0, 4, .ro, false, 0, .any⟩, ⟨4, 2, .ro, false, 0, .any⟩, ⟨31, 1, .ro, false, 0, .any⟩]⟩,
  ⟨104, [], [⟨0, 28, .ro, false, 0, .any⟩]⟩,
  ⟨108, [], [⟨0, 32, .ro, false, 0, .any⟩]⟩,
  ⟨256, [(64, 16)], [⟨0, 28, .rw, true, 0, .any⟩, ⟨30, 1, .rw, true, 0, .any⟩, ⟨31, 1, .rw, true, 0, .any⟩]⟩,
  ⟨260, [(64, 16)], [⟨0, 28, .rw, true, 0, .any⟩]⟩,
  ⟨264, [(64, 16)], [⟨0, 24, .rw, true, 0, .any⟩]⟩,
  ⟨268, [(64, 16)], [⟨0, 24, .rw, true, 0, .any⟩]⟩]

/-- The block registers of the CORE pages, as rows. -/
def rowsCORE : List RRow := [
  ⟨64, [], [⟨0, 4, .rw, true, 8, .rng 1 15⟩]⟩,
  ⟨68, [], [⟨0, 1, .wo, false, 0, .any⟩]⟩,
  ⟨96, [], [⟨0, 2, .ro, false, 0, .any⟩, ⟨2, 2, .ro, false, 0, .any⟩, ⟨4, 4, .ro, false, 0, .any⟩]⟩,
  ⟨100, [], [⟨0, 16, .ro, false, 0, .any⟩, ⟨16, 16, .ro, false, 0, .any⟩]⟩]

/-- The rows of a page kind (block registers; the header is `rowsHDR`). -/
def rowsOf : Kind → List RRow
  | .pwr => rowsPWR
  | .clk => rowsCLK
  | .time => rowsTIME
  | .dev => rowsDEV
  | .evt0 => rowsEVT0
  | .evt1 => rowsEVT1
  | .evt2 => rowsEVT2
  | .port => rowsPORT
  | .cnv => rowsCNV
  | .eq => rowsEQ
  | .soft => rowsSOFT
  | .tstat => rowsTSTAT
  | .pcv => rowsPCV
  | .seq => rowsSEQ
  | .pwm => rowsPWM
  | .tmr => rowsTMR
  | .accu => rowsACCU
  | .ring => rowsRING
  | .filt => rowsFILT
  | .herd => rowsHERD
  | .link0 => rowsLINK0
  | .link1 => rowsLINK1
  | .link2 => rowsLINK2
  | .memc => rowsMEMC
  | .retire => rowsRETIRE
  | .spm => rowsSPM
  | .spf => rowsSPF
  | .otp => rowsOTP
  | .sec => rowsSEC
  | .acl => rowsACL
  | .core => rowsCORE

end Sys2Proof.Machine
end

