-- ==== Sys2Proof/Machine/Ops.lean ====
section
/-! DEFINITION. The named operations over the block's state: sparse stores, register fields in effect
and in shadow, instance access, device time, free values, bytes and check codes. -/

namespace Sys2Proof.Machine

/-! ### Sparse stores -/

/-- The value at a key: the first entry for it, or the default `d`. -/
def Store.read {α : Type} (d : α) : Store α → Nat → α
  | [], _ => d
  | (a, v) :: t, k => if a = k then v else Store.read d t k

/-- Insert or replace an entry, keeping keys rising. -/
def Store.put {α : Type} : Store α → Nat → α → Store α
  | [], k, v => [(k, v)]
  | (a, w) :: t, k, v =>
    if k < a then (k, v) :: (a, w) :: t
    else if k = a then (k, v) :: t
    else (a, w) :: Store.put t k v

/-- Remove a key. -/
def Store.del {α : Type} (l : Store α) (k : Nat) : Store α := l.filter (fun e => e.1 != k)

/-- Write a value: the default value removes the entry, so that equal contents are equal data. -/
def Store.write {α : Type} [DecidableEq α] (d : α) (l : Store α) (k : Nat) (v : α) : Store α :=
  if v = d then l.del k else l.put k v

/-- Remove every key from `lo` up to and not including `hi`. -/
def Store.delRange {α : Type} (l : Store α) (lo hi : Nat) : Store α :=
  l.filter (fun e => e.1 < lo || hi ≤ e.1)

/-- Keys strictly rising. -/
def Store.sorted {α : Type} : Store α → Bool
  | [] => true
  | [_] => true
  | (a, _) :: (b, w) :: t => decide (a < b) && Store.sorted ((b, w) :: t)

/-- The canonical form: keys rising and no entry equal to the default. -/
def Store.wf {α : Type} [DecidableEq α] (d : α) (l : Store α) : Bool :=
  l.sorted && l.all (fun e => e.2 != d)

/-! ### Instances -/

/-- Element `i` of an instance vector (`d` outside it). -/
def vget {α : Type} {n : Nat} (v : Vector α n) (d : α) (i : Nat) : α := v[i]?.getD d

/-- The vector with element `i` replaced (unchanged outside it). -/
def vset {α : Type} {n : Nat} (v : Vector α n) (i : Nat) (x : α) : Vector α n := v.setIfInBounds i x

/-! ### Updates of one part of the state -/

/-- Update `bus`. -/
def State.onBus (s : State) (f : Bus → Bus) : State := { s with bus := f s.bus }

/-- Update `pwr`. -/
def State.onPwr (s : State) (f : PwrH → PwrH) : State := { s with pwr := f s.pwr }

/-- Update `clk`. -/
def State.onClk (s : State) (f : ClkH → ClkH) : State := { s with clk := f s.clk }

/-- Update `time`. -/
def State.onTime (s : State) (f : TimeH → TimeH) : State := { s with time := f s.time }

/-- Update `boot`. -/
def State.onBoot (s : State) (f : BootH → BootH) : State := { s with boot := f s.boot }

/-- Update `evt`. -/
def State.onEvt (s : State) (f : EvtH → EvtH) : State := { s with evt := f s.evt }

/-- Update `seq`. -/
def State.onSeq (s : State) (f : SeqH → SeqH) : State := { s with seq := f s.seq }

/-- Update `accu`. -/
def State.onAccu (s : State) (f : AccuH → AccuH) : State := { s with accu := f s.accu }

/-- Update `memc`. -/
def State.onMemc (s : State) (f : MemH → MemH) : State := { s with memc := f s.memc }

/-- Update `spm`. -/
def State.onSpm (s : State) (f : SpmH → SpmH) : State := { s with spm := f s.spm }

/-- Update `spf`. -/
def State.onSpf (s : State) (f : SpfH → SpfH) : State := { s with spf := f s.spf }

/-- Update `otp`. -/
def State.onOtp (s : State) (f : OtpH → OtpH) : State := { s with otp := f s.otp }

/-- Update `sec`. -/
def State.onSec (s : State) (f : SecH → SecH) : State := { s with sec := f s.sec }

/-- Update `mems`. -/
def State.onMems (s : State) (f : Mems → Mems) : State := { s with mems := f s.mems }

/-- Element of `ports`. -/
def State.port (s : State) (i : Nat) : PortH := vget s.ports PortH.reset i

/-- Update an element of `ports`. -/
def State.onPort (s : State) (i : Nat) (f : PortH → PortH) : State :=
  { s with ports := vset s.ports i (f (s.port i)) }

/-- Element of `cnvs`. -/
def State.cnv (s : State) (i : Nat) : CnvH := vget s.cnvs CnvH.reset i

/-- Update an element of `cnvs`. -/
def State.onCnv (s : State) (i : Nat) (f : CnvH → CnvH) : State :=
  { s with cnvs := vset s.cnvs i (f (s.cnv i)) }

/-- Element of `eqs`. -/
def State.eq (s : State) (i : Nat) : EqH := vget s.eqs EqH.reset i

/-- Update an element of `eqs`. -/
def State.onEq (s : State) (i : Nat) (f : EqH → EqH) : State :=
  { s with eqs := vset s.eqs i (f (s.eq i)) }

/-- Element of `softs`. -/
def State.soft (s : State) (i : Nat) : SoftH := vget s.softs SoftH.reset i

/-- Update an element of `softs`. -/
def State.onSoft (s : State) (i : Nat) (f : SoftH → SoftH) : State :=
  { s with softs := vset s.softs i (f (s.soft i)) }

/-- Element of `tstats`. -/
def State.tstat (s : State) (i : Nat) : TstatH := vget s.tstats TstatH.reset i

/-- Update an element of `tstats`. -/
def State.onTstat (s : State) (i : Nat) (f : TstatH → TstatH) : State :=
  { s with tstats := vset s.tstats i (f (s.tstat i)) }

/-- Element of `pcvs`. -/
def State.pcv (s : State) (i : Nat) : PcvH := vget s.pcvs PcvH.reset i

/-- Update an element of `pcvs`. -/
def State.onPcv (s : State) (i : Nat) (f : PcvH → PcvH) : State :=
  { s with pcvs := vset s.pcvs i (f (s.pcv i)) }

/-- Element of `pwms`. -/
def State.pwm (s : State) (i : Nat) : PwmH := vget s.pwms PwmH.reset i

/-- Update an element of `pwms`. -/
def State.onPwm (s : State) (i : Nat) (f : PwmH → PwmH) : State :=
  { s with pwms := vset s.pwms i (f (s.pwm i)) }

/-- Element of `filts`. -/
def State.filt (s : State) (i : Nat) : FiltH := vget s.filts FiltH.reset i

/-- Update an element of `filts`. -/
def State.onFilt (s : State) (i : Nat) (f : FiltH → FiltH) : State :=
  { s with filts := vset s.filts i (f (s.filt i)) }

/-- Element of `herds`. -/
def State.herd (s : State) (i : Nat) : HerdH := vget s.herds (HerdH.reset 0) i

/-- Update an element of `herds`. -/
def State.onHerd (s : State) (i : Nat) (f : HerdH → HerdH) : State :=
  { s with herds := vset s.herds i (f (s.herd i)) }

/-- Element of `lines`. -/
def State.line (s : State) (i : Nat) : LineH := vget s.lines LineH.reset i

/-- Update an element of `lines`. -/
def State.onLine (s : State) (i : Nat) (f : LineH → LineH) : State :=
  { s with lines := vset s.lines i (f (s.line i)) }

/-- Element of `links`. -/
def State.link (s : State) (i : Nat) : LinkH := vget s.links LinkH.reset i

/-- Update an element of `links`. -/
def State.onLink (s : State) (i : Nat) (f : LinkH → LinkH) : State :=
  { s with links := vset s.links i (f (s.link i)) }

/-- Element of `sess`. -/
def State.ses (s : State) (i : Nat) : SesH := vget s.sess SesH.reset i

/-- Update an element of `sess`. -/
def State.onSes (s : State) (i : Nat) (f : SesH → SesH) : State :=
  { s with sess := vset s.sess i (f (s.ses i)) }

/-- Element of `cores`. -/
def State.core (s : State) (i : Nat) : CoreH := vget s.cores CoreH.reset i

/-- Update an element of `cores`. -/
def State.onCore (s : State) (i : Nat) (f : CoreH → CoreH) : State :=
  { s with cores := vset s.cores i (f (s.core i)) }

/-! ### Pages and their kinds -/

/-- The kind and instance number of a page (R173); none for an unassigned page. -/
def kindOf (pg : Nat) : Option (Kind × Nat) :=
  if pg = 0 then some (.dev, 0) else if pg = 1 then some (.clk, 0)
  else if pg = 2 then some (.pwr, 0) else if pg = 3 then some (.otp, 0)
  else if pg = 4 then some (.sec, 0) else if pg = 6 then some (.time, 0)
  else if pg = 8 then some (.evt0, 0) else if pg = 9 then some (.evt1, 1)
  else if pg = 10 then some (.evt2, 2)
  else if 16 ≤ pg ∧ pg < 32 then some (.port, pg - 16)
  else if 32 ≤ pg ∧ pg < 96 then some (.cnv, pg - 32)
  else if 96 ≤ pg ∧ pg < 112 then some (.eq, pg - 96)
  else if 112 ≤ pg ∧ pg < 128 then some (.soft, pg - 112)
  else if 128 ≤ pg ∧ pg < 144 then some (.tstat, pg - 128)
  else if 144 ≤ pg ∧ pg < 168 then some (.pcv, pg - 144)
  else if pg = 168 then some (.seq, 0) else if pg = 169 then some (.pwm, 0)
  else if pg = 170 then some (.tmr, 0) else if pg = 171 then some (.accu, 0)
  else if pg = 172 then some (.ring, 0)
  else if 176 ≤ pg ∧ pg < 224 then some (.filt, pg - 176)
  else if 224 ≤ pg ∧ pg < 241 then some (.herd, pg - 224)
  else if pg = 248 then some (.link0, 0) else if pg = 249 then some (.link1, 1)
  else if pg = 250 then some (.link2, 2)
  else if pg = 256 then some (.memc, 0) else if pg = 257 then some (.retire, 0)
  else if pg = 264 then some (.spm, 0) else if pg = 265 then some (.spf, 0)
  else if pg = 272 then some (.core, 0) else if pg = 273 then some (.core, 1)
  else if 768 ≤ pg ∧ pg < 832 then some (.acl, pg - 768)
  else none

/-- Pages whose clock is never gated (R90). -/
def ungated (pg : Nat) : Bool :=
  pg < 16 || (248 ≤ pg && pg ≤ 250) || (256 ≤ pg && pg < 768) || (768 ≤ pg && pg < 1024)

/-- The clock domain of a block's registers: 0 SMP, 1 DSP, 2 FAB, 3 LNK, 4 MGT, 5 SLO (R78, block
table of chapter 01). -/
def domOf : Kind → Nat
  | .cnv => 0
  | .eq | .soft | .tstat => 1
  | .herd => 3
  | .spm | .spf | .core => 4
  | .port | .pcv | .seq | .pwm | .tmr | .accu => 5
  | .dev | .clk | .pwr | .otp | .sec | .time | .evt0 | .evt1 | .evt2 | .ring | .filt | .link0
  | .link1 | .link2 | .memc | .retire | .acl => 2

/-- Whether offset `o`, relative to a row's first offset, is one of the row's registers: the array
dimensions outermost first. -/
def inDims : List (Nat × Nat) → Nat → Bool
  | [], o => o = 0
  | (c, st) :: t, o => decide (o / st < c) && inDims t (o % st)

/-- The row of a list that covers an offset. -/
def findRow : List RRow → Nat → Option RRow
  | [], _ => none
  | r :: t, off => if r.off ≤ off ∧ inDims r.dims (off - r.off) = true then some r else findRow t off

/-- The row of the register at an offset of a page: header rows below 0x040, block rows above; none
for an offset with no register (RSV). ACL pages above 16 have no block registers (R27); HERD rows of
lanes the herd does not have are RSV (chapter 13). -/
def rowAt (pg off : Nat) : Option RRow :=
  match kindOf pg with
  | none => none
  | some (k, inst) =>
    if off < 64 then findRow rowsHDR off
    else if k = .acl ∧ 16 < inst then none
    else if k = .herd ∧ inst = 16 ∧ ((288 ≤ off ∧ off < 416) ∨ 784 ≤ off) then none
    else if k = .herd ∧ inst < 16 ∧ ((424 ≤ off ∧ off < 432) ∨ (544 ≤ off ∧ off < 768)) then none
    else findRow (rowsOf k) off

/-- The field of a row at a bit position. -/
def findField : List FRow → Nat → Option FRow
  | [], _ => none
  | f :: t, lo => if f.lo = lo then some f else findField t lo

/-- First and last 4 KiB unit of a target's range (R24, R26, R599). -/
def targetRange : Nat → Nat × Nat
  | 0 => (0, 15)
  | 1 => (0x8000, 0x83FF)
  | 2 => (0x20000, 0x23FFF)
  | 3 => (0x1000000, 0x11FFFFF)
  | 4 => (0x1800, 0x187F)
  | 5 => (0x1000, 0x100F)
  | 6 => (0x1010, 0x101F)
  | 7 => (0x1020, 0x105F)
  | 8 => (0x1060, 0x106F)
  | 9 => (0x1070, 0x107F)
  | 10 => (0x1080, 0x108F)
  | 11 => (0x1090, 0x10A7)
  | 12 => (0x10A8, 0x10AF)
  | 13 => (0x10B0, 0x10DF)
  | 14 => (0x10E0, 0x10FF)
  | 15 => (0x1100, 0x12FF)
  | _ => (0x1300, 0x13FF)

/-- Region 63 rights of masters 0 to 7 after reset (R599): R, W, X of master m at bits 3m to 3m+2. -/
def resetRights : Nat → Nat
  | 0 => 5
  | 1 => 7 + 7 * 8 + 7 * 64
  | 2 => 1 + 7 * 8 + 7 * 64
  | 3 | 4 => 3 * 8 + 3 * 64
  | 5 => 3 + 3 * 8 + 3 * 64 + 3 * 512
  | 16 => 3 + 3 * 8 + 3 * 64
  | _ => 3 + 3 * 8 + 3 * 64 + 1 * 512

/-- Reset values of the CLK.DOM_CTL fields (R78, R122). -/
def domCtlReset (d lo : Nat) : Nat :=
  if lo = 0 then (match d with | 0 => 6 | 1 => 8 | 2 => 10 | 3 => 48 | 4 => 15 | _ => 120)
  else if lo = 12 then (if d = 2 ∨ d = 4 ∨ d = 5 then 2 else 0)
  else 1

/-- The reset value of a field (R13), with the per-instance values that the tables name by rule:
PG_CTL.EN and PG_STAT.GATED (R90), CLK.DOM_CTL (R78), HERD[16].STAT.L_ACTIVE (R435), the ACL regions
(R599) and the first filter tap. -/
def resetOf (f : Fld) : Nat :=
  match kindOf f.page with
  | none => 0
  | some (k, inst) =>
    if f.off = 8 then (if f.lo = 0 ∧ ungated f.page = true then 1 else 0)
    else if f.off = 12 ∧ f.lo = 0 then b2n (ungated f.page)
    else if f.off = 12 ∧ f.lo = 1 then b2n (!ungated f.page)
    else if k = .clk ∧ 64 ≤ f.off ∧ f.off < 88 then domCtlReset ((f.off - 64) / 4) f.lo
    else if k = .herd ∧ inst = 16 ∧ f.off = 96 ∧ f.lo = 8 then 3
    else if k = .acl ∧ inst ≤ 16 ∧ 1264 ≤ f.off ∧ f.off < 1280 then
      (if f.off = 1264 then (if f.lo = 0 then (targetRange inst).1 else if f.lo = 31 then 1 else 0)
       else if f.off = 1268 then (targetRange inst).2
       else if f.off = 1272 then resetRights inst else 0)
    else
      match rowAt f.page f.off with
      | none => 0
      | some r => match findField r.fields f.lo with
        | none => 0
        | some g => g.rst

/-! ### Register fields -/

/-- The bit address of a field, its key in the stores. -/
def Fld.key (f : Fld) : Nat := (f.page * 4096 + f.off) * 8 + f.lo

/-- A field's value in effect. -/
def rd (s : State) (f : Fld) : Nat := Store.read (resetOf f) s.regs f.key

/-- A one-bit field as a Boolean. -/
def rdb (s : State) (f : Fld) : Bool := rd s f != 0

/-- Set a field's value in effect (its width is kept). -/
def wr (s : State) (f : Fld) (v : Nat) : State :=
  { s with regs := Store.write (resetOf f) s.regs f.key (v % 2 ^ f.width) }

/-- Set a one-bit field. -/
def wrb (s : State) (f : Fld) (b : Bool) : State := wr s f (b2n b)

/-- A field's shadow (R14). -/
def rdS (s : State) (f : Fld) : Nat := Store.read (resetOf f) s.shad f.key

/-- Set a field's shadow. -/
def wrS (s : State) (f : Fld) (v : Nat) : State :=
  { s with shad := Store.write (resetOf f) s.shad f.key (v % 2 ^ f.width) }

/-- Add to a counter that saturates. -/
def bump (s : State) (f : Fld) (n : Nat) : State := wr s f (satAdd f.width (rd s f) n)

/-- Add to a counter that wraps. -/
def inc (s : State) (f : Fld) (n : Nat) : State := wr s f (rd s f + n)

/-- Set several fields, first to last. -/
def wrAll (s : State) : List (Fld × Nat) → State
  | [] => s
  | (f, v) :: t => wrAll (wr s f v) t

/-- Give fields a value in effect and in shadow. -/
def keepAll (s : State) (v : Fld → Nat) : List Fld → State
  | [] => s
  | f :: t => keepAll (wrS (wr s f (v f)) f (v f)) v t

/-- First and last key (exclusive) of a page's block registers, or of its whole page. -/
def pageKeys (pg fromOff : Nat) : Nat × Nat := ((pg * 4096 + fromOff) * 8, (pg + 1) * 4096 * 8)

/-- Return every field of a page at or above an offset to its reset value, in effect and in shadow. -/
def clearPage (s : State) (pg fromOff : Nat) : State :=
  { s with
    regs := s.regs.delRange (pageKeys pg fromOff).1 (pageKeys pg fromOff).2
    shad := s.shad.delRange (pageKeys pg fromOff).1 (pageKeys pg fromOff).2 }

/-- The store's entries of one page. -/
def pagePart (l : Store Nat) (pg : Nat) : Store Nat :=
  l.filter (fun e => (pageKeys pg 0).1 ≤ e.1 && e.1 < (pageKeys pg 0).2)

/-- The word a register holds in effect: its fields put together. -/
def rawWord (s : State) (pg off : Nat) : List FRow → Nat
  | [] => 0
  | f :: t => rd s ⟨pg, off, f.lo, f.width⟩ % 2 ^ f.width * 2 ^ f.lo + rawWord s pg off t

/-! ### Time -/

/-- Device time in nanoseconds, modulo 2^64 (R87). -/
def nowNs (s : State) : Nat := s.time.units / 36 % 2 ^ 64

/-- TRUST takes a value, and the change is noted. -/
def setTrust (s : State) (v : Nat) : State :=
  let now := nowNs s
  let old := rd s Reg.TIME.STAT_TRUST
  (wr s Reg.TIME.STAT_TRUST v).onTime fun t => { t with trustLog := if old = v then t.trustLog else (now, v) :: t.trustLog }

/-- TRUST at a stamp: as the last change at or before it left it. -/
def trustAt (s : State) (ns : Nat) : Nat :=
  match s.time.trustLog.find? (fun e => decide (e.1 ≤ ns)) with
  | none => 0
  | some e => e.2

/-- TIME.NOW_FRAC at a device time in 1/36 ns (R87). -/
def fracOf (units : Nat) : Nat := units % 36 * 65536 / 36

/-- Nanoseconds of a device time in 1/36 ns. -/
def nsOf (units : Nat) : Nat := units / 36 % 2 ^ 64

/-- Period of a source in units of 1/36 ns: at 12 GHz, at 9 GHz when the root does not run locked,
or of 250 MHz (R87). -/
def srcPeriod (locked : Bool) : Source → Nat
  | .stopped => 0
  | .root d => if locked then 3 * d else 4 * d
  | .bypass b => 144 * b

/-! ### Free values -/

/-- A fresh free number (log entry 8). -/
def free (s : State) : Nat × State := (Config.freeNat s.freeCtr, { s with freeCtr := s.freeCtr + 1 })

/-! ### Bytes and check codes -/

/-- The number of a little-endian byte list. -/
def leNat : List Byte → Nat
  | [] => 0
  | b :: t => b.toNat + 256 * leNat t

/-- The `n` little-endian bytes of a number. -/
def toLE : Nat → Nat → List Byte
  | 0, _ => []
  | n + 1, v => BitVec.ofNat 8 v :: toLE n (v / 256)

/-- The bytes of a list of 32-bit words, little-endian. -/
def wordsLE : List Nat → List Byte
  | [] => []
  | w :: t => toLE 4 w ++ wordsLE t

/-- The bytes of a list of 64-bit words, little-endian. -/
def words64LE : List Nat → List Byte
  | [] => []
  | w :: t => toLE 8 w ++ words64LE t

/-- 64-bit words of a byte list, the last padded with zeros (R468); `n` words at most. -/
def packWords : Nat → List Byte → List Nat
  | 0, _ => []
  | n + 1, l => leNat (l.take 8) :: packWords n (l.drop 8)

/-- 32-bit words of a byte list; `n` words. -/
def packWords32 : Nat → List Byte → List Nat
  | 0, _ => []
  | n + 1, l => leNat (l.take 4) :: packWords32 n (l.drop 4)

/-- One bit of a CRC shifted most significant bit first, of width `w` and polynomial `p`. -/
def crcBit (w p c : Nat) (b : Bool) : Nat :=
  let top := (c / 2 ^ (w - 1)) % 2
  let c' := (c * 2) % 2 ^ w
  if (top == 1) != b then c' ^^^ p else c'

/-- Eight bits of a byte, most significant first. -/
def crcByte (w p c : Nat) (b : Byte) : Nat :=
  let n := b.toNat
  crcBit w p (crcBit w p (crcBit w p (crcBit w p (crcBit w p (crcBit w p (crcBit w p (crcBit w p c
    (n.testBit 7)) (n.testBit 6)) (n.testBit 5)) (n.testBit 4)) (n.testBit 3)) (n.testBit 2))
    (n.testBit 1)) (n.testBit 0)

/-- A CRC, most significant bit first, no final XOR (R470, R310). -/
def crc (w p init : Nat) (l : List Byte) : Nat := l.foldl (crcByte w p) init

/-- One bit of the reflected CRC-32. -/
def crc32Bit (c : Nat) : Nat := if c % 2 = 1 then (c / 2) ^^^ 0xEDB88320 else c / 2

/-- CRC-32 of IEEE 802.3 (R508). -/
def crc32 (l : List Byte) : Nat :=
  (l.foldl (fun c b =>
    crc32Bit (crc32Bit (crc32Bit (crc32Bit (crc32Bit (crc32Bit (crc32Bit (crc32Bit
      (c ^^^ b.toNat))))))))) 0xFFFFFFFF) ^^^ 0xFFFFFFFF

/-! ### Completion codes -/

/-- The 4-bit code of a status (R31). -/
def Status.code : Status → Nat
  | .ok => 0
  | .unwritten => 1
  | .poison => 2
  | .errUnmapped => 8
  | .errDenied => 9
  | .errLocked => 10
  | .errPoison => 11
  | .errRetired => 12
  | .errTimeout => 13
  | .errAlign => 14

/-- A completion that is a bus error (R32). -/
def Status.isErr (t : Status) : Bool := 8 ≤ t.code

/-- The bits set in a mask below `n`, ascending. -/
def maskList (n v : Nat) : List Nat := (List.range n).filter (fun i => v.testBit i)

/-- The mask of a list of bit numbers. -/
def listMask : List Nat → Nat
  | [] => 0
  | i :: t => setBit (listMask t) i

end Sys2Proof.Machine
end

