-- ==== Sys2Proof/Machine/Crypto.lean ====
section
/-! DEFINITION. The cryptographic functions that the spec names and does not write out (log entry 10): SHA-384 (R500,
R584, R591), HMAC and HKDF (R499), AES-256-GCM (R494) and the points of P-384 (R497 to R500, R588). PRESUMED: FIPS
180-4, FIPS 197, SP 800-38D, FIPS 186, RFC 5869. -/

namespace Sys2Proof.Machine

/-- Big-endian reading of bytes. -/
def beNat (l : List Byte) : Nat := l.foldl (fun n b => 256 * n + b.toNat) 0

/-- The `n` big-endian bytes of a number. -/
def toBE (n v : Nat) : List Byte := (toLE n v).reverse

/-! ### SHA-384 -/

/-- The 80 round constants, in five parts (FIPS 180-4). -/
def shaK0 : List Nat :=
  [0x428A2F98D728AE22, 0x7137449123EF65CD, 0xB5C0FBCFEC4D3B2F, 0xE9B5DBA58189DBBC,
   0x3956C25BF348B538, 0x59F111F1B605D019, 0x923F82A4AF194F9B, 0xAB1C5ED5DA6D8118,
   0xD807AA98A3030242, 0x12835B0145706FBE, 0x243185BE4EE4B28C, 0x550C7DC3D5FFB4E2,
   0x72BE5D74F27B896F, 0x80DEB1FE3B1696B1, 0x9BDC06A725C71235, 0xC19BF174CF692694]

/-- Part 2. -/
def shaK1 : List Nat :=
  [0xE49B69C19EF14AD2, 0xEFBE4786384F25E3, 0x0FC19DC68B8CD5B5, 0x240CA1CC77AC9C65,
   0x2DE92C6F592B0275, 0x4A7484AA6EA6E483, 0x5CB0A9DCBD41FBD4, 0x76F988DA831153B5,
   0x983E5152EE66DFAB, 0xA831C66D2DB43210, 0xB00327C898FB213F, 0xBF597FC7BEEF0EE4,
   0xC6E00BF33DA88FC2, 0xD5A79147930AA725, 0x06CA6351E003826F, 0x142929670A0E6E70]

/-- Part 3. -/
def shaK2 : List Nat :=
  [0x27B70A8546D22FFC, 0x2E1B21385C26C926, 0x4D2C6DFC5AC42AED, 0x53380D139D95B3DF,
   0x650A73548BAF63DE, 0x766A0ABB3C77B2A8, 0x81C2C92E47EDAEE6, 0x92722C851482353B,
   0xA2BFE8A14CF10364, 0xA81A664BBC423001, 0xC24B8B70D0F89791, 0xC76C51A30654BE30,
   0xD192E819D6EF5218, 0xD69906245565A910, 0xF40E35855771202A, 0x106AA07032BBD1B8]

/-- Part 4. -/
def shaK3 : List Nat :=
  [0x19A4C116B8D2D0C8, 0x1E376C085141AB53, 0x2748774CDF8EEB99, 0x34B0BCB5E19B48A8,
   0x391C0CB3C5C95A63, 0x4ED8AA4AE3418ACB, 0x5B9CCA4F7763E373, 0x682E6FF3D6B2B8A3,
   0x748F82EE5DEFB2FC, 0x78A5636F43172F60, 0x84C87814A1F0AB72, 0x8CC702081A6439EC,
   0x90BEFFFA23631E28, 0xA4506CEBDE82BDE9, 0xBEF9A3F7B2C67915, 0xC67178F2E372532B]

/-- Part 5. -/
def shaK4 : List Nat :=
  [0xCA273ECEEA26619C, 0xD186B8C721C0C207, 0xEADA7DD6CDE0EB1E, 0xF57D4F7FEE6ED178,
   0x06F067AA72176FBA, 0x0A637DC5A2C898A6, 0x113F9804BEF90DAE, 0x1B710B35131C471B,
   0x28DB77F523047D84, 0x32CAAB7B40C72493, 0x3C9EBE0A15C9BEBC, 0x431D67C49C100D4C,
   0x4CC5D4BECB3E42B6, 0x597F299CFC657E2A, 0x5FCB6FAB3AD6FAEC, 0x6C44198C4A475817]

/-- Rotation to the right in a 64-bit word. -/
def rotr64 (k x : Nat) : Nat := (x >>> k) ||| ((x <<< (64 - k)) % 2 ^ 64)

def shaCh (e f g : Nat) : Nat := (e &&& f) ^^^ ((2 ^ 64 - 1 - e) &&& g)

def shaMaj (a b c : Nat) : Nat := (a &&& b) ^^^ (a &&& c) ^^^ (b &&& c)

/-- One round: the 16 words of the schedule in hand, and the working variables. -/
def shaRound (z : List Nat × List Nat) (k : Nat) : List Nat × List Nat :=
  match z with
  | (w, [a, b, c, d, e, f, g, h]) =>
    let w0 := w.headD 0
    let w1 := w.getD 1 0
    let w14 := w.getD 14 0
    let n := (w0 + (rotr64 1 w1 ^^^ rotr64 8 w1 ^^^ (w1 >>> 7)) + w.getD 9 0
      + (rotr64 19 w14 ^^^ rotr64 61 w14 ^^^ (w14 >>> 6))) % 2 ^ 64
    let t1 := h + (rotr64 14 e ^^^ rotr64 18 e ^^^ rotr64 41 e) + shaCh e f g + k + w0
    let t2 := (rotr64 28 a ^^^ rotr64 34 a ^^^ rotr64 39 a) + shaMaj a b c
    (w.drop 1 ++ [n], [(t1 + t2) % 2 ^ 64, a, b, c, (d + t1) % 2 ^ 64, e, f, g])
  | z => z

/-- One block of 16 words. -/
def shaBlock (h w : List Nat) : List Nat :=
  let r := (shaK0 ++ shaK1 ++ shaK2 ++ shaK3 ++ shaK4).foldl shaRound (w, h)
  List.zipWith (fun a b => (a + b) % 2 ^ 64) h r.2

/-- The big-endian 64-bit words of whole blocks. -/
def beWords : Nat → List Byte → List Nat
  | 0, _ => []
  | n + 1, l => beNat (l.take 8) :: beWords n (l.drop 8)

/-- `n` blocks of words through the compression. -/
def shaBlocks : Nat → List Nat → List Nat → List Nat
  | 0, h, _ => h
  | n + 1, h, w => shaBlocks n (shaBlock h (w.take 16)) (w.drop 16)

/-- SHA-384 of bytes: 48 bytes. -/
@[irreducible] def sha384 (l : List Byte) : List Byte :=
  let n := (l.length + 17 + 127) / 128
  let m := l ++ [0x80] ++ List.replicate (128 * n - 17 - l.length) 0 ++ toBE 16 (8 * l.length)
  let h := shaBlocks n [0xCBBB9D5DC1059ED8, 0x629A292A367CD507, 0x9159015A3070DD17, 0x152FECD8F70E5939,
    0x67332667FFC00B31, 0x8EB44A8768581511, 0xDB0C2E0D64F98FA7, 0x47B5481DBEFA4FA4] (beWords (16 * n) m)
  (h.take 6).flatMap (toBE 8)

/-- HMAC-SHA-384: key blocks of 128 bytes. -/
def hmac384 (key msg : List Byte) : List Byte :=
  let k := ((if 128 < key.length then sha384 key else key) ++ List.replicate 128 0).take 128
  sha384 (k.map (· ^^^ 0x5C) ++ sha384 (k.map (· ^^^ 0x36) ++ msg))

/-- 64 bytes of HKDF-SHA-384: extract, then two blocks of expand. -/
def hkdf384 (ikm salt info : List Byte) : List Byte :=
  let prk := hmac384 salt ikm
  let t1 := hmac384 prk (info ++ [1])
  (t1 ++ hmac384 prk (t1 ++ info ++ [2])).take 64

/-! ### AES-256-GCM -/

/-- The S-box, 16 bytes to a number, the first least significant. -/
def aesRows : List Nat :=
  [0x76ABD7FE2B670130C56F6BF27B777C63, 0xC072A49CAFA2D4ADF04759FA7DC982CA,
   0x1531D871F1E5A534CCF73F362693FDB7, 0x75B227EBE28012079A059618C323C704,
   0x842FE329B3D63B52A05A6E1B1A2C8309, 0xCF584C4A39BECB6A5BB1FC20ED00D153,
   0xA89F3C507F02F94585334D43FBAAEFD0, 0xD2F3FF1021DAB6BCF5389D928F40A351,
   0x73195D643D7EA7C41744975FEC130CCD, 0xDB0B5EDE14B8EE4688902A22DC4F8160,
   0x79E4959162ACD3C25C2406490A3A32E0, 0x08AE7A65EAF4566CA94ED58D6D37C8E7,
   0x8A8BBD4B1F74DDE8C6B4A61C2E2578BA, 0x9E1DC186B95735610EF6034866B53E70,
   0xDF2855CEE9871E9B948ED9691198F8E1, 0x16BB54B00F2D99416842E6BF0D89A18C]

def aesSub (b : Nat) : Nat := bits (aesRows.getD (b / 16) 0) (8 * (b % 16)) 8

/-- The S-box on each byte of a 32-bit word. -/
def aesSubWord (w : Nat) : Nat :=
  aesSub (bits w 0 8) + aesSub (bits w 8 8) * 2 ^ 8 + aesSub (bits w 16 8) * 2 ^ 16 + aesSub (bits w 24 8) * 2 ^ 24

/-- The next word of the key schedule, the `i`-th; the schedule so far stands newest first. -/
def aesKeyWord (l : List Nat) (i : Nat) : List Nat :=
  let t := l.headD 0
  let t := if i % 8 = 0 then aesSubWord ((t <<< 8) % 2 ^ 32 ||| (t >>> 24)) ^^^ (2 ^ (i / 8 - 1) <<< 24)
    else if i % 8 = 4 then aesSubWord t else t
  (l.getD 7 0 ^^^ t) :: l

/-- The 15 round keys of 128 bits. -/
def aesKeys (key : List Byte) : List Nat :=
  let l := ((List.range 52).map (· + 8)).foldl aesKeyWord
    ((List.range 8).map (fun i => beNat ((key.drop (4 * i)).take 4))).reverse
  let w := l.reverse
  (List.range 15).map (fun r => (w.drop (4 * r)).take 4 |>.foldl (fun n x => n <<< 32 ||| x) 0)

/-- Byte `i` of a 128-bit block, the first most significant. -/
def blkByte (v i : Nat) : Nat := bits v (8 * (15 - i)) 8

/-- A block of 16 bytes. -/
def ofBytes (l : List Nat) : Nat := l.foldl (fun n b => n <<< 8 ||| b) 0

/-- SubBytes and ShiftRows. -/
def aesShift (v : Nat) : List Nat :=
  (List.range 16).map (fun i => aesSub (blkByte v ((i + 4 * (i % 4)) % 16)))

/-- Multiplication by x in AES's field. -/
def aesX2 (b : Nat) : Nat := if b < 128 then 2 * b else (2 * b - 256) ^^^ 0x1B

/-- MixColumns. -/
def aesMix : List Nat → List Nat
  | a :: b :: c :: d :: t =>
    let s := a ^^^ b ^^^ c ^^^ d
    (a ^^^ s ^^^ aesX2 (a ^^^ b)) :: (b ^^^ s ^^^ aesX2 (b ^^^ c)) :: (c ^^^ s ^^^ aesX2 (c ^^^ d))
      :: (d ^^^ s ^^^ aesX2 (d ^^^ a)) :: aesMix t
  | l => l

/-- The rounds over a block under the round keys that remain. -/
def aesRounds : Nat → List Nat → Nat
  | v, [] => v
  | v, [k] => ofBytes (aesShift v) ^^^ k
  | v, k :: ks => aesRounds (ofBytes (aesMix (aesShift v)) ^^^ k) ks

/-- AES of a block under round keys. -/
def aesBlock (ks : List Nat) (v : Nat) : Nat := aesRounds (v ^^^ ks.headD 0) (ks.drop 1)

/-- Multiplication in GCM's field: bits of `x` from the first, the most significant, on. -/
def gcmMul : Nat → Nat → Nat → Nat → Nat
  | 0, _, _, z => z
  | n + 1, x, v, z =>
    gcmMul n x (if v.testBit 0 then (v >>> 1) ^^^ (0xE1 <<< 120) else v >>> 1) (if x.testBit n then z ^^^ v else z)

/-- The blocks of bytes, the last padded with zeros. -/
def gcmBlocks : Nat → List Byte → List Nat
  | 0, _ => []
  | n + 1, l => beNat ((l ++ List.replicate 16 0).take 16) :: gcmBlocks n (l.drop 16)

/-- The blocks of a byte string. -/
def blocksOf (l : List Byte) : List Nat := gcmBlocks ((l.length + 15) / 16) l

/-- GHASH under the hash key. -/
def ghash (h : Nat) (l : List Nat) : Nat := l.foldl (fun y x => gcmMul 128 (y ^^^ x) h 0) 0

/-- AES-256-GCM with a 96-bit IV: the ciphertext, then the 16 bytes of the tag (R494). -/
@[irreducible] def gcmSeal (key iv aad plain : List Byte) : List Byte :=
  let ks := aesKeys key
  let j0 := beNat iv <<< 32 ||| 1
  let n := (plain.length + 15) / 16
  let stream := ((List.range n).map (fun i => aesBlock ks (j0 + 1 + i))).flatMap (toBE 16)
  let c := List.zipWith (· ^^^ ·) plain stream
  let h := aesBlock ks 0
  let y := ghash h (blocksOf aad ++ blocksOf c ++ [(8 * aad.length) <<< 64 ||| 8 * c.length])
  c ++ toBE 16 (y ^^^ aesBlock ks j0)

/-! ### P-384 -/

/-- The field's prime. -/
def p384 : Nat := 2 ^ 384 - 2 ^ 128 - 2 ^ 96 + 2 ^ 32 - 1

/-- The curve's b: y^2 = x^3 - 3 x + b. -/
def p384b : Nat :=
  0xB3312FA7E23EE7E4988E056BE3F82D19181D9C6EFE8141120314088F5013875AC656398D8A2ED19D2A85C8EDD3EC2AEF

/-- The generator. -/
def p384g : Nat × Nat :=
  (0xAA87CA22BE8B05378EB1C71EF320AD746E1D3B628BA79B9859F741E082542A385502F25DBF55296C3A545E3872760AB7,
   0x3617DE4A96262C6F5D9E98BF9292DC29F8F41DBD289A147CE9DA3113B5F0B8C00A60B1CE1D7E819D7A431D7C90EA0E5F)

/-- A point in Jacobian coordinates; z = 0 at infinity. -/
structure Jac where
  x : Nat
  y : Nat
  z : Nat

/-- A difference in the field. -/
def fSub (a b : Nat) : Nat := (a + p384 - b % p384) % p384

/-- Twice a point. -/
def Jac.double (a : Jac) : Jac :=
  let d := a.z * a.z % p384
  let g := a.y * a.y % p384
  let b := a.x * g % p384
  let m := 3 * fSub a.x d * (a.x + d) % p384
  let x := fSub (m * m) (8 * b)
  ⟨x, fSub (m * fSub (4 * b) x) (8 * g * g), 2 * a.y * a.z % p384⟩

/-- A point plus an affine one. -/
def Jac.add (a : Jac) (q : Nat × Nat) : Jac :=
  if a.z = 0 then ⟨q.1, q.2, 1⟩
  else
    let zz := a.z * a.z % p384
    let h := fSub (q.1 * zz) a.x
    let r := fSub (q.2 * zz % p384 * a.z) a.y
    if h = 0 then (if r = 0 then a.double else ⟨1, 1, 0⟩)
    else
      let hh := h * h % p384
      let v := a.x * hh % p384
      let hhh := h * hh % p384
      let x := fSub (r * r) (hhh + 2 * v)
      ⟨x, fSub (r * fSub v x) (a.y * hhh), a.z * h % p384⟩

/-- The low `n` bits of a scalar times an affine point, from the most significant on, added to twice over what has
been reached. -/
def Jac.times (k : Nat) (q : Nat × Nat) : Nat → Jac → Jac
  | 0, a => a
  | n + 1, a => Jac.times k q n (if k.testBit n then a.double.add q else a.double)

/-- `x ^ k` modulo `m`, over the low `n` bits of the exponent, after what has been reached. -/
def modPow (m x k : Nat) : Nat → Nat → Nat
  | 0, r => r
  | n + 1, r => modPow m x k n (if k.testBit n then r * r % m * x % m else r * r % m)

/-- An inverse modulo a prime of 384 bits. -/
def modInv (m x : Nat) : Nat := modPow m (x % m) (m - 2) 384 1

/-- A point in affine coordinates. -/
def Jac.affine (a : Jac) : Nat × Nat :=
  let i := modInv p384 a.z
  let ii := i * i % p384
  (a.x * ii % p384, a.y * ii % p384 * i % p384)

/-- A scalar times a point, in Jacobian coordinates. -/
def jacMul (k : Nat) (q : Nat × Nat) : Jac := Jac.times k q 384 ⟨1, 1, 0⟩

/-- A scalar times a point: affine. -/
@[irreducible] def p384Mul (k : Nat) (q : Nat × Nat) : Nat × Nat := (jacMul k q).affine

/-- The coordinates of a 97-byte uncompressed point (R497). -/
def pointOf (l : List Byte) : Nat × Nat := (beNat ((l.drop 1).take 48), beNat ((l.drop 49).take 48))

/-- The 97 bytes of a point. -/
def pointBytes (q : Nat × Nat) : List Byte := 4 :: (toBE 48 q.1 ++ toBE 48 q.2)

/-- The bytes are the uncompressed encoding of a point on the curve (R500 reason 7). -/
def onCurve (l : List Byte) : Bool :=
  let q := pointOf l
  l.length == 97 && l.head? == some 4 && decide (q.1 < p384) && decide (q.2 < p384)
    && (q.2 * q.2 % p384 == (q.1 * q.1 * q.1 + p384b + 3 * (p384 - q.1)) % p384)

/-! ### ECDSA with P-384 and SHA-384 -/

/-- The order of P-384. -/
def p384n : Nat :=
  0xFFFFFFFFFFFFFFFFFFFFFFFFFFFFFFFFFFFFFFFFFFFFFFFFC7634D81F4372DDF581A0DB248B0A77AECEC196ACCC52973

/-- The signature, r then s, verifies for a hash under a public point (R497, R584). -/
@[irreducible] def ecdsaVerify (pub hash sig : List Byte) : Bool :=
  let r := beNat (sig.take 48)
  let s := beNat ((sig.drop 48).take 48)
  let w := modInv p384n s
  let a := jacMul (beNat hash * w % p384n) p384g
  let b := jacMul (r * w % p384n) (pointOf pub)
  let c := if b.z = 0 then a else a.add b.affine
  onCurve pub && sig.length == 96 && decide (0 < r) && decide (r < p384n) && decide (0 < s) && decide (s < p384n)
    && c.z != 0 && c.affine.1 % p384n == r

/-- The per-signature nonce of RFC 6979 with SHA-384 (R591): the first V from 1 to n - 1, of at most `fuel` + 1. -/
def rfc6979 : Nat → List Byte → List Byte → Nat
  | 0, k, v => beNat (hmac384 k v)
  | fuel + 1, k, v =>
    let v := hmac384 k v
    if 0 < beNat v ∧ beNat v < p384n then beNat v
    else
      let k := hmac384 k (v ++ [0])
      rfc6979 fuel k (hmac384 k v)

/-- The nonce for a private scalar and a hash. -/
def sigNonce (scalar hash : List Byte) : Nat :=
  let x := scalar ++ toBE 48 (beNat hash % p384n)
  let v := List.replicate 48 1
  let k := hmac384 (List.replicate 48 0) (v ++ [0] ++ x)
  let v := hmac384 k v
  let k := hmac384 k (v ++ [1] ++ x)
  rfc6979 8 k (hmac384 k v)

/-- The signature of a hash under a private scalar: r then s (R591). -/
@[irreducible] def ecdsaSign (scalar hash : List Byte) : List Byte :=
  let k := sigNonce scalar hash
  let r := (p384Mul k p384g).1 % p384n
  toBE 48 r ++ toBE 48 (modInv p384n k * (beNat hash + r * beNat scalar) % p384n)

end Sys2Proof.Machine
end

