-- ==== Sys2Proof/Machine/Flags.lean ====
section
/-! DEFINITION. Event flags and what follows a raise (chapter 05): RAW bits, the log queue, notices;
the fault line (R187, R188) and the busy bits of the NV operations (R70). -/

namespace Sys2Proof.Machine

/-! ### Raises -/

/-- Whether an event's RAW bit is 1. -/
def rawSet (s : State) (id : Nat) : Bool := bit (rd s (Reg.HDR.PG_EVT_RAW_RAW (id / 32))) (id % 32)

/-- Set an event's RAW bit. -/
def setRaw (s : State) (id : Nat) : State :=
  wr s (Reg.HDR.PG_EVT_RAW_RAW (id / 32))
    (setBit (rd s (Reg.HDR.PG_EVT_RAW_RAW (id / 32))) (id % 32))

/-- Logging runs: EN is 1 in effect and HALT is 0 (R179). -/
def logRuns (s : State) : Bool := rdb s Reg.EVT1.LOG_CTL_EN && !rdb s Reg.EVT1.LOG_STAT_HALT

/-- Insert a raise in the order of R179: by cycle, then by identifier within one cycle. -/
def insertEntry (e : LogEntry) : List LogEntry → List LogEntry
  | [] => [e]
  | a :: t => if e.cycle < a.cycle ∨ (e.cycle = a.cycle ∧ e.id < a.id) then e :: a :: t
              else a :: insertEntry e t

/-- Insert a notice in the order of R179 (R185). -/
def insertNotice (e : Notice) : List Notice → List Notice
  | [] => [e]
  | a :: t => if e.cycle < a.cycle ∨ (e.cycle = a.cycle ∧ e.id < a.id) then e :: a :: t
              else a :: insertNotice e t

/-- Count a dropped raise (R181). -/
def countDrop (s : State) : State :=
  bump (bump s Reg.EVT1.LOG_DROP_COUNT 1) Reg.EVT1.LOG_STAT_GAP 1

/-- Offer a raise to the log: queue it, or count it as dropped; answers the log sequence number its
notices carry for now (none: known when the entry is written) and whether LOG_FULL is raised. -/
def logRaise (s : State) (id : Nat) : State × Option Nat × Bool :=
  if logRuns s = false then (s, some 0xFFFFFFFF, false)
  else if 1024 ≤ s.evt.logQ.length then (countDrop s, some 0xFFFFFFFF, true)
  else
    (s.onEvt fun v => { v with logQ := insertEntry ⟨v.serial, id, s.time.cycle, nowNs s,
        fracOf s.time.units, rd s Reg.TIME.STAT_TRUST⟩ v.logQ }, none, false)

/-- Queue the notice of a raise for one session, or drop it (R184, R185); answers whether SUB_DROP is
raised. -/
def noticeFor (s : State) (id : Nat) (lg : Option Nat) (k : Nat) : State × Bool :=
  if bit (rd s (Reg.EVT2.SUBS_PAGES k (id / 32 / 32))) (id / 32 % 32) = false
    ∨ bit (rd s (Reg.HDR.PG_EVT_EN_EN (id / 32))) (id % 32) = false then (s, false)
  else if 64 ≤ (vget s.evt.notices [] k).length then
    (bump (s.onEvt fun v => { v with dropSince := vset v.dropSince k (vget v.dropSince 0 k + 1) })
      (Reg.EVT2.SUB_STAT_DROP k) 1, true)
  else
    let n : Notice := ⟨s.evt.serial, s.time.cycle, id, nowNs s, fracOf s.time.units,
      rd s Reg.TIME.STAT_TRUST, lg⟩
    (s.onEvt fun v => { v with notices := vset v.notices k (insertNotice n (vget v.notices [] k)) },
      false)

/-- The notices of a raise, session by session; answers whether SUB_DROP is raised. -/
def noticesFor (id : Nat) (lg : Option Nat) : List Nat → State × Bool → State × Bool
  | [], r => r
  | k :: t, (s, d) =>
    let r := noticeFor s id lg k
    noticesFor id lg t (r.1, d || r.2)

/-- Raise an event: nothing if its RAW bit is 1 already (R175); else the bit, the log and the notices,
and then LOG_FULL and SUB_DROP where they arise (R181, R185). `fuel` bounds that chain, which is at
most three raises long since a bit that is 1 raises nothing. -/
def raiseN : Nat → State → Nat → State
  | 0, s, _ => s
  | fuel + 1, s, id =>
    if rawSet s id then s
    else
      let s := setRaw s id
      let l := logRaise s id
      let n := noticesFor id l.2.1 (List.range 8) (l.1, false)
      let s := n.1.onEvt fun v => { v with serial := v.serial + 1 }
      let s := if l.2.2 then raiseN fuel s Reg.EVT0.evLOG_FULL else s
      if n.2 then raiseN fuel s Reg.EVT0.evSUB_DROP else s

/-- Raise an event (R175). -/
def raise (s : State) (id : Nat) : State := raiseN 4 s id

/-- Raise an event if a condition holds. -/
def raiseIf (c : Bool) (s : State) (id : Nat) : State := if c then raise s id else s

/-- Raise several events in turn. -/
def raiseAll (s : State) : List Nat → State
  | [] => s
  | id :: t => raiseAll (raise s id) t

/-- The summary of a page: RAW AND EN (R160). -/
def evtSum (s : State) (pg : Nat) : Nat :=
  rd s (Reg.HDR.PG_EVT_RAW_RAW pg) &&& rd s (Reg.HDR.PG_EVT_EN_EN pg)

/-- EVT[0].GSUM[w] (R177). -/
def gsum (s : State) (w : Nat) : Nat :=
  listMask ((List.range 32).filter (fun b => (kindOf (32 * w + b)).isSome && evtSum s (32 * w + b) != 0))

/-- EVT_N is pulled low (R189), unless R49 or R146 releases it. -/
def evtNLow (s : State) : Bool :=
  s.pwr.goodSeen && s.pwr.resetN && s.bus.accepting
    && (List.range 32).any (fun w => gsum s w &&& rd s (Reg.EVT2.PIN_MASK_PAGES w) != 0)

/-! ### The fault line -/

/-- The level of a signal land: high impedance, low or high (R48, R49). -/
inductive Level | z | low | high
deriving DecidableEq, Repr

/-- The causes that FAULT_NOW shows, as a word (R188, R191). -/
def faultNow (s : State) : Nat :=
  listMask ((List.range 16).filter (fun p => rd s (Reg.PORT.SQ_NOW_CAUSE p) != 0))
    + b2n (!rdb s Reg.EVT2.FAULT_CTL_ARM) * 2 ^ 16
    + b2n (rdb s Reg.CLK.MON_STAT_SQUELCH) * 2 ^ 17
    + b2n s.pwr.therm * 2 ^ 18
    + b2n (rd s Reg.PWR.RAIL_STAT_FAULTED != 0) * 2 ^ 19

/-- Some condition of R187 holds FAULT_N low. -/
def faultWanted (s : State) : Bool :=
  !s.pwr.goodSeen || !s.pwr.resetN || !s.bus.accepting
    || (faultNow s / 2 ^ 16 != 0)
    || (faultNow s % 2 ^ 16 &&& rd s Reg.EVT2.FAULT_CTL_PORT_EN != 0)

/-- FAULT_NOW shows the causes in effect (R188, R191), from the first time the ports' fault lines are followed
after a reset (DEDUCED, log entry 30). -/
def showFault (s : State) : State :=
  let n := faultNow s
  wrAll s [(Reg.EVT2.FAULT_NOW_PORT, n), (Reg.EVT2.FAULT_NOW_DISARMED, n / 2 ^ 16),
    (Reg.EVT2.FAULT_NOW_CLOCK, n / 2 ^ 17), (Reg.EVT2.FAULT_NOW_THERM, n / 2 ^ 18), (Reg.EVT2.FAULT_NOW_RAIL, n / 2 ^ 19)]

/-- Follow the causes of the fault line: FAULT_NOW shows them, FAULT_STAT keeps each, and FAULT_N falls at the
first, raising FAULT_ASSERT (R187, R188). -/
def updateFault (s : State) : State :=
  let s := showFault (wr s Reg.EVT2.FAULT_STAT_SEEN (rd s Reg.EVT2.FAULT_STAT_SEEN ||| faultNow s))
  if faultWanted s && !s.evt.faultLow then
    raise (s.onEvt fun v => { v with faultLow := true, fallAt := s.time.uptime })
      Reg.EVT0.evFAULT_ASSERT
  else s

/-! ### NV operations in progress -/

/-- PWR.FENCE_STAT's busy bits from the operations in progress (R70). -/
def nvBusy (s : State) : State :=
  wrb (wrb (wrb s Reg.PWR.FENCE_STAT_OTP_BUSY (s.otp.op.isSome || s.sec.drawn.isSome))
    Reg.PWR.FENCE_STAT_KEY_BUSY s.sec.prov) Reg.PWR.FENCE_STAT_FLASH_BUSY s.spf.op.isSome

/-- Microseconds since an uptime. -/
def usSince (s : State) (t : Nat) : Nat := (s.time.uptime - t) / 36000

/-- Remaining worst-case microseconds of an OTP generation write of `n` data words that began at
uptime `t` (R62, R575): 100 us per word not yet written, plus 200 us for the seal. -/
def otpRemaining (s : State) (n t : Nat) : Nat :=
  100 * (n + 1 - min (n + 1) (usSince s t / 100)) + 200

/-- The decision of R62 for an operation with a remaining time, unless it is decided already (R64). -/
def decide1 (s : State) (d : NvDecision) (remUs : Nat) : NvDecision :=
  if d = .none then
    (if remUs ≤ 1000 * rd s Reg.PWR.HOLDUP_BUDGET_MS then .complete else .abandon)
  else d

/-- Remaining worst-case microseconds of a flash operation (R62, R552). -/
def flashRemaining (s : State) (o : FlashOp) : Nat :=
  (match o.kind with
   | .program _ => rd s Reg.SPF.TIMES_PROG_US
   | .erase _ size =>
     1000 * s.spf.eraseMs.getD (if size = 2 ^ rd s Reg.SPF.GEOM_E1_LOG2 then 0
       else if size = 2 ^ rd s Reg.SPF.GEOM_E2_LOG2 then 1
       else if size = 2 ^ rd s Reg.SPF.GEOM_E3_LOG2 then 2 else 3) 0) - usSince s o.start

/-- Decide once for each NV operation in progress (R62). -/
def nvDecide (s : State) : State :=
  let s := match s.otp.op with
    | none => s
    | some o => s.onOtp fun v =>
        { v with op := some { o with dec := decide1 s o.dec (otpRemaining s o.data.length o.start) } }
  let s := if s.sec.prov then
      s.onSec fun v => { v with provDec := decide1 s v.provDec (match v.drawn with
        | none => 20000 + 1500
        | some _ => otpRemaining s 12 v.provAt) }
    else s
  match s.spf.op with
  | none => s
  | some o => s.onSpf fun v => { v with op := some { o with dec := decide1 s o.dec (flashRemaining s o) } }

end Sys2Proof.Machine
end

