-- ==== Sys2Proof/Machine/Squelch.lean ====
section
/-! DEFINITION. What the state of a port follows from (chapters 06 and 08): the squelch causes of
R213, the port restart of R214 to R216, and the equaliser's coefficient banks and its states OFF, IDLE
and FREQ as far as they follow from other blocks (R273 to R275, R279, R289, R290). -/

namespace Sys2Proof.Machine

/-! ### Running blocks -/

/-- Domain `d` delivers edges: its source is not stopped, or it is switching (R636, R83). -/
def domRunning (s : State) (d : Nat) : Bool := vget s.clk.cur .stopped d != Source.stopped

/-- Domain `d` is switching (R82). -/
def domBusy (s : State) (d : Nat) : Bool := bit (rd s Reg.CLK.DOM_STAT_BUSY) d

/-- Domain `d` keeps its old source until the root loop locks or coasts, or until CLKIN is back (R85). -/
def domWaits (s : State) (d : Nat) : Bool :=
  match vget s.clk.next none d with
  | some (.root _) => rd s Reg.CLK.ROOT_STAT_STATE == 1
  | some (.bypass _) => rdb s Reg.CLK.MON_STAT_LOST
  | _ => false

/-- Domain `d` is switching and delivers no edges (R82, R83): it is between steps 2 and 5, or waits under R85
with its old source stopped. -/
def domSwitching (s : State) (d : Nat) : Bool := domBusy s d && !(domWaits s d && domRunning s d)

/-- The pages of the traffic machine's blocks: PORT, CNV, EQ, SOFT, TSTAT and the traffic herds (chapter 01, the
traffic path; log entry 53). -/
def trafficPage (pg : Nat) : Bool := (16 ≤ pg && pg < 32) || (32 ≤ pg && pg < 144) || (224 ≤ pg && pg < 240)

/-- The block of page `pg` runs: its gate is open, its domain delivers edges, and no THERM_CRIT has stopped
the traffic machine it belongs to (R68). -/
def blockRuns (s : State) (pg : Nat) : Bool :=
  !rdb s (Reg.HDR.PG_STAT_GATED pg) && !(s.pwr.therm && trafficPage pg) &&
    (match kindOf pg with
     | none => false
     | some (k, _) => domRunning s (domOf k) && !domSwitching s (domOf k))

/-- A block is gated, or treated as gated since its domain is stopped and not switching (R636). -/
def treatedGated (s : State) (pg : Nat) : Bool :=
  rdb s (Reg.HDR.PG_STAT_GATED pg) ||
    (match kindOf pg with
     | none => false
     | some (k, _) => !domRunning s (domOf k) && !domBusy s (domOf k))

/-! ### Equaliser banks -/

/-- The CD bank in use, and the standby one (R279). -/
def cdUse (s : State) (p : Nat) : CdBank :=
  if rdb s (Reg.EQ.STAT_CD_BANK p) then (s.eq p).cdB else (s.eq p).cdA

def cdStandby (s : State) (p : Nat) : CdBank :=
  if rdb s (Reg.EQ.STAT_CD_BANK p) then (s.eq p).cdA else (s.eq p).cdB

/-- The BF bank in use, and the standby one (R279). -/
def bfUse (s : State) (p : Nat) : BfBank :=
  if rdb s (Reg.EQ.STAT_BF_BANK p) then (s.eq p).bfB else (s.eq p).bfA

def bfStandby (s : State) (p : Nat) : BfBank :=
  if rdb s (Reg.EQ.STAT_BF_BANK p) then (s.eq p).bfA else (s.eq p).bfB

/-- Set CD bank A (`b` false) or B, with the register that shows its D. -/
def setCd (s : State) (p : Nat) (b : Bool) (k : CdBank) : State :=
  if b then wr (s.onEq p fun e => { e with cdB := k }) (Reg.EQ.CD_BANK_B_PSNM p) (unsext 22 k.d)
  else wr (s.onEq p fun e => { e with cdA := k }) (Reg.EQ.CD_BANK_A_PSNM p) (unsext 22 k.d)

/-- Set BF bank A (`b` false) or B. -/
def setBf (s : State) (p : Nat) (b : Bool) (k : BfBank) : State :=
  if b then s.onEq p fun e => { e with bfB := k } else s.onEq p fun e => { e with bfA := k }

/-- BF_STAT.STANDBY_EMPTY follows the standby bank (R283). -/
def bfEmptyFlag (s : State) (p : Nat) : State :=
  wrb s (Reg.EQ.BF_STAT_STANDBY_EMPTY p) (bfStandby s p).empty

/-- Exchange the CD banks: the standby bank becomes the bank in use. -/
def swapCd (s : State) (p : Nat) : State :=
  let s := wrb s (Reg.EQ.STAT_CD_BANK p) (!rdb s (Reg.EQ.STAT_CD_BANK p))
  wr s (Reg.EQ.CD_NOW_PSNM p) (unsext 22 (cdUse s p).d)

/-- Exchange the BF banks; a guard window in progress that is undone goes back to the new bank's taps
(R292). -/
def swapBf (s : State) (p : Nat) : State :=
  let s := wrb s (Reg.EQ.STAT_BF_BANK p) (!rdb s (Reg.EQ.STAT_BF_BANK p))
  let w := (bfUse s p).taps
  bfEmptyFlag (s.onEq p fun e => { e with winTaps := w, updQ := [] }) p

/-- The rate by which reach is judged: CNV[4p].RATE_NOW, or RATE.RS_MBD while that is 0 (R264). -/
def eqRate (s : State) (p : Nat) : Nat :=
  if rd s (Reg.CNV.RATE_NOW_RS_MBD (4 * p)) = 0 then rd s (Reg.CNV.RATE_RS_MBD (4 * p))
  else rd s (Reg.CNV.RATE_NOW_RS_MBD (4 * p))

/-- FFT_LOG2 and NTAPS in use (R274). -/
def eqLog2N (s : State) (p : Nat) : Nat := bits (rd s (Reg.EQ.CFG_NOW_CFG p)) 0 5

def eqNtaps (s : State) (p : Nat) : Nat := bits (rd s (Reg.EQ.CFG_NOW_CFG p)) 8 6

/-- The largest |D| in reach (R264): S = |D| k fs^2 / 1,000 with k = lambda^2 / 299,792,458 (lambda in
nm) and fs = 9/8 Rs (GS/s), at most the smaller of 26,000 and N/2 - 1,024; in exact integers. -/
def reachMax (log2n rs lam : Nat) : Nat :=
  min 26000 (2 ^ log2n / 2 - 1024) * (10 ^ 4 * 299792458 * (64 * 10 ^ 6) * 1000) / (lam ^ 2 * 81 * rs ^ 2)

/-- D limited to reach, and whether it was outside (R264). -/
def reachClamp (s : State) (p lam : Nat) (d : Int) : Int × Bool :=
  let m := reachMax (eqLog2N s p) (eqRate s p) lam
  if (m : Int) < d then (m, true) else if d < -(m : Int) then (-(m : Int), true) else (d, false)

/-- CFG, PILOT and PILOT_SEED in effect become those in use; a change of NTAPS sets both BF banks to
initial taps (R274). -/
def takeCfg (s : State) (p : Nat) : State :=
  let old := eqNtaps s p
  let s := wr s (Reg.EQ.CFG_NOW_CFG p)
    (rd s (Reg.EQ.CFG_FFT_LOG2 p) + rd s (Reg.EQ.CFG_NTAPS p) * 2 ^ 8 + rd s (Reg.EQ.CFG_MOD p) * 2 ^ 16
      + rd s (Reg.EQ.CFG_ALG p) * 2 ^ 20 + rd s (Reg.EQ.CFG_SEED_BANK p) * 2 ^ 24)
  let s := wr s (Reg.EQ.PILOT_NOW_PILOT p)
    (rd s (Reg.EQ.PILOT_PER_LOG2 p) + rd s (Reg.EQ.PILOT_AVG p) * 2 ^ 8)
  let s := wr s (Reg.EQ.SEED_NOW_SEED p)
    (rd s (Reg.EQ.PILOT_SEED_SEED_X p) + rd s (Reg.EQ.PILOT_SEED_SEED_Y p) * 2 ^ 16)
  let n := rd s (Reg.EQ.CFG_NTAPS p)
  if n = old then s
  else bfEmptyFlag (setBf (setBf s p false (BfBank.initial n)) p true (BfBank.initial n)) p

/-- The end of a fade: the new bank is in use, counted and raised (R284, R290). -/
def cdFadeDone (s : State) (p : Nat) : State :=
  let s := swapCd (s.onEq p fun e => { e with cdFade := none }) p
  let s := wr (wrb s (Reg.EQ.STAT_CD_FADE p) false) (Reg.EQ.FADE_CD_POS p) 0
  raise (bump s (Reg.EQ.ANN_CNT_DONE p) 1) (Reg.EQ.evCD_FADE_DONE p)

def bfFadeDone (s : State) (p : Nat) : State :=
  let s := swapBf (s.onEq p fun e => { e with bfFade := none, snapWait := false }) p
  let s := wr (wrb s (Reg.EQ.STAT_BF_FADE p) false) (Reg.EQ.FADE_BF_POS p) 0
  raise (bump s (Reg.EQ.ANN_CNT_DONE p) 1) (Reg.EQ.evBF_FADE_DONE p)

/-- Write the standby CD bank with a request's values (R280). -/
def loadStandbyCd (s : State) (p : Nat) (k : CdBank) : State :=
  setCd s p (!rdb s (Reg.EQ.STAT_CD_BANK p)) k

/-- A CD request starts (R284, R289): it writes the standby bank, and then waits for its block
boundary, or in OFF and IDLE swaps at once. -/
def startCd (s : State) (p : Nat) (k : CdBank) : State :=
  let s := loadStandbyCd s p k
  if rd s (Reg.EQ.STAT_STATE p) ≤ 1 then swapCd (s.onEq p fun e => { e with cdReady := false }) p
  else
    let plain : Bool := rd s (Reg.EQ.STAT_STATE p) != 5
    s.onEq p fun e => { e with cdReady := true, cdPlain := plain }

/-- Drop the pending CD request and start it. -/
def startPendCd (s : State) (p : Nat) : State :=
  match (s.eq p).cdPend with
  | none => s
  | some k =>
    startCd (wrb (s.onEq p fun e => { e with cdPend := none }) (Reg.EQ.STAT_CD_PEND p) false) p k

/-- A BF request starts: its load is in progress (R281). -/
def startBf (s : State) (p : Nat) (a : Nat) : State :=
  wrb (s.onEq p fun e => { e with bfLoad := some a }) (Reg.EQ.STAT_BF_FADE p) true

/-- Drop the pending BF request and start its load. -/
def startPendBf (s : State) (p : Nat) : State :=
  match (s.eq p).bfPend with
  | none => s
  | some a =>
    startBf (wrb (s.onEq p fun e => { e with bfPend := none }) (Reg.EQ.STAT_BF_PEND p) false) p a

/-- What leaving TRACK does to fades and requests, once STATE has its new value (R290): a fade
completes at once; a request whose fade has not begun, and a pending one, take effect under R289. -/
def eqLeftTrack (s : State) (p : Nat) : State :=
  let s := if (s.eq p).cdFade.isSome then cdFadeDone s p else s
  let s := if (s.eq p).bfFade.isSome then bfFadeDone s p else s
  let s := if (s.eq p).cdReady then
      (if rd s (Reg.EQ.STAT_STATE p) ≤ 1 then swapCd (s.onEq p fun e => { e with cdReady := false }) p
       else s.onEq p fun e => { e with cdPlain := true })
    else s
  let s := if (s.eq p).bfReady then
      wrb (swapBf (s.onEq p fun e => { e with bfReady := false, snapWait := false }) p) (Reg.EQ.STAT_BF_FADE p) false
    else s
  startPendBf (startPendCd s p) p

/-- Set STATE with what mirrors it: ACQ is 1 exactly in TRACK; leaving TRACK clears the guard and
settles the banks (R273, R290, R294). -/
def eqSetState (s : State) (p v : Nat) : State :=
  let old := rd s (Reg.EQ.STAT_STATE p)
  let s := wrb (wr s (Reg.EQ.STAT_STATE p) v) (Reg.EQ.STAT_ACQ p) (v == 5)
  if old = 5 ∧ v ≠ 5 then
    eqLeftTrack (wrb (s.onEq p fun e => { e with goodWin := 0 }) (Reg.EQ.STAT_GUARD p) false) p
  else if v ≤ 1 ∧ (s.eq p).cdReady = true then
    swapCd (s.onEq p fun e => { e with cdReady := false }) p
  else s

/-- Step 1 of R275: CFG_NOW is taken, the CD bank in use is judged against reach, the taps are set
(`initial`, or as SEED_BANK says), and STATE becomes FREQ. STAT.POL_SWAP and the exchange of the outputs stand until
the next ACQ_DONE (DESIGN CHOICE, log entry 63). -/
def eqStep1 (s : State) (p : Nat) (initial : Bool) : State :=
  let s := takeCfg (eqSetState s p 2) p
  let u := cdUse s p
  let c := reachClamp s p u.lam u.d
  let s := if c.2 then
      raise (wr (setCd s p (rdb s (Reg.EQ.STAT_CD_BANK p)) { u with d := c.1 })
        (Reg.EQ.CD_NOW_PSNM p) (unsext 22 c.1)) (Reg.EQ.evCD_CLAMP p)
    else s
  let s := if initial || !bit (rd s (Reg.EQ.CFG_NOW_CFG p)) 24 then
      setBf s p (rdb s (Reg.EQ.STAT_BF_BANK p)) (BfBank.initial (eqNtaps s p))
    else s
  let up := s.time.uptime
  s.onEq p fun e =>
    { e with acqStart := up, updQ := [], decX := [], decY := [], winX := [], winY := [], tim := ⟨0, none⟩, blkNext := 0 }

/-- IDLE holds: some converter of the port is not ready, or a squelch cause other than FORCE and
RESTART holds (R273). -/
def eqIdleCond (s : State) (p : Nat) : Bool :=
  (List.range 4).any (fun l => !rdb s (Reg.CNV.STAT_RDY (4 * p + l)))
    || clrBit (clrBit (rd s (Reg.PORT.SQ_NOW_CAUSE p)) 1) 4 != 0

/-- STATE follows the page's gate, the converters and the squelch (R273, R275 step 1). -/
def eqFollow (s : State) (p : Nat) : State :=
  let st := rd s (Reg.EQ.STAT_STATE p)
  if treatedGated s (Reg.EQ.page p) then (if st = 0 then s else eqSetState s p 0)
  else if blockRuns s (Reg.EQ.page p) = false then s
  else if eqIdleCond s p then (if st = 1 then s else eqSetState s p 1)
  else if st ≤ 1 then eqStep1 s p false
  else s

/-! ### Port squelch -/

/-- A page of the port's chain is gated, or PORT[p] has been reset and not committed enabled (R93,
R145, cause CONFIG of R213). -/
def configCause (s : State) (p : Nat) : Bool :=
  (s.port p).cfgWait
    || (List.range 4).any (fun l => treatedGated s (Reg.CNV.page (4 * p + l)))
    || treatedGated s (Reg.EQ.page p) || treatedGated s (Reg.SOFT.page p)
    || treatedGated s (Reg.TSTAT.page p) || treatedGated s (Reg.HERD.page p)

/-- The causes of R213 other than RESTART, as a mask. During a device reset the squelch of R146 shows as DEVICE, since
the bus accepts nothing (DESIGN CHOICE, log entry 63). -/
def sqCauses (s : State) (p : Nat) : Nat :=
  b2n (!rdb s (Reg.HDR.PG_CTL_EN (Reg.PORT.page p)))
    + 2 * b2n (rdb s (Reg.PORT.CTL_FORCE_SQ p))
    + 4 * b2n ((s.port p).sig == Det.loss)
    + 8 * b2n ((s.port p).lo == Det.loss)
    + 32 * b2n (configCause s p)
    + 64 * b2n (domBusy s 0 || domBusy s 1 || domBusy s 3 || rdb s Reg.CLK.MON_STAT_SQUELCH)
    + 128 * b2n ((List.range 4).any (fun l =>
        rd s (Reg.CNV.STAT_STATE (4 * p + l)) == 5 || rd s (Reg.CNV.STAT_STATE (4 * p + l)) == 6))
    + 256 * b2n (rd s Reg.PWR.RAIL_STAT_FAULTED != 0 || s.pwr.therm || !s.bus.accepting)

/-- Write SQ_NOW and what mirrors it; raise SQUELCH_ON with its stamp, or SQUELCH_OFF (R212, R213,
R217); with the squelch the squelch request at SOFT[p] ends (R325). -/
def setSquelch (s : State) (p v : Nat) : State :=
  let old := rd s (Reg.PORT.SQ_NOW_CAUSE p)
  let up := s.time.uptime
  let s := s.onPort p fun t =>
    if t.sqLog.head?.map (·.2) = some (v != 0) then t else { t with sqLog := (up, v != 0) :: t.sqLog }
  let s := wr s (Reg.PORT.SQ_NOW_CAUSE p) v
  let s := wr s (Reg.PORT.SQ_SEEN_CAUSE p) (rd s (Reg.PORT.SQ_SEEN_CAUSE p) ||| v)
  let s := wrb (wrb s (Reg.PORT.STAT_CARRY p) (v == 0)) (Reg.PORT.STAT_RESTARTING p) (bit v 4)
  if old = 0 ∧ v ≠ 0 then
    raise (wr (wr s (Reg.PORT.SQ_TS_LO_NS p) (nowNs s)) (Reg.PORT.SQ_TS_HI_NS p) (nowNs s / 2 ^ 32))
      (Reg.PORT.evSQUELCH_ON p)
  else if old ≠ 0 ∧ v = 0 then
    raise (wrb s (Reg.SOFT.STAT_SQ_IN p) false) (Reg.PORT.evSQUELCH_OFF p)
  else s

/-- A window is in progress: device time has reached its start. -/
def winOn (s : State) : Option Win → Bool
  | none => false
  | some w => w.begun || decide (36 * w.start ≤ s.time.units)

/-- What holds now marks the converter's results of the window in progress (R254): the port squelched, the
converter outside READY, DEGRADED and FG_CAL, and DEGRADED; STRIDE_K is taken at its start (R253). -/
def markCnv (s : State) (c : Nat) : State :=
  if winOn s (s.tstat (c / 4)).win then
    let st := rd s (Reg.CNV.STAT_STATE c)
    let sq : Bool := rd s (Reg.PORT.SQ_NOW_CAUSE (c / 4)) != 0
    let k := rd s (Reg.CNV.HIST_CTL_STRIDE_K c)
    s.onCnv c fun t => { t with winPart := t.winPart || !(st == 3 || st == 4 || st == 7)
                                winDegr := t.winDegr || st == 4, winSq := t.winSq || sq
                                stride := some (t.stride.getD k) }
  else s

/-- What holds now marks the window in progress of port `p`: the squelch, EQ[p] outside TRACK, the guard,
a fade (R335, R336) and a light detector in loss (R333), and its converters' results. -/
def markWindows (s : State) (p : Nat) : State :=
  if winOn s (s.tstat p).win then
    let sq : Bool := rd s (Reg.PORT.SQ_NOW_CAUSE p) != 0
    let nt : Bool := rd s (Reg.EQ.STAT_STATE p) != 5
    let gd := rdb s (Reg.EQ.STAT_GUARD p)
    let fd := (s.eq p).cdFade.isSome || (s.eq p).bfFade.isSome
    let dk := !(rdb s (Reg.PORT.STAT_SIG_OK p) && rdb s (Reg.PORT.STAT_LO_OK p))
    let s := s.onTstat p fun t =>
      { t with sq := t.sq || sq, notrack := t.notrack || nt, guard := t.guard || gd, fade := t.fade || fd
               dark := t.dark || dk }
    markCnv (markCnv (markCnv (markCnv s (4 * p)) (4 * p + 1)) (4 * p + 2)) (4 * p + 3)
  else s

/-- Whether a restart may end: every lane done with its gain, every converter ready, EQ acquired
(R215 steps 2 to 4). -/
def restartReady (s : State) (p : Nat) : Bool :=
  (List.range 4).all (fun l => vget (s.port p).laneDone false l
      && rdb s (Reg.CNV.STAT_RDY (4 * p + l)))
    && rdb s (Reg.EQ.STAT_ACQ p)

/-- With AGC_EN at 0, a lane is done once its gain equals its committed code (R215 step 2). -/
def gainDone (s : State) (p : Nat) : State :=
  if rdb s (Reg.PORT.CTL_AGC_EN p) then s
  else
    let now := rd s (Reg.PORT.TIA_NOW_CODES p)
    let d := #v[bits now 0 8 == rd s (Reg.PORT.TIA_GAIN_XI p), bits now 8 8 == rd s (Reg.PORT.TIA_GAIN_XQ p),
      bits now 16 8 == rd s (Reg.PORT.TIA_GAIN_YI p), bits now 24 8 == rd s (Reg.PORT.TIA_GAIN_YQ p)]
    s.onPort p fun t => { t with laneDone := d }

/-- Step 5 of R215: RESTART clears, RESTART_US is written, RESTART_DONE is raised. -/
def restartEnd (s : State) (p : Nat) : State :=
  let s := wr s (Reg.PORT.RESTART_US_US p) (min (usSince s (s.port p).rstStart) 0xFFFFFFFF)
  setSquelch (raise s (Reg.PORT.evRESTART_DONE p)) p (clrBit (rd s (Reg.PORT.SQ_NOW_CAUSE p)) 4)

/-- SQ_NOW follows its causes (R213); a restart begins when the last cause other than FORCE and
RESTART clears, and is abandoned when one arises (R214, R216). -/
def sqFollow (s : State) (p : Nat) : State :=
  let old := rd s (Reg.PORT.SQ_NOW_CAUSE p)
  let c := sqCauses s p
  let others := clrBit c 1
  let oldOthers := clrBit (clrBit old 1) 4
  if others ≠ 0 then setSquelch s p c
  else if oldOthers ≠ 0 then
    let up := s.time.uptime
    setSquelch (s.onPort p fun t => { t with rstStart := up, laneDone := Vector.replicate 4 false })
      p (setBit c 4)
  else setSquelch s p (putBit c 4 (bit old 4))

/-- NOLOCK_IN of an enabled SOFT[p]: the EQ words, which flow while EQ[p] is not OFF, have NOLOCK at 1 while STATE is
not TRACK (R260, R278, R325; their latency is timing, log entry 11). -/
def nolockFollow (s : State) (p : Nat) : State :=
  let st := rd s (Reg.EQ.STAT_STATE p)
  if rd s (Reg.SOFT.STAT_STATE p) = 0 ∨ st = 0 then s else wrb s (Reg.SOFT.STAT_NOLOCK_IN p) (st != 5)

/-- Bring port `p` to what its causes, converters and equaliser give. -/
def portFollow (s : State) (p : Nat) : State :=
  let s := markWindows (nolockFollow (eqFollow (sqFollow s p) p) p) p
  let s := if bit (rd s (Reg.PORT.SQ_NOW_CAUSE p)) 4 then gainDone s p else s
  if bit (rd s (Reg.PORT.SQ_NOW_CAUSE p)) 4 && restartReady s p then restartEnd s p else s

/-- Bring every port of a list to what its causes give. -/
def portsFollow (s : State) : List Nat → State
  | [] => s
  | p :: t => portsFollow (portFollow s p) t

/-- Every port, then the fault line. -/
def follow (s : State) : State := updateFault (portsFollow s (List.range 16))

/-- One port, then the fault line. -/
def follow1 (s : State) (p : Nat) : State := updateFault (portFollow s p)

end Sys2Proof.Machine
end

