-- ==== Sys2Proof/Machine/Fabric.lean ====
section
/-! DEFINITION. The fabric (chapter 01) and the access tables (chapter 17): which target an address
has, what a table decides, how a denial and a refused access are recorded, and where a completion
goes. -/

namespace Sys2Proof.Machine

/-- `n` zero bytes. -/
def zeros (n : Nat) : List Byte := List.replicate n 0

/-- A request of a master, before it is issued. -/
def mkReq (m addr : Nat) (write fetch : Bool) (size : Nat) (data : List Byte) (poison : Bool) (bads : Nat) : Req :=
  ⟨m, addr, write, fetch, size, data, poison, 0, bads, 0, false, false⟩

/-- A request as it reaches its target's port: with its token, in this FAB cycle. -/
def stamped (s : State) (r : Req) : Req := { r with token := s.bus.token, cycle := s.time.cycle }

/-- A read's or a write's completion with a bus error: zero data for a read (R32). -/
def errC (r : Req) (t : Status) : Completion := ⟨t, if r.write then [] else zeros r.size⟩

/-- The target of an address (R24, R26); none outside the ranges and for an unassigned page. -/
def targetOf (a : Nat) : Option Nat :=
  if a < 0x10000 then some 0
  else if 0x8000000 ≤ a ∧ a < 0x8400000 then some 1
  else if 0x20000000 ≤ a ∧ a < 0x24000000 then some 2
  else if 0x1000000000 ≤ a ∧ a < 0x1200000000 then some 3
  else if 0x1800000 ≤ a ∧ a < 0x1880000 then some 4
  else if 0x1000000 ≤ a ∧ a < 0x1400000 then
    let pg := (a - 0x1000000) / 4096
    if (kindOf pg).isNone then none
    else if pg < 16 then some 5 else if pg < 32 then some 6 else if pg < 96 then some 7
    else if pg < 112 then some 8 else if pg < 128 then some 9 else if pg < 144 then some 10
    else if pg < 168 then some 11 else if pg < 176 then some 12 else if pg < 224 then some 13
    else if pg < 256 then some 14 else if pg < 768 then some 15 else some 16
  else none

/-- The page an address lies in. -/
def pageOf (a : Nat) : Nat := (a - 0x1000000) / 4096

/-- The byte address of a page register (R5). -/
def regAddr (pg off : Nat) : Nat := 0x1000000 + pg * 4096 + off

/-- Region `r` of target `t` is enabled and covers a 4 KiB unit (R596). -/
def rgnCovers (s : State) (t r unit : Nat) : Bool :=
  rdb s (Reg.ACL.RGN_BASE_EN t r) && decide (rd s (Reg.ACL.RGN_BASE_PAGE t r) ≤ unit)
    && decide (unit ≤ rd s (Reg.ACL.RGN_LIMIT_PAGE t r))

/-- The lowest-numbered enabled region that covers a unit (R597). -/
def firstRgn (s : State) (t unit : Nat) : List Nat → Option Nat
  | [] => none
  | r :: l => if rgnCovers s t r unit then some r else firstRgn s t unit l

/-- The rights of master `m` in region `r`: R, W, X as bits 0 to 2 (R596). -/
def rightsIn (s : State) (t r m : Nat) : Nat :=
  if m < 8 then bits (rd s (Reg.ACL.RGN_RT_LO_RIGHTS t r)) (3 * m) 3
  else bits (rd s (Reg.ACL.RGN_RT_HI_RIGHTS t r)) (3 * (m - 8)) 3

/-- The kind of an access in ACL terms: 0 read, 1 write, 2 fetch (R604). -/
def aclKind (r : Req) : Nat := if r.write then 1 else if r.fetch then 2 else 0

/-- Target `t` grants the access (R597); rights of master 15 have no effect (R22, R572). -/
def aclGrants (s : State) (t m addr kind : Nat) : Bool :=
  m < 15 &&
  match firstRgn s t (addr / 4096) (List.range 64) with
  | none => false
  | some r => bit (rightsIn s t r m) kind

/-- Record a denial at target `t` (R601). -/
def denyRecord (s : State) (t : Nat) (m addr kind : Nat) : State :=
  let s := bump s (Reg.ACL.DENY_CNT_COUNT t) 1
  let s := wr (wr (wr s (Reg.ACL.DENY_LAST_MASTER t) m) (Reg.ACL.DENY_LAST_KIND t) kind)
    (Reg.ACL.DENY_LAST_VALID t) 1
  raise (wr s (Reg.ACL.DENY_ADDR_PAGE t) (addr / 4096)) (Reg.ACL.evDENIED t)

/-- Record a refused access in the page's PG_ERR (R161). -/
def pgErr (s : State) (pg off m : Nat) (t : Status) (write : Bool) : State :=
  let s := wr (wr s (Reg.HDR.PG_ERR_OFFSET pg) (off / 4)) (Reg.HDR.PG_ERR_MASTER pg) m
  let s := wrb (wr s (Reg.HDR.PG_ERR_STATUS pg) t.code) (Reg.HDR.PG_ERR_WRITE pg) write
  bump s (Reg.HDR.PG_ERR_COUNT pg) 1

/-- The rank after those of a session's requests that have completed (R488). -/
def nextRank (l : List SesReq) : Nat := l.foldl (fun n q => max n q.rank) 0 + 1

/-- Deliver a completion: the master's port shows it (R31); a session's or SPM's request waiting for
it takes it.  The completion of a discarded request goes nowhere (R155). -/
def complete (s : State) (r : Req) (c : Completion) : State :=
  if r.dead then s else
  let s := s.onBus fun b => { b with done := vset b.done r.master c }
  let s := if 4 ≤ r.master ∧ r.master < 12 then
      s.onSes (r.master - 4) fun x => { x with out := x.out.map (fun q =>
        if q.req.token = r.token ∧ q.compl.isNone then { q with compl := some c, rank := nextRank x.out } else q) }
    else s
  if r.master = 3 then
    s.onSpm fun x => { x with out := match x.out with
      | some (q, f, none) => if q.token = r.token then some (q, f, some c) else some (q, f, none)
      | o => o }
  else s

/-- R30: the widths, alignments and boundaries a target accepts.  SPM's accesses are of 32-bit words, and every one
that is not aligned fails (R538). -/
def alignOk (t : Nat) (r : Req) : Bool :=
  if 4 ≤ t || r.master = 3 then r.size = 4 && r.addr % 4 = 0
  else decide (1 ≤ r.size) && decide (r.addr % 64 + r.size ≤ 64)

/-- Poisoned read data (R33): masters 4 to 14 get it with status POISON, masters 0 to 3 a bus error. -/
def poisonC (r : Req) (data : List Byte) : Completion :=
  if r.master < 4 then errC r .errPoison else ⟨.poison, data⟩

end Sys2Proof.Machine
end

