-- ==== Sys2Proof/Machine/Memory.lean ====
section
/-! DEFINITION. Stacked memory (chapter 15): the line check and refetch, poison, never-written units,
the weak-line and retirement tables, scrub.  The plain stores of SRAM, flash and OTP are here too. -/

namespace Sys2Proof.Machine

/-! ### Byte stores -/

/-- `n` bytes of a byte store from key `a`. -/
def bytesAt (d : Byte) (l : Store Byte) (a : Nat) : Nat → List Byte
  | 0 => []
  | n + 1 => Store.read d l a :: bytesAt d l (a + 1) n

/-- Store bytes from key `a` on. -/
def putBytes (d : Byte) (l : Store Byte) (a : Nat) : List Byte → Store Byte
  | [] => l
  | b :: t => putBytes d (Store.write d l a b) (a + 1) t

/-- What an unlisted flash byte reads as: erased (log entry 9). -/
def flashDef : Byte := 0xFF

/-- Every memory is in its canonical form: keys rising, and no entry equal to what an unlisted key reads as. -/
def Mems.wf (m : Mems) : Bool :=
  Store.wf 0 m.sram && Store.wf flashDef m.flash && Store.wf 0 m.dram && Store.wf 0 m.checks
    && Store.wf false m.written && Store.wf 0 m.otp && Store.wf 0 m.seqt

/-! ### DRAM lines -/

/-- The byte offset of an address in DRAM (R506). -/
def dramOff (a : Nat) : Nat := a - 0x1000000000

/-- LINE of an address. -/
def lineOf (a : Nat) : Nat := dramOff a / 64

/-- The address lies in a retired page (R522). -/
def isRetired (s : State) (a : Nat) : Bool := s.memc.retired.contains (dramOff a / 65536)

/-- The 4 KiB unit of an address is marked written (R515). -/
def isWritten (s : State) (a : Nat) : Bool := Store.read false s.mems.written (dramOff a / 4096)

/-- The check that goes with the data of a line: over LINE and the 64 bytes (R508). -/
def lineCheck (s : State) (line : Nat) : Nat := crc32 (toLE 4 line ++ bytesAt 0 s.mems.dram (line * 64) 64)

/-- The check value stored with a line (R508). -/
def storedCheck (s : State) (line : Nat) : Nat := lineCheck s line ^^^ Store.read 0 s.mems.checks line

/-- What a line reads as (R508). -/
inductive LineRead | clean | poison | bad
deriving DecidableEq, Repr

/-- What a stored check makes of a line whose check is computed on reading (R508). -/
def lineRead (stored computed : Nat) : LineRead :=
  if stored = computed then .clean else if stored = computed ^^^ 0xFFFFFFFF then .poison else .bad

/-- The line is stored-poison (R508). -/
def isPoison (s : State) (line : Nat) : Bool := lineRead (storedCheck s line) (lineCheck s line) == .poison

/-- The line lies in a row that a failed fuse map would have replaced (R521). -/
def inBadRow (s : State) (line : Nat) : Bool := s.memc.badRows.any (fun e => decide (e.1 ≤ line) && decide (line ≤ e.2))

/-- How many of the first four reads of a line find it bad: all of them in a row that reads bad (R521), or by its
stored check (R508); else those the dies answer wrong (`bads`, log entry 2). -/
def badReads (s : State) (line bads : Nat) : Nat :=
  if inBadRow s line || lineRead (storedCheck s line) (lineCheck s line) == .bad then 4 else bads

/-- WEAK_USED follows the table. -/
def weakUsed (s : State) : State := wr s Reg.MEMC.STAT_WEAK_USED s.memc.weak.length

/-- The entry of a line. -/
def weakFind (line : Nat) : List (Nat × (Nat × Nat)) → Option (Nat × Nat)
  | [] => none
  | (k, (l, c)) :: t => if l = line then some (k, c) else weakFind line t

/-- Lowest-numbered free entry of 256 (R518). -/
def weakFree (w : List (Nat × (Nat × Nat))) : Option Nat :=
  (List.range 256).find? (fun k => w.all (fun e => e.1 != k))

/-- A recovery enters the weak-line table (R518, R520). -/
def weakRecover (s : State) (line : Nat) : State :=
  match weakFind line s.memc.weak with
  | some (k, c) =>
    let c' := min 255 (c + 1)
    let s := s.onMemc fun m => { m with weak := Store.put m.weak k (line, c') }
    raiseIf (c' == 8) s Reg.MEMC.evWEAK_LINE
  | none =>
    match weakFree s.memc.weak with
    | some k => weakUsed (s.onMemc fun m => { m with weak := Store.put m.weak k (line, 1) })
    | none => raise (bump s Reg.MEMC.WEAK_OVF_COUNT 1) Reg.MEMC.evWEAK_FULL

/-- Remove the entries that satisfy a test (R519, R525). -/
def weakDrop (s : State) (p : Nat → Nat → Bool) : State :=
  weakUsed (s.onMemc fun m => { m with weak := m.weak.filter (fun e => !p e.1 e.2.1) })

/-- A recovery: counted and entered (R510). -/
def recovered (s : State) (line : Nat) : State :=
  weakRecover (bump s Reg.MEMC.REFETCH_CNT_COUNT 1) line

/-- A poisoned read is counted, recorded and raised (R511). -/
def poisonRead (s : State) (r : Req) (stored : Bool) : State :=
  let s := bump s (if stored then Reg.MEMC.POISON_CNT_STORED else Reg.MEMC.POISON_CNT_CRC) 1
  let s := wrAll s [(Reg.MEMC.POISON_LAST_LO_ADDR, r.addr), (Reg.MEMC.POISON_LAST_HI_ADDR, r.addr / 2 ^ 32),
    (Reg.MEMC.POISON_LAST_HI_MASTER, r.master), (Reg.MEMC.POISON_LAST_HI_STORED, b2n stored),
    (Reg.MEMC.POISON_LAST_HI_VALID, 1)]
  raise s Reg.MEMC.evPOISON_READ

/-- An access to a retired page (R523). -/
def retiredHit (s : State) (r : Req) : State :=
  let s := wrAll s [(Reg.RETIRE.HIT_LAST_PAGE, dramOff r.addr / 65536), (Reg.RETIRE.HIT_LAST_MASTER, r.master),
    (Reg.RETIRE.HIT_LAST_WRITE, b2n r.write), (Reg.RETIRE.HIT_LAST_VALID, 1)]
  raise (bump s Reg.RETIRE.HIT_CNT_COUNT 1) Reg.RETIRE.evRETIRED_HIT

/-- `n` bytes nothing fixes: the data of a line that reads bad (R508, log entry 8). -/
def freeBytes (s : State) (n : Nat) : List Byte × State :=
  ((List.range n).map (fun i => Config.freeByte s.freeCtr i), { s with freeCtr := s.freeCtr + 1 })

/-- A read whose reads all found the line bad, or whose line is stored-poison (R509, R511). -/
def poisonedRead (s : State) (r : Req) (stored : Bool) : State × Completion :=
  let d := if stored then (bytesAt 0 s.mems.dram (dramOff r.addr) r.size, s) else freeBytes s r.size
  (poisonRead d.2 r stored, poisonC r d.1)

/-- A clean read: OK with the stored data. -/
def cleanRead (s : State) (r : Req) : Completion := ⟨.ok, bytesAt 0 s.mems.dram (dramOff r.addr) r.size⟩

/-- The first write to a unit clears its other lines and marks it (R515, R516). -/
def markWritten (s : State) (a : Nat) : State :=
  if isWritten s a then s
  else
    let u := dramOff a / 4096
    let s := s.onMems fun m =>
      { m with dram := m.dram.delRange (u * 4096) ((u + 1) * 4096)
               checks := m.checks.delRange (u * 64) ((u + 1) * 64)
               written := Store.write false m.written u true }
    inc s Reg.MEMC.WRITTEN_UNITS 1

/-- Store bytes in DRAM with the line's check, or with the complement of the check for a line to read
stored-poison (R508, R512, R513). -/
def storeDram (s : State) (a : Nat) (data : List Byte) (poison : Bool) : State :=
  s.onMems fun m =>
    { m with dram := putBytes 0 m.dram (dramOff a) data
             checks := Store.write 0 m.checks (lineOf a) (if poison then 0xFFFFFFFF else 0) }

/-- A whole-line write (R512, R516, R519). -/
def wholeWrite (s : State) (r : Req) : State × Completion :=
  let s := storeDram (markWritten s r.addr) r.addr r.data r.poison
  (weakDrop s (fun _ l => l == lineOf r.addr), ⟨.ok, []⟩)

/-- A partial write, `bads` of whose first reads find the line bad (R513, R514, R516).  A line of a
unit that is not marked written is read as a zero line. -/
def partWrite (s : State) (r : Req) (bads : Nat) : State × Completion :=
  let line := lineOf r.addr
  let n := if isWritten s r.addr then badReads s line bads else 0
  let s := markWritten s r.addr
  if 4 ≤ n then (raise (bump s Reg.MEMC.PARTIAL_CNT_COUNT 1) Reg.MEMC.evPARTIAL_REFUSED, errC r .errPoison)
  else
    let s := if 1 ≤ n ∧ isPoison s line = false then recovered s line else s
    let s := storeDram s r.addr r.data (r.poison || isPoison s line)
    (weakDrop s (fun _ l => l == line), ⟨.ok, []⟩)

/-- A write to a page in service (R507 order 4). -/
def dramWriteLive (s : State) (r : Req) (bads : Nat) : State × Completion :=
  if r.size = 64 then wholeWrite s r else partWrite s r bads

/-- A read of a page in service, answered at once: `bads` of its first reads find the line bad
(R507 orders 2 and 3, R509). -/
def dramReadLive (s : State) (r : Req) (bads : Nat) : State × Completion :=
  let n := badReads s (lineOf r.addr) bads
  if isWritten s r.addr = false then (s, ⟨.unwritten, zeros r.size⟩)
  else if 4 ≤ n then poisonedRead s r false
  else if isPoison s (lineOf r.addr) then poisonedRead s r true
  else if n = 0 then (s, cleanRead s r)
  else (recovered s (lineOf r.addr), cleanRead s r)

/-- The weight of a master (R527). -/
def shareOf (s : State) (m : Nat) : Nat := rd s ⟨Reg.MEMC.page, 68 + 4 * (m / 8), 4 * (m % 8), 4⟩

/-- An access waits behind another: of the same master (R29), or one that holds the line it is to reach (R528). -/
def dramBehind (r : Req) (v : Option Status) (q : Refetch) : Bool :=
  q.req.master == r.master || (v.isNone && q.begun && lineOf q.req.addr == lineOf r.addr)

/-- An access of a master of weight 0 waits while a master with a weight above 0 is waiting (R527). -/
def dramYields (s : State) (r : Req) (v : Option Status) : Bool :=
  v.isNone && shareOf s r.master == 0 &&
    s.memc.pending.any (fun q => !q.begun && q.refused.isNone && shareOf s q.req.master != 0)

/-- A read that has to read its line again (R509): its first read finds it bad. -/
def dramRereads (s : State) (r : Req) : Bool :=
  !r.write && badReads s (lineOf r.addr) r.bads != 0 && isWritten s r.addr

/-- A refused access completes: an access to a retired page is recorded (R523). -/
def dramRefuse (s : State) (r : Req) (e : Status) : State :=
  complete (if e = .errRetired then retiredHit s r else s) r (errC r e)

/-- Where a master's next line stands in the order of service: after what its share has given it so far, and never
before the line served last (R527, which bounds the shares and gives no order; DESIGN CHOICE, log entry 62). -/
def shareTurn (s : State) (m : Nat) : Nat := max s.memc.account (vget s.memc.share 0 m)

/-- A master's share is charged for a line, or for two lines of a partial write (R527). -/
def shareCharge (s : State) (r : Req) : State :=
  let w := shareOf s r.master
  if w = 0 then s
  else
    let t := shareTurn s r.master
    let cost := 360360 / w * (if r.write && r.size != 64 then 2 else 1)
    s.onMemc fun m => { m with account := t, share := vset m.share r.master (t + cost) }

/-- An access the arbiter serves: one that was refused when it was accepted completes so (R30, R523, R525,
R597); a read whose line is bad goes on to its refetches; any other is answered. -/
def dramServe (s : State) (r : Req) (v : Option Status) (after : List Refetch) : State :=
  match v with
  | some e => dramRefuse (s.onMemc fun m => { m with pending := after }) r e
  | none =>
    let s := shareCharge s r
    if dramRereads s r then s.onMemc fun m => { m with pending := ⟨r, 1, true, none⟩ :: after }
    else
      let s := s.onMemc fun m => { m with pending := after }
      let x := if r.write then dramWriteLive s r r.bads else dramReadLive s r 0
      complete x.1 r x.2

/-- An access the DRAM target accepts with a verdict: it waits, or is served. -/
def dramAccept (s : State) (r : Req) (v : Option Status) : State :=
  if s.memc.pending.any (dramBehind r v) || dramYields s r v then
    s.onMemc fun m => { m with pending := m.pending ++ [⟨r, 0, false, v⟩] }
  else
    let keep := s.memc.pending
    let s := s.onMemc fun m => { m with pending := [] }
    (dramServe s r v []).onMemc fun m => { m with pending := keep ++ m.pending }

/-- The checks an access to the DRAM target meets when it is accepted: R30, the access table of T3, and the
retirement table (R507 order 1, R525); none when it passes. -/
def dramVerdict (s : State) (r : Req) : Option Status :=
  if alignOk 3 r = false then some .errAlign
  else if aclGrants s 3 r.master r.addr (aclKind r) = false then some .errDenied
  else if isRetired s r.addr then some .errRetired
  else none

/-- A DRAM request after the fabric has found its target: a denial is recorded when the table refuses it
(R601), and every completion waits for the master's earlier ones (R29). -/
def dramIssue (s : State) (r : Req) : State :=
  let v := dramVerdict s r
  dramAccept (if v = some .errDenied then denyRecord s 3 r.master r.addr (aclKind r) else s) r v

/-- A line that a DMA master is to reach cannot be served yet: another access holds it (R528), an access of the same
master comes before it (R29), or a master of a weight above 0 is waiting and its own weight is 0 (R527).  A write
waits then; a command that needs what is read stands for no event, and changes nothing (log entry 14). -/
def dmaHeld (s : State) (m a : Nat) : Bool :=
  s.memc.pending.any (fun q => q.req.master == m || (q.begun && lineOf q.req.addr == lineOf a))
    || dramYields s (mkReq m a false false 64 [] false 0) none

/-- One of the `n` lines from an address on cannot be served yet. -/
def dmaLinesHeld (s : State) (m a n : Nat) : Bool := (List.range n).any (fun i => dmaHeld s m (a + 64 * i))

/-- A DMA write takes its place among the accesses that wait; what becomes of it is settled by now. -/
def dmaWaits (s : State) (r : Req) : State × Completion :=
  (s.onMemc fun m => { m with pending := m.pending ++ [⟨r, 0, false, none⟩] }, ⟨.ok, []⟩)

/-- A request of the memory controller's or a DMA master's own (masters 12 to 14), answered in the command that makes
it; its share is charged (R527).  A read comes at a moment when its line is free (`dmaHeld`). -/
def dmaReq (s : State) (r : Req) (bads : Nat) : State × Completion :=
  if targetOf r.addr ≠ some 3 then
    (match targetOf r.addr with
     | none => (s, errC r .errUnmapped)
     | some t => (denyRecord s t r.master r.addr (aclKind r), errC r .errDenied))
  else if alignOk 3 r = false then (s, errC r .errAlign)
  else if aclGrants s 3 r.master r.addr (aclKind r) = false then
    (denyRecord s 3 r.master r.addr (aclKind r), errC r .errDenied)
  else if isRetired s r.addr then (retiredHit s r, errC r .errRetired)
  else if r.write && dmaHeld s r.master r.addr && (r.size == 64 || badReads s (lineOf r.addr) bads != 4) then dmaWaits s r
  else if r.write then dramWriteLive (shareCharge s r) r bads
  else dramReadLive (shareCharge s r) r bads

/-- A DMA write of up to a line. -/
def dmaWrite (s : State) (m a : Nat) (data : List Byte) (bads : Nat) : State × Completion :=
  dmaReq s (mkReq m a true false data.length data false bads) bads

/-- A DMA read of a whole line. -/
def dmaReadLine (s : State) (m a : Nat) (bads : Nat) : State × Completion :=
  dmaReq s (mkReq m a false false 64 [] false bads) bads

/-- DMA reads of `n` lines in address order, `bads i` being the verdict of line `i`: the completions,
first line first. -/
def dmaReadLines (m : Nat) (bads : Nat → Nat) : Nat → Nat → Nat → State → State × List Completion
  | 0, _, _, s => (s, [])
  | n + 1, i, a, s =>
    let x := dmaReadLine s m a (bads i)
    let y := dmaReadLines m bads n (i + 1) (a + 64) x.1
    (y.1, x.2 :: y.2)

/-- Write `n` whole lines from an address under master `m`; answers whether one had a bus error. -/
def dmaWriteLines (m : Nat) : Nat → Nat → List Byte → State → State × Bool
  | 0, _, _, s => (s, false)
  | n + 1, a, d, s =>
    let x := dmaWrite s m a (d.take 64) 0
    let y := dmaWriteLines m n (a + 64) (d.drop 64) x.1
    (y.1, x.2.status.isErr || y.2)

/-- The reason of the first line that did not complete with OK (R283, R412); 0 when every line did. -/
def lineReason : List Completion → Nat
  | [] => 0
  | c :: t =>
    if c.status = .ok then lineReason t
    else if c.status = .poison then 1
    else if c.status.isErr then 2 else 3

/-! ### Commands -/

/-- The waiting accesses of a list that wait behind no earlier one of their master and whose line nothing holds, each
with what stands before and after it. -/
def dramReady : List Refetch → List Refetch → List (List Refetch × Refetch × List Refetch)
  | _, [] => []
  | before, q :: t =>
    let l := dramReady (before ++ [q]) t
    if q.begun || (before ++ t).any (fun x => x.begun && dramBehind q.req q.refused x)
      || before.any (fun x => x.req.master == q.req.master) then l else (before, q, t) :: l

/-- The claim of a waiting access at the arbiter, the smallest served first (R527): a refused access takes no line; a
master of weight 0 comes after every other; of two equal claims the lower master comes first. -/
def dramClaim (s : State) (q : Refetch) : Nat × Nat × Nat :=
  if q.refused.isSome then (0, 0, q.req.master)
  else if shareOf s q.req.master = 0 then (2, 0, q.req.master)
  else (1, shareTurn s q.req.master, q.req.master)

/-- A claim stands before another. -/
def claimBefore (a b : Nat × Nat × Nat) : Bool :=
  decide (a.1 < b.1) || (a.1 == b.1 && (decide (a.2.1 < b.2.1) || (a.2.1 == b.2.1 && decide (a.2.2 < b.2.2))))

/-- The access that the arbiter serves next. -/
def dramNext (s : State) : Option (List Refetch × Refetch × List Refetch) :=
  ((dramReady [] s.memc.pending).filter (fun x => !dramYields s x.2.1.req x.2.1.refused)).foldl (fun o x => match o with
    | none => some x
    | some y => if claimBefore (dramClaim s x.2.1) (dramClaim s y.2.1) then some x else some y) none

/-- The accesses that need wait no longer are served in the arbiter's order (R29, R527, R528). -/
def dramUnblock : Nat → State → State
  | 0, s => s
  | n + 1, s =>
    match dramNext s with
    | none => s
    | some (before, q, after) =>
      dramUnblock n ((dramServe s q.req q.refused after).onMemc fun m => { m with pending := before ++ m.pending })

/-- DRAM_REFETCH (R509, R510): the oldest read waiting is read again; the first clean read completes
it as a recovery, and the fourth bad one completes it poisoned. -/
def dramRefetch (bad : Bool) (s : State) : State :=
  match s.memc.pending.find? (fun q => q.begun) with
  | none => s
  | some q =>
    let bad := bad || badReads s (lineOf q.req.addr) 0 == 4
    if bad ∧ q.tries + 1 < 4 then
      s.onMemc fun m => { m with pending := m.pending.map (fun x =>
        if x = q then { q with tries := q.tries + 1 } else x) }
    else
      let n := s.memc.pending.length
      let s := s.onMemc fun m => { m with pending := m.pending.erase q }
      let x := if bad then poisonedRead s q.req false
        else if isPoison s (lineOf q.req.addr) then poisonedRead s q.req true
        else (recovered s (lineOf q.req.addr), cleanRead s q.req)
      dramUnblock n (complete x.1 q.req x.2)

def execDramRefetch (bad : Bool) (s : State) : Host.Outcome State Fault Refusal :=
  .next (dramRefetch bad s)

/-- What the scrub does with the line at its position (R526). -/
def scrubRead (s : State) (line : Nat) (bads : Nat) : State :=
  let a := 0x1000000000 + line * 64
  let n := badReads s line bads
  if isRetired s a ∨ isWritten s a = false ∨ n = 0 then s
  else if n < 4 then (if isPoison s line then s else recovered s line)
  else
    let s := wr (wr s Reg.MEMC.SCRUB_BAD_LINE line) Reg.MEMC.SCRUB_BAD_VALID 1
    raise (bump s Reg.MEMC.SCRUB_STAT_BAD 1) Reg.MEMC.evSCRUB_BAD

/-- The position advances; at the end of a pass SCRUB_PASS is raised (R526). -/
def scrubAdvance (s : State) : State :=
  let p := rd s Reg.MEMC.SCRUB_POS_LINE
  if p + 1 = 134217728 then
    raise (bump (wr s Reg.MEMC.SCRUB_POS_LINE 0) Reg.MEMC.SCRUB_STAT_PASSES 1) Reg.MEMC.evSCRUB_PASS
  else wr s Reg.MEMC.SCRUB_POS_LINE (p + 1)

/-- A scrub pass is in progress while scrub is enabled and the memory trained (R526, log entry 47). -/
def scrubRuns (s : State) : Bool := rdb s Reg.MEMC.SCRUB_CTL_EN && s.memc.trained

/-- SCRUB_RUN follows a commit and the training (R526, R530). -/
def scrubFollow (s : State) : State := wrb s Reg.MEMC.STAT_SCRUB_RUN (scrubRuns s)

/-- Scrub cannot read its line yet: another access waits (R527), or holds the line (R528). -/
def scrubWaits (s : State) (line : Nat) : Bool :=
  s.memc.pending.any (fun q => !q.begun || lineOf q.req.addr == line)

/-- SCRUB_LINE (R526 to R528): while a pass is in progress. -/
def scrubLine (bads : Fin 5) (s : State) : State :=
  let line := rd s Reg.MEMC.SCRUB_POS_LINE
  if scrubRuns s = false ∨ scrubWaits s line = true then s
  else scrubAdvance (wrb (scrubRead s line bads) Reg.MEMC.STAT_SCRUB_RUN true)

def execScrubLine (bads : Fin 5) (s : State) : Host.Outcome State Fault Refusal :=
  .next (scrubLine bads s)

/-- What a write of RETIRE.ADD does (R522, R524, R525). -/
def retireAddEffect (s : State) (page : Nat) : State :=
  let n := s.memc.retired.length
  if s.memc.retired.contains page then wr s Reg.RETIRE.STAT_LAST 2
  else if 4096 ≤ n then raise (wr s Reg.RETIRE.STAT_LAST 3) Reg.RETIRE.evRETIRE_FULL
  else
    let s := s.onMemc fun m => { m with retired := m.retired ++ [page] }
    let s := wr (wr s Reg.RETIRE.STAT_LAST 1) Reg.RETIRE.STAT_COUNT (n + 1)
    let s := weakDrop s (fun _ l => l / 1024 == page)
    raiseIf (n + 1 == 3840) s Reg.RETIRE.evRETIRE_NEAR

/-- What a write of MEMC.WEAK_CMD does (R519, R530). -/
def weakCmdEffect (s : State) (v : Nat) : State :=
  let s := if bit v 8 then weakDrop s (fun k _ => k == v % 256) else s
  if bit v 9 then weakDrop s (fun _ _ => true) else s

/-- MEMORY_TRAINING_DONE (R126 step 7, R515, R521): the fuse maps are recorded, the written bits are
clear, the memory is in service and PHASE becomes 3. -/
def fuseRecord (s : State) (d : Nat) : List FuseMap → State
  | [] => s
  | f :: t =>
    let s := wr (wrb s (Reg.MEMC.FUSE_OK d) f.ok) (Reg.MEMC.FUSE_ROWS d) (if f.ok then f.rows.toNat else 0)
    fuseRecord (raiseIf (!f.ok) s Reg.MEMC.evFUSE_ERR) (d + 1) t

/-- The lines that read bad after training: those of the rows that the failed maps would have replaced (R521). -/
def lostRows (fuse : List FuseMap) : List (Nat × Nat) := (fuse.filter (fun f => !f.ok)).flatMap (·.lines)

end Sys2Proof.Machine
end

