-- ==== Sys2Proof/Machine/Lines.lean ====
section
/-! DEFINITION. The line code of the lanes (chapters 13 and 14): 64B/66B blocks, the scrambler, PAM4 levels,
striping and alignment markers. -/

namespace Sys2Proof.Machine

/-- A 64B/66B block that the device sends (R436, R474). -/
inductive Block
  /-- a data block with a message word. -/
  | data (w : Nat)
  /-- an idle block. -/
  | idle
  /-- an alignment marker: physical lane, marker count, logical lane, SWITCH. -/
  | marker (lane count logical : Nat) (switch : Bool)
deriving DecidableEq, Repr

/-- The sync header's two bits in the order of sending: 0b01 before data, 0b10 before control (R436). -/
def Block.sync : Block → List Bool
  | .data _ => [false, true]
  | _ => [true, false]

/-- The 64 payload bits, the first sent least significant (R436, R468, R474). -/
def Block.payload : Block → Nat
  | .data w => w % 2 ^ 64
  | .idle => 0x1E
  | .marker i n k sw =>
    0x4B + i % 32 * 2 ^ 8 + n % 256 * 2 ^ 16 + (k % 32 + b2n sw * 2 ^ 7) * 2 ^ 24 + 0xF * 2 ^ 32

/-- `n` bits through the scrambler 1 + x^39 + x^58 (R438): its state, the newest bit sent least significant, and
the bits sent. -/
def scramble : Nat → Nat → Nat → Nat × List Bool
  | 0, st, _ => (st, [])
  | n + 1, st, p =>
    let b : Bool := (bit p 0 != bit st 38) != bit st 57
    let r := scramble n ((2 * st + b2n b) % 2 ^ 58) (p / 2)
    (r.1, b :: r.2)

/-- The PAM4 level of two bits, the first sent the more significant (R437). -/
def grayLevel : Bool → Bool → Nat
  | false, false => 0
  | false, true => 1
  | true, true => 2
  | true, false => 3

/-- The levels of a run of bits (R437). -/
def pam4 : List Bool → List Nat
  | a :: b :: t => grayLevel a b :: pam4 t
  | _ => []

/-- A block goes out on a physical lane: its 33 levels (R437, R438). -/
def LineH.block (l : LineH) (lane : Nat) (b : Block) : LineH :=
  let x := scramble 64 (vget l.scr 0 lane) b.payload
  { l with scr := vset l.scr lane x.1, levels := vset l.levels lane (pam4 (b.sync ++ x.2)) }

/-- Blocks on one lane, unstriped. -/
def LineH.blocks (l : LineH) (lane : Nat) (bs : List Block) : LineH := bs.foldl (fun l b => l.block lane b) l

/-- An alignment marker on every lane of the map, and on the spares (R473, R474). -/
def LineH.mark (l : LineH) (map spares : List Nat) (sw : Bool) : LineH :=
  let l := { l with marks := (l.marks + 1) % 256, since := 0, after := l.after + map.length }
  let l := (List.range map.length).foldl (fun l k => let i := map.getD k 0; l.block i (.marker i l.marks k sw)) l
  spares.foldl (fun l i => l.block i (.marker i l.marks 31 sw)) l

/-- The marker that falls due is the switch marker of a failover that waits (`sw`): the first at least 64 blocks after
its MAP words (R458). -/
def LineH.isSwitch (l : LineH) (map : List Nat) (sw : Bool) : Bool := sw && decide (64 * map.length ≤ l.after)

/-- The marker that falls due on each lane's 16,384th block (R473); the switch marker waits for its command,
SWITCH_MARKER. -/
def LineH.markDue (l : LineH) (map spares : List Nat) (sw : Bool) : LineH :=
  if 16383 * map.length ≤ l.since ∧ l.isSwitch map sw = false then l.mark map spares false else l

/-- The next herd block (R473): on logical lane n mod L, after the marker that falls due. As a block place begins, each
spare carries an idle block (R447). -/
def LineH.herdBlock (map spares : List Nat) (sw : Bool) (l : LineH) (b : Block) : LineH :=
  let l := l.markDue map spares sw
  let l := if l.since % map.length = 0 then spares.foldl (fun l i => l.block i .idle) l else l
  let l := l.block (map.getD (l.n % map.length) 0) b
  { l with n := l.n + 1, since := l.since + 1, after := l.after + 1, run := if b = .idle then 0 else l.run + 1 }

/-- The idle block of R472 falls due at the end of a message of `n` words. -/
def LineH.idleDue (l : LineH) (n : Nat) : Bool := 4096 ≤ l.run + n

/-- A message on the herd, with the idle block that falls due after it (R468, R472, R476). -/
def LineH.message (l : LineH) (map spares : List Nat) (sw : Bool) (ws : List Nat) : LineH :=
  (ws.map Block.data ++ (if l.idleDue ws.length then [Block.idle] else [])).foldl (LineH.herdBlock map spares sw) l

/-- The scrambler after `k` idle blocks. -/
def idleRun : Nat → Nat → Nat
  | 0, st => st
  | k + 1, st => idleRun k (scramble 64 st Block.idle.payload).1

/-- `k` idle blocks on one lane. -/
def LineH.idleLane (l : LineH) (lane k : Nat) : LineH :=
  if k = 0 then l
  else LineH.block { l with scr := vset l.scr lane (idleRun (k - 1) (vget l.scr 0 lane)) } lane .idle

/-- How many of the numbers from `a` on, `k` of them, leave `c` modulo `m`. -/
def hitsOf (m c a k : Nat) : Nat := (a + k + (m - 1 - c)) / m - (a + (m - 1 - c)) / m

/-- `k` idle blocks of the herd's block stream, up to a marker at most, and with them those of the other lanes. -/
def LineH.idleBlocks (l : LineH) (map others : List Nat) (k : Nat) : LineH :=
  let m := map.length
  let t := (List.range m).foldl (fun t c => t.idleLane (map.getD c 0) (hitsOf m c l.n k)) l
  let t := others.foldl (fun t i => t.idleLane i (hitsOf m 0 l.since k)) t
  { t with n := l.n + k, since := l.since + k, after := l.after + k, run := if k = 0 then l.run else 0 }

/-- An idle block on every lane (R447, R476 item 8), around the marker that falls due. -/
def LineH.idleRow (l : LineH) (map spares : List Nat) (sw : Bool) : LineH :=
  let l := l.markDue map spares sw
  let left := 16383 * map.length - l.since
  if map.length ≤ left then l.idleBlocks map spares map.length
  else
    let t := (l.idleBlocks map spares left).markDue map spares sw
    if t.since = 0 then t.idleBlocks map spares (map.length - left) else t

/-- Idle blocks up to the switch marker of a failover (R458, R473): the next marker's place, and where that is less
than 64 blocks after the MAP words, the one after it. -/
def LineH.toSwitch (l : LineH) (map spares : List Nat) : LineH :=
  let l := l.idleBlocks map spares (16383 * map.length - l.since)
  if l.isSwitch map true then l else (l.mark map spares false).idleBlocks map spares (16383 * map.length)

/-- Lanes that are electrically idle show no level (R434, R457). -/
def LineH.quiet (l : LineH) (lanes : List Nat) : LineH :=
  { l with levels := lanes.foldl (fun v i => vset v i []) l.levels }

/-- Lanes that go OFF reset their scramblers (R438). -/
def LineH.off (l : LineH) (lanes : List Nat) : LineH :=
  { l.quiet lanes with scr := lanes.foldl (fun v i => vset v i 0) l.scr }

end Sys2Proof.Machine
end

