-- ==== Sys2Proof/Machine/Message.lean ====
section
/-! DEFINITION. The words of a Bribin Link message (chapter 14): header, header check, CREDIT and
TRAIN words; and whether a herd carries STREAM blocks. -/

namespace Sys2Proof.Machine

/-- Bits [55:0] of a message's word 0 (R469). -/
def header55 (kind len : Nat) (enc : Bool) (slot : Nat) (rpl : Bool) (seq : Nat) : Nat :=
  kind % 16 + len % 1024 * 2 ^ 4 + b2n enc * 2 ^ 14 + slot % 8 * 2 ^ 16 + b2n rpl * 2 ^ 19
    + seq % 65536 * 2 ^ 24

/-- HCHK (R470): over bytes 0 to 6 of word 0, and for CREDIT (7) and TRAIN (9) over word 1. -/
def hchk (h55 kind w1 : Nat) : Nat :=
  crc 8 7 0xFF (toLE 7 h55 ++ (if kind = 7 ∨ kind = 9 then toLE 8 w1 else []))

/-- Word 0 of a message (R469, R470). -/
def word0 (kind len : Nat) (enc : Bool) (slot : Nat) (rpl : Bool) (seq w1 : Nat) : Nat :=
  let h := header55 kind len enc slot rpl seq
  h + hchk h kind w1 * 2 ^ 56

/-- HERD[h] runs: it is not gated, its domain delivers edges (R83, R92), and the traffic machine has not stopped
(R68). -/
def herdRuns (s : State) (h : Nat) : Bool := blockRuns s (Reg.HERD.page h)

/-! ### What leaves the device -/

/-- Transmit lanes of a herd in a role (R434). -/
def txIn (s : State) (h r : Nat) : List Nat :=
  (List.range 19).filter (fun i => rd s (Reg.HERD.LANE_TX_ROLE h i) == r)

/-- The lines of a herd change; a FAILED lane stays electrically idle (R457). -/
def onLines (s : State) (h : Nat) (f : LineH → LineH) : State := s.onLine h fun l => (f l).quiet (txIn s h 4)

/-- A failover of herd `h` waits for its switch marker, and its MAP words have been sent (R458). -/
def switchWaits (s : State) (h : Nat) : Bool :=
  let t := s.herd h
  (t.newTx.isSome || t.newRx.isSome) && !t.mapTx && !t.mapRx

/-- What the lines make of something sent: a message is striped over the map, a TRAIN message stays on its lane
(R467, R473). -/
def lineSend (s : State) : Out → State
  | .message h ws => onLines s h fun l => l.message (s.herd h).txMap (txIn s h 3) (switchWaits s h) ws
  | .train h i w => onLines s h fun l => l.blocks i [.data (word0 9 2 false 0 false 0 w), .data w]
  | _ => s

/-- The record of something sent, newest first: a message may bring the idle block of R472. -/
def sentAs (s : State) : Out → List Out
  | .message h ws => (if (s.line h).idleDue ws.length then [.idle h] else []) ++ [.message h ws]
  | o => [o]

/-- Send and record something (log entry 7); nothing leaves a device that is being reset (R146 step 1) or has
no power. -/
def emit (s : State) (o : Out) : State :=
  if s.bus.accepting then { lineSend s o with emitted := sentAs s o ++ s.emitted } else s

/-- Alignment markers on every lane of the map and the spares of a herd (R473, R474). -/
def sendMarkers (s : State) (h : Nat) (sw : Bool) : State :=
  if s.bus.accepting then onLines s h fun l => l.mark (s.herd h).txMap (txIn s h 3) sw else s

/-- An idle block on every lane of a herd that sends (R436): in ALIGN and UP in step over the map and the spares (R447,
R476 item 8), and on each lane in TRAINING (R440). -/
def sendIdle (s : State) (h : Nat) : State :=
  if s.bus.accepting && herdRuns s h then
    onLines s h fun l =>
      let l := (txIn s h 1).foldl (fun l i => l.block i .idle) l
      if 3 ≤ rd s (Reg.HERD.STAT_STATE h) then l.idleRow (s.herd h).txMap (txIn s h 3) (switchWaits s h) else l
  else s

/-- The idle blocks up to the switch marker, and the marker (R458, R474). -/
def sendSwitch (s : State) (h : Nat) : State :=
  sendMarkers (if s.bus.accepting then onLines s h fun l => l.toSwitch (s.herd h).txMap (txIn s h 3) else s) h true

/-- LEN of a message body: header, words, and two tag words when protected (R469, R487). -/
def Body.len (b : Body) : Nat := 1 + b.words.length + (if b.enc then 2 else 0)

/-- A message's cost in credits (R482). -/
def Body.cost (b : Body) : Nat := (b.len + 7) / 8

/-- The IV of a message (R494): 1 from the device to the partner; the herd, the slot and the extended counter. -/
def gcmIv (out : Bool) (h slot x : Nat) : List Byte :=
  toLE 1 (b2n out) ++ toLE 1 h ++ toLE 1 slot ++ [0] ++ toBE 8 x

/-- The words after word 0 of a message with counter X under a session's key: with ENC, ciphertext and tag (R494). -/
def sealWords (key : List Byte) (h x : Nat) (b : Body) : List Nat :=
  if b.enc then
    packWords (b.words.length + 2) (gcmSeal key (gcmIv true h b.slot x)
      (toLE 7 (header55 b.kind b.len b.enc b.slot false x)) (words64LE b.words))
  else b.words

/-- A sequenced message as it is sent. -/
def Sent.wire (m : Sent) (rpl : Bool) : List Nat :=
  word0 m.body.kind m.body.len m.body.enc m.body.slot rpl m.x 0 :: m.sealed

/-- A transmit lane of a traffic herd has failed and its switch marker has not passed: only idle blocks go (R459
step 2). HERD[16] carries no traffic that a failure could interrupt (R460). -/
def txHolds (s : State) (h : Nat) : Bool := h < 16 && ((s.herd h).newTx.isSome || !(s.herd h).lateTx.isEmpty)

/-- HERD[h] carries STREAM blocks: it is UP (R441), with no transmit failover waiting for its marker. -/
def herdCarries (s : State) (h : Nat) : Bool :=
  rd s (Reg.HERD.STAT_STATE h) == 4 && !txHolds s h && herdRuns s h

/-- Send a STREAM message on a traffic herd: it takes the STREAM counter (R478). -/
def sendStream (s : State) (h : Nat) (ws : List Nat) : State :=
  let n := (s.link h).stream
  let s := emit s (.message h (word0 0 (1 + ws.length) false 0 false n 0 :: ws))
  s.onLink h fun l => { l with stream := (n + 1) % 65536 }

/-- A TRAIN word on one transmit lane (R439). -/
def sendTrain (s : State) (h lane w : Nat) : State := emit s (.train h lane w)

/-- The same TRAIN word on each lane of a list. -/
def sendTrains (s : State) (h : Nat) (lanes : List Nat) (w : Nat) : State :=
  lanes.foldl (fun s i => sendTrain s h i w) s

end Sys2Proof.Machine
end

