-- ==== Sys2Proof/Machine/Spf.lean ====
section
/-! DEFINITION. The flash port SPF (chapter 16): discovery, the flash window, programs and erases, the
sharing of the flash, and the queue. -/

namespace Sys2Proof.Machine

/-- The write fence is closed (R59). -/
def fenceClosed (s : State) : Bool := rdb s Reg.PWR.FENCE_STAT_CLOSED

/-- SPF has not discovered the flash, or is in SAFE mode: it is never written (R551). -/
def spfSafe (s : State) : Bool := rd s Reg.SPF.STAT_MODE == 0 || rd s Reg.SPF.STAT_MODE == 3

/-- The offset of a window address (R553). -/
def flashOff (a : Nat) : Nat := a - 0x20000000

/-- Log2 of the size of erase type `e` (R570); 0 when absent. -/
def eraseLog2 (s : State) (e : Nat) : Nat :=
  match e with
  | 0 => rd s Reg.SPF.GEOM_E1_LOG2
  | 1 => rd s Reg.SPF.GEOM_E2_LOG2
  | 2 => rd s Reg.SPF.GEOM_E3_LOG2
  | _ => rd s Reg.SPF.GEOM_E4_LOG2

/-- SPF's registers follow its state (R558, R570), and PWR shows the operation (R70). -/
def spfRegs (s : State) : State :=
  let f := s.spf
  let held := fenceClosed s && f.work.any (fun w => match w with | .erase _ _ _ => true | _ => false)
  nvBusy (wrAll s [(Reg.SPF.STAT_BUSY, b2n f.op.isSome), (Reg.SPF.STAT_ERASE_HELD, b2n held),
    (Reg.SPF.Q_STAT_TX_WORDS, f.tx.length), (Reg.SPF.Q_STAT_RX_WORDS, f.rx.length),
    (Reg.SPF.Q_STAT_ENTRIES, f.queue.length)])

/-! ### Core caches -/

/-- The pair a master is: masters 1 and 2 (R21). -/
def pairOf (m : Nat) : Option Nat := if m = 1 then some 0 else if m = 2 then some 1 else none

/-- A pair's cache that an access goes through: the instruction cache for a fetch, else the data cache (R608). -/
def CoreH.cache (c : CoreH) (fetch : Bool) : List (Nat × List Byte) := if fetch then c.icache else c.dcache

/-- That cache with other lines. -/
def CoreH.withCache (c : CoreH) (fetch : Bool) (l : List (Nat × List Byte)) : CoreH :=
  if fetch then { c with icache := l } else { c with dcache := l }

/-- Both caches without the lines that satisfy a test. -/
def CoreH.drop (c : CoreH) (p : Nat → Bool) : CoreH :=
  { c with icache := c.icache.filter (fun e => !p e.1), dcache := c.dcache.filter (fun e => !p e.1) }

/-- Lines that a cache of 64 KiB holds (R608). -/
def cacheLines : Nat := 1024

/-- A line of the window enters the cache of the pair that read it, with the 64 bytes that the flash holds then; from a
full cache a line goes, which one the spec does not say: a free value (R608; log entries 8 and 66). -/
def cacheFill (s : State) (r : Req) : State :=
  match pairOf r.master, r.dead with
  | some n, false =>
    let l := ((s.core n).cache r.fetch).filter (fun e => e.1 != r.addr / 64)
    let d := bytesAt flashDef s.mems.flash (flashOff (r.addr / 64 * 64)) 64
    if l.length < cacheLines then s.onCore n fun c => c.withCache r.fetch ((r.addr / 64, d) :: l)
    else
      let f := free s
      f.2.onCore n fun c => c.withCache r.fetch ((r.addr / 64, d) :: l.eraseIdx (f.1 % cacheLines))
  | _, _ => s

/-- A pair's write invalidates the line in its own caches (R608). -/
def cacheDrop (s : State) (r : Req) : State :=
  match pairOf r.master with
  | none => s
  | some n => s.onCore n fun c => c.drop (· == r.addr / 64)

/-- What a pair's cache answers for a read of the window: the bytes of a line that it holds, as they were when the line
entered (R608). -/
def cacheHit (s : State) (r : Req) : Option (List Byte) :=
  match pairOf r.master with
  | none => none
  | some n => ((((s.core n).cache r.fetch).find? (fun e => e.1 == r.addr / 64)).map (·.2)).map
      (fun d => (d.drop (r.addr % 64)).take r.size)

/-! ### The queue -/

/-- A sequence leaves the queue: the entries up to and with the first whose CONT is 0; answers
whether that last entry was among them. -/
def dropSeq : List QEntry → List QEntry × Bool
  | [] => ([], false)
  | e :: t => if e.cont then dropSeq t else (t, true)

/-- The opcodes of R563. -/
def qOpcodes : List Nat := [0x03, 0x05, 0x0B, 0x0C, 0x13, 0x4B, 0x5A, 0x66, 0x70, 0x99, 0x9F]

/-- Bits per word in effect: 4 to 32, and in 8D mode a multiple of 8 (R562, R570). -/
def qUnit (e : QEntry) : Nat := if e.mode8d then (e.unit + 7) / 8 * 8 else e.unit

/-- The bits of an out word as they are sent: the unit's, then the extra ones as zeros (R562). -/
def qOut (e : QEntry) (w : Nat) : Nat := w % 2 ^ e.unit * 2 ^ (qUnit e - e.unit)

/-- The word that the received bits of an in word give: the extra ones, which follow the unit's, are dropped (R562). -/
def qIn (e : QEntry) (w : Nat) : Nat := w % 2 ^ qUnit e / 2 ^ (qUnit e - e.unit)

/-- What SPF does on the pins with a word of an entry (R561): an in entry's dummy clocks come before its first word, and
with PERWORD at 1 the select rises after a word and falls again before the next. -/
def qPins (e : QEntry) (x : SpfPin) : List Out :=
  (if e.inward && !e.begun && e.dummy != 0 then [Out.spf (.dummy e.mode8d e.dummy)] else []) ++ [Out.spf x] ++
    (if e.perword && e.count != 1 then [Out.spf (.select false), Out.spf (.select true)] else [])

/-- The device does several things on its pins, first to last. -/
def emitAll (s : State) (l : List Out) : State := l.foldl emit s

/-- The entry after one of its words has moved. -/
def QEntry.next (e : QEntry) : QEntry := { e with count := e.count - 1, begun := true }

/-- The first byte sent of an out word: its most significant bits first, the bits a 4- to 7-bit unit
lacks taken as zeros, as R562 adds them (log entry 31). -/
def qFirstByte (e : QEntry) (w : Nat) : Nat :=
  if 8 ≤ e.unit then w % 2 ^ e.unit / 2 ^ (e.unit - 8) else w % 2 ^ e.unit * 2 ^ (8 - e.unit)

/-- The sequence may run (R563). -/
def qAllowed (s : State) : Bool :=
  match s.spf.queue, s.spf.tx with
  | e :: _, w :: _ => !e.inward && rd s Reg.SPF.STAT_MODE != 3 && qOpcodes.contains (qFirstByte e w)
  | _, _ => false

/-- A refused sequence is discarded (R563). -/
def qRefuse (s : State) : State :=
  let d := dropSeq s.spf.queue
  raise (wrb (s.onSpf fun f => { f with queue := d.1, drop := !d.2 }) Reg.SPF.Q_STAT_REFUSED true)
    Reg.SPF.evQ_REFUSED

/-- Work that became ready in MGT cycle `c` gives way to other work of that cycle: an erase to a window access, a queue
sequence to both (R560); and of two window accesses that reached the port in one FAB cycle, that of the higher master
(R28). -/
def SpfWork.givesWay (c : Nat) (w x : SpfWork) : Bool :=
  match x, w with
  | .window q, .window r | .window q, .refusal r _ | .refusal q _, .window r | .refusal q _, .refusal r _ =>
    q.cycle == r.cycle && decide (r.master < q.master)
  | .erase _ _ a, .window _ | .erase _ _ a, .refusal _ _ => a == c
  | .seq a, .window _ | .seq a, .refusal _ _ | .seq a, .erase _ _ _ => a == c
  | _, _ => false

/-- Where work that becomes ready in MGT cycle `c` takes its place in arrival order (R560). -/
def placeWork (c : Nat) (w : SpfWork) : List SpfWork → List SpfWork
  | [] => [w]
  | x :: t => if (x :: t).all (SpfWork.givesWay c w) then w :: x :: t else x :: placeWork c w t

/-- Work becomes ready (R560). -/
def spfPlace (s : State) (w : SpfWork) : State := s.onSpf fun f => { f with work := placeWork s.time.mgt w f.work }

/-- The first entry of a queue sequence becomes ready: it takes its place in arrival order (R560). -/
def qReady (s : State) : State :=
  let f := s.spf
  let waiting := f.work.any (fun w => match w with | .seq _ => true | _ => false)
  match f.queue with
  | [] => s
  | e :: _ =>
    if f.inSeq || waiting || (!e.inward && f.tx.isEmpty && rd s Reg.SPF.STAT_MODE != 3) then s
    else spfPlace s (.seq s.time.mgt)

/-- Move the words of a running sequence (R561): an out entry takes words from Q_TX, an in entry puts
the words the flash has returned into Q_RX while there is room.  When the flash has done its part and
the last entry ends, the sequence completes and Q_DONE is raised. -/
def qMove : Nat → State → State
  | 0, s => s
  | n + 1, s =>
    let f := s.spf
    match f.queue with
    | [] => s
    | e :: t =>
      if e.count = 0 then
        if e.cont then qMove n (s.onSpf fun f => { f with queue := t })
        else if f.feed.isSome then
          raise (emit (s.onSpf fun f => { f with queue := t, inSeq := false, feed := none }) (.spf (.select false)))
            Reg.SPF.evQ_DONE
        else s
      else if e.inward then
        match f.feed with
        | some (w :: r) =>
          if 64 ≤ f.rx.length then s
          else qMove n (emitAll (s.onSpf fun f => { f with queue := e.next :: t, rx := f.rx ++ [qIn e w], feed := some r })
            (qPins e (.receive e.mode8d (qUnit e))))
        | _ => s
      else match f.tx with
        | [] => s
        | w :: r => qMove n (emitAll (s.onSpf fun f => { f with queue := e.next :: t, tx := r })
          (qPins e (.send e.mode8d (qUnit e) (qOut e w))))

/-- At most this many words move while nothing else happens: the entries of the queue and their
words. -/
def qFuel (s : State) : Nat := s.spf.queue.foldl (fun n e => n + e.count + 1) 1

/-- The fence opens: a held erase becomes ready in this cycle, after what has been waiting (R558, R560). -/
def eraseReady (s : State) : State :=
  (s.spf.work.filterMap (fun w => match w with | .erase off size _ => some (off, size) | _ => none)).foldl
    (fun s e => spfPlace s (.erase e.1 e.2 s.time.mgt))
    (s.onSpf fun f => { f with work := f.work.filter (fun w => match w with | .erase _ _ _ => false | _ => true) })

/-! ### Taking work (R560) -/

/-- A window read is carried out (R553). -/
def flashReadNow (s : State) (r : Req) : State :=
  complete (cacheFill s r) r ⟨.ok, bytesAt flashDef s.mems.flash (flashOff r.addr) r.size⟩

/-- Begin a program or an erase (R554, R557). -/
def flashBegin (s : State) (k : FlashKind) : State :=
  let t := s.time.uptime
  s.onSpf fun f => { f with op := some ⟨k, t, .none, false⟩ }

/-- The flash is occupied: by an operation, or by a queue sequence that has asserted its select (R560). -/
def flashOccupied (s : State) : Bool := s.spf.op.isSome || s.spf.inSeq

/-- No window access of master `m` is among the work given, and none is being programmed (R29). -/
def windowTurn (s : State) (m : Nat) (before : List SpfWork) : Bool :=
  before.all (fun w => match w with | .window q | .refusal q _ => q.master != m | .erase _ _ _ | .seq _ => true)
    && (match s.spf.op with
        | some o => (match o.kind with | .program q => o.stuck || q.master != m | .erase _ _ => true)
        | none => true)

/-- Work that can be taken now: on a flash not occupied, reads and queue sequences, and while the fence is
open writes and erases (R60, R61, R560); a refusal completes at any time.  A window access waits for the
earlier ones of its own master (R29). -/
def canTake (s : State) (before : List SpfWork) : SpfWork → Bool
  | .window r => !flashOccupied s && !(r.write && fenceClosed s) && windowTurn s r.master before
  | .refusal r _ => windowTurn s r.master before
  | .erase _ _ _ => !flashOccupied s && !fenceClosed s
  | .seq _ => !flashOccupied s

/-- The first work of a list that can be taken, with what stays. -/
def pickWork (s : State) : List SpfWork → List SpfWork → Option (SpfWork × List SpfWork)
  | _, [] => none
  | before, w :: t =>
    if canTake s before w then some (w, before ++ t) else pickWork s (before ++ [w]) t

/-- What SPF does with the work it has taken. -/
def spfDo (s : State) : SpfWork → State
  | .window r => if r.write then flashBegin s (.program r) else flashReadNow s r
  | .refusal r t => complete s r (errC r t)
  | .erase off size _ => flashBegin s (.erase off size)
  | .seq _ =>
    if qAllowed s then
      let s := emit (s.onSpf fun f => { f with inSeq := true, feed := none }) (.spf (.select true))
      qMove (qFuel s) s
    else qReady (qRefuse s)

/-- Take work in arrival order until nothing more can be taken. -/
def spfTake : Nat → State → State
  | 0, s => s
  | n + 1, s =>
    match pickWork s [] s.spf.work with
    | none => s
    | some (w, rest) => spfTake n (spfDo (s.onSpf fun f => { f with work := rest }) w)

/-- Let SPF go on while its clock runs (R83, R636): ready sequences take their place, work is taken, the
registers follow. -/
def spfKick (s : State) : State :=
  let s := qReady s
  spfRegs (if blockRuns s Reg.SPF.page then spfTake (s.spf.work.length + s.spf.queue.length + 1) s else s)

/-! ### The window -/

/-- Work takes its place at SPF. -/
def spfPush (s : State) (w : SpfWork) : State := spfKick (spfPlace s w)

/-- The access table of T2 refuses a window access. -/
def flashDenied (s : State) (r : Req) : Bool := !aclGrants s 2 r.master r.addr (aclKind r)

/-- The checks a window access meets when it is accepted: R30, the access table of T2, the poison bit of a
write (R34), and SAFE mode (R551); none when it passes. -/
def flashVerdict (s : State) (r : Req) : Option Status :=
  if alignOk 2 r = false then some .errAlign
  else if flashDenied s r then some .errDenied
  else if r.write && r.poison then some .errPoison
  else if r.write && spfSafe s then some .errDenied
  else none

/-- A window access that is refused: a denial by the access table is recorded (R601). -/
def flashRefuse (s : State) (r : Req) (e : Status) : State :=
  spfPush (if alignOk 2 r && flashDenied s r then denyRecord s 2 r.master r.addr (aclKind r) else s) (.refusal r e)

/-- A window request after the fabric has found its target: it takes its place (R553 to R555). -/
def flashIssue (s : State) (r : Req) : State :=
  match flashVerdict s r with
  | some e => flashRefuse s r e
  | none => spfPush (if r.write then cacheDrop s r else s) (.window r)

/-- The oldest waiting window access that satisfies a test becomes a refusal. -/
def expireWindow (p : Req → Bool) : List SpfWork → List SpfWork
  | [] => []
  | .window r :: t => if p r then .refusal r .errTimeout :: t else .window r :: expireWindow p t
  | w :: t => w :: expireWindow p t

/-- The oldest waiting access that satisfies a test completes with BUS_ERR_TIMEOUT, in its master's turn
(R29). -/
def timeoutWindow (s : State) (p : Req → Bool) : State := spfKick (s.onSpf fun f => { f with work := expireWindow p f.work })

/-- FLASH_READ_TIMEOUT (R553). -/
def flashReadTimeout (s : State) : State := timeoutWindow s (fun r => !r.write)

def execFlashReadTimeout (s : State) : Host.Outcome State Fault Refusal := .next (flashReadTimeout s)

/-- FLASH_FENCE_TIMEOUT (R61, R555): only while the fence is still closed. -/
def flashFenceTimeout (s : State) : State :=
  if fenceClosed s then timeoutWindow s (fun r => r.write) else s

def execFlashFenceTimeout (s : State) : Host.Outcome State Fault Refusal := .next (flashFenceTimeout s)

/-! ### The end of an operation -/

/-- The page or erase unit an operation addresses (R62, R63): first offset and size. -/
def flashUnit (s : State) : FlashKind → Nat × Nat
  | .program r =>
    let z := 2 ^ rd s Reg.SPF.GEOM_PAGE_LOG2
    (flashOff r.addr / z * z, z)
  | .erase off size => (off, size)

/-- Bytes of a unit become undefined (R63). -/
def flashUndefine (s : State) (u : Nat × Nat) : State :=
  let d := freeBytes s u.2
  d.2.onMems fun m => { m with flash := putBytes flashDef m.flash u.1 d.1 }

/-- Program bytes: NOR programming clears bits (R554). -/
def norBytes (old new : List Byte) : List Byte := List.zipWith (· &&& ·) old new

/-- What the bytes written read back as (R554): a sound unit holds the AND of old and new; a worn one may hold anything
(R616), and `worn` says what. -/
def readBack (s : State) (r : Req) (worn : Option (List Byte)) : List Byte :=
  let nor := norBytes (bytesAt flashDef s.mems.flash (flashOff r.addr) r.size) r.data
  match worn with
  | some b => if b.length = r.size then b else nor
  | none => nor

/-- A program ends and its bytes are read back (R554). -/
def programDone (s : State) (r : Req) (worn : Option (List Byte)) : State :=
  let off := flashOff r.addr
  let back := readBack s r worn
  let s := s.onMems fun m => { m with flash := putBytes flashDef m.flash off back }
  let s := bump s Reg.SPF.CNT_PROGRAMS 1
  let s := if back = r.data then s
    else raise (wrAll s [(Reg.SPF.LAST_ERR_OFFSET, off), (Reg.SPF.LAST_ERR_STUCK, 0),
      (Reg.SPF.LAST_ERR_VALID, 1)]) Reg.SPF.evVERIFY_FAIL
  complete s r ⟨.ok, []⟩

/-- An erase ends (R557): the unit reads erased. -/
def eraseDone (s : State) (off size : Nat) : State :=
  let s := s.onMems fun m => { m with flash := m.flash.delRange off (off + size) }
  raise (wr (bump s Reg.SPF.CNT_ERASES 1) Reg.SPF.STAT_ERASE_RES 1) Reg.SPF.evERASE_DONE

/-- The operation in progress is over; other work is taken. -/
def flashOpOver (s : State) : State := spfKick (s.onSpf fun f => { f with op := none })

/-- The operation that SPF drives while its clock runs (R83, R636). -/
def spfOp (s : State) : Option FlashOp := if blockRuns s Reg.SPF.page then s.spf.op else none

/-- FLASH_POLL (R554, R557, R64): an idle flash finishes the operation, unless the reset sequence runs
for it or it is marked for abandonment. -/
def flashPoll (idle : Bool) (worn : Option (List Byte)) (s : State) : State :=
  match spfOp s with
  | none => s
  | some o =>
    if !idle || o.stuck || o.dec = .abandon then s
    else match o.kind with
      | .program r => flashOpOver (programDone s r worn)
      | .erase off size => flashOpOver (eraseDone s off size)

def execFlashPoll (idle : Bool) (worn : Option (List Byte)) (s : State) : Host.Outcome State Fault Refusal :=
  .next (flashPoll idle worn s)

/-- FLASH_STUCK (R556): the reset sequence runs; the unit is undefined; a write ends with
BUS_ERR_TIMEOUT. -/
def flashStuck (s : State) : State :=
  match spfOp s with
  | none => s
  | some o =>
    if o.stuck || o.dec = .abandon then s
    else
      let s := s.onSpf fun f => { f with op := some { o with stuck := true } }
      let s := flashUndefine s (flashUnit s o.kind)
      let off := match o.kind with | .program r => flashOff r.addr | .erase off _ => off
      let s := raise (wrAll s [(Reg.SPF.LAST_ERR_OFFSET, off), (Reg.SPF.LAST_ERR_STUCK, 1),
        (Reg.SPF.LAST_ERR_VALID, 1)]) Reg.SPF.evFLASH_STUCK
      match o.kind with
      | .program r => spfKick (complete s r (errC r .errTimeout))
      | .erase _ _ => s

def execFlashStuck (s : State) : Host.Outcome State Fault Refusal := .next (flashStuck s)

/-- An operation abandoned by the flash reset sequence (R62, R63, R558, R564): the unit is undefined,
a write ends with BUS_ERR_TIMEOUT, an erase with ERASE_RES 5. -/
def flashAbandon (s : State) (o : FlashOp) : State :=
  let s := flashUndefine s (flashUnit s o.kind)
  match o.kind with
  | .program r => complete s r (errC r .errTimeout)
  | .erase _ _ => wr s Reg.SPF.STAT_ERASE_RES 5

/-- The record of an abandoned flash operation (R63, R70). -/
def nvRecordFlash (s : State) (o : FlashOp) : State :=
  let kind := match o.kind with | .program _ => 3 | .erase _ _ => 4
  raise (wrAll s [(Reg.PWR.NV_LAST_KIND, kind), (Reg.PWR.NV_LAST_OUTCOME, 1), (Reg.PWR.NV_LAST_OTP_REC, 0),
    (Reg.PWR.NV_ADDR_OFFSET, (flashUnit s o.kind).1)]) Reg.PWR.evNV_ABANDON

/-- FLASH_RESET_DONE (R559): the reset sequence of a stuck operation ends; the mode in use is entered
again before the next operation, so MODE stands. -/
def flashResetDone (s : State) : State :=
  match spfOp s with
  | some o => if o.stuck then flashOpOver s else s
  | none => s

def execFlashResetDone (s : State) : Host.Outcome State Fault Refusal := .next (flashResetDone s)

/-! ### Erase and queue registers -/

/-- The access table of T2 grants a master write rights over the unit (R557). -/
def eraseGranted (s : State) (m off size : Nat) : Bool :=
  (List.range ((size + 4095) / 4096)).all (fun k => aclGrants s 2 m (0x20000000 + off + 4096 * k) 1)

/-- What a write of SPF.ERASE does (R557, R558): `m` writes the word `v`.  SAFE mode and an absent type
refuse it first: neither has a unit to align or to check (DEDUCED, log entry 47). -/
def spfEraseEffect (s : State) (m v : Nat) : State :=
  let off := bits v 0 26
  let lg := eraseLog2 s (bits v 26 2)
  let size := 2 ^ lg
  let busy := s.spf.work.any (fun w => match w with | .erase _ _ _ => true | _ => false)
    || (match s.spf.op with | some o => (match o.kind with | .erase _ _ => true | _ => false) | none => false)
  let res := if rd s Reg.SPF.STAT_MODE = 3 then 7 else if lg = 0 then 6 else if off % size ≠ 0 then 2
    else if eraseGranted s m off size = false then 3 else if busy then 4 else 0
  if res ≠ 0 then raise (wr s Reg.SPF.STAT_ERASE_RES res) Reg.SPF.evERASE_REFUSED
  else spfPush (wr s Reg.SPF.STAT_ERASE_RES 0) (.erase off size s.time.mgt)

/-- The entry a word of Q_CMD spells (R570). -/
def qEntryOf (v : Nat) : QEntry :=
  { unit := clampN 4 32 (bits v 0 6), count := bits v 8 7 + 1, inward := bit v 16, mode8d := bit v 17
    perword := bit v 18, cont := bit v 19, dummy := bits v 20 8, begun := false }

/-- A running sequence goes on with what has just come, and then SPF. -/
def qGo (s : State) : State :=
  spfKick (if s.spf.inSeq then qMove (qFuel s) s else s)

/-- What a write of SPF.Q_CMD does (R561, R570): a push to a full queue has no effect; the rest of a
refused sequence is discarded (R563). -/
def qCmdEffect (s : State) (v : Nat) : State :=
  let e := qEntryOf v
  if s.spf.drop then s.onSpf fun f => { f with drop := e.cont }
  else if 16 ≤ s.spf.queue.length then s
  else qGo (s.onSpf fun f => { f with queue := f.queue ++ [e] })

/-- What a write of SPF.Q_TX does (R570). -/
def qTxEffect (s : State) (v : Nat) : State :=
  if 64 ≤ s.spf.tx.length then wrb s Reg.SPF.Q_STAT_OVER true
  else qGo (s.onSpf fun f => { f with tx := f.tx ++ [v] })

/-- What a read of SPF.Q_RX returns and does (R569). -/
def qRxTake (s : State) : State × Nat :=
  match s.spf.rx with
  | [] => (wrb s Reg.SPF.Q_STAT_UNDER true, 0)
  | w :: t => (qGo (s.onSpf fun f => { f with rx := t }), w)

/-- Q_SEQUENCE_DONE (R561): the flash has done its part of the sequence and returned `got`; the
sequence completes once its words have moved. -/
def qSequenceDone (got : List Word32) (s : State) : State :=
  if s.spf.inSeq = false ∨ blockRuns s Reg.SPF.page = false then s
  else qGo (s.onSpf fun f => { f with feed := some (f.feed.getD [] ++ got.map BitVec.toNat) })

def execQSequenceDone (got : List Word32) (s : State) : Host.Outcome State Fault Refusal :=
  .next (qSequenceDone got s)

/-- A page reset of SPF (R564): the operation in progress is abandoned by the reset sequence, a held
erase is cancelled, the queue and its FIFOs are emptied; waiting window accesses stay.  ERASE_RES stands at its
reset value: 5 is for R62 (R558). -/
def spfPageReset (s : State) : State :=
  let s := match s.spf.op with
    | none => s
    | some o => if o.stuck then s else wr (flashAbandon s o) Reg.SPF.STAT_ERASE_RES 0
  let s := if s.spf.inSeq then emit s (.spf (.select false)) else s
  let s := s.onSpf fun f => { f with
    op := none, queue := [], tx := [], rx := [], inSeq := false, feed := none, drop := false
    work := f.work.filter (fun w => match w with | .window _ | .refusal _ _ => true | .erase _ _ _ | .seq _ => false) }
  spfKick s

/-! ### Discovery -/

/-- Of the parameter headers with an ID, the one of the highest revision (R550 step 3); of equal ones the first. -/
def sfdpPick (id : Nat) : List SfdpTable → Option SfdpTable
  | [] => none
  | x :: t =>
    match sfdpPick id t with
    | none => if x.id.toNat = id then some x else none
    | some y => if x.id.toNat = id ∧ y.major.toNat * 256 + y.minor.toNat ≤ x.major.toNat * 256 + x.minor.toNat then some x else some y

/-- DWORD `n` of a table, counted from 1. -/
def dword (t : SfdpTable) (n : Nat) : Nat := ((t.dwords[n - 1]?).getD 0).toNat

/-- The Basic Flash Parameter Table, the 4-Byte Address Instruction Table, the xSPI Profile 1.0 table (R550). -/
def sfdpBasic (t : Sfdp) : Option SfdpTable := sfdpPick 0xFF00 t.tables
def sfdpFour (t : Sfdp) : Option SfdpTable := sfdpPick 0xFF84 t.tables
def sfdpXspi (t : Sfdp) : Option SfdpTable := sfdpPick 0xFF05 t.tables

/-! The places of the fields in the DWORDs are JESD216's (PRESUMED, log entry 64). -/

/-- DWORD 2: the density in bits. -/
def sfdpDensity (b : SfdpTable) : Nat :=
  if bit (dword b 2) 31 then 2 ^ bits (dword b 2) 0 31 else dword b 2 + 1

/-- DWORDs 8 and 9: log2 of the size of erase type `k`, 0 to 3; 0 where it is absent. -/
def sfdpEraseLog2 (b : SfdpTable) (k : Nat) : Nat := bits (dword b (8 + k / 2)) (16 * (k % 2)) 8

/-- DWORD 10: the typical time in ms of an erase of type `k`. -/
def sfdpEraseTyp (b : SfdpTable) (k : Nat) : Nat :=
  let unit := [1, 16, 128, 1000].getD (bits (dword b 10) (9 + 7 * k) 2) 1
  (bits (dword b 10) (4 + 7 * k) 5 + 1) * unit

/-- DWORD 11: log2 of the page size; the typical time in us of a page program. -/
def sfdpPageLog2 (b : SfdpTable) : Nat := bits (dword b 11) 4 4
def sfdpProgTyp (b : SfdpTable) : Nat := (bits (dword b 11) 8 5 + 1) * (if bit (dword b 11) 13 then 64 else 8)

/-- DWORD 16: soft reset by 0x66 followed by 0x99. -/
def sfdpSoftReset (b : SfdpTable) : Bool := bit (dword b 16) 12

/-- The 4-Byte Address Instruction Table has read, page program, and the erase of the 4 KiB type (R551 code 7). -/
def sfdpFourByte (t : Sfdp) (b : SfdpTable) : Bool :=
  match sfdpFour t with
  | none => false
  | some f => bit (dword f 1) 1 && bit (dword f 1) 6 &&
      (List.range 4).any (fun k => sfdpEraseLog2 b k == 12 && bit (dword f 1) (9 + k))

/-- The code of R551 for the tables found; 0 when discovery succeeds. -/
def sfdpCode (t : Sfdp) : Nat :=
  if t.signature.toNat ≠ 0x50444653 then 1
  else if t.major.toNat ≠ 1 ∨ t.minor.toNat < 6 then 2
  else
    match sfdpBasic t with
    | none => 3
    | some b =>
      if b.dwords.length < 16 then 3
      else if sfdpDensity b ≠ 2 ^ 29 then 4
      else if (List.range 4).all (fun k => sfdpEraseLog2 b k != 12) ∨ sfdpPageLog2 b < 6 then 5
      else if sfdpSoftReset b = false then 6
      else if sfdpFourByte t b = false then 7
      else 0

/-- A maximum time from its typical one (R552). -/
def maxTime (typ mult : Nat) : Nat := typ * 2 * (mult + 1)

/-- The maximum time in ms of an erase of type `k`; 0 where the type is absent (R552). -/
def sfdpEraseMs (b : SfdpTable) (k : Nat) : Nat :=
  if sfdpEraseLog2 b k = 0 then 0 else maxTime (sfdpEraseTyp b k) (bits (dword b 10) 0 4)

/-- MODE, GEOM and TIMES after a discovery that succeeds, with the Basic Flash Parameter Table `b` (R550). -/
def sfdpFill (s : State) (t : Sfdp) (b : SfdpTable) : State :=
  let xspi := (sfdpXspi t).isSome
  let s := wrAll s [
    (Reg.SPF.STAT_MODE, if xspi && t.volatile8d then 2 else 1), (Reg.SPF.STAT_DISC_FAIL, 0),
    (Reg.SPF.GEOM_PAGE_LOG2, sfdpPageLog2 b), (Reg.SPF.GEOM_E1_LOG2, sfdpEraseLog2 b 0),
    (Reg.SPF.GEOM_E2_LOG2, sfdpEraseLog2 b 1), (Reg.SPF.GEOM_E3_LOG2, sfdpEraseLog2 b 2),
    (Reg.SPF.GEOM_E4_LOG2, sfdpEraseLog2 b 3), (Reg.SPF.GEOM_DUMMY_8D, if xspi then t.dummy8d else 0),
    (Reg.SPF.TIMES_PROG_US, maxTime (sfdpProgTyp b) (bits (dword b 11) 0 4))]
  ((List.range 4).foldl (fun s k => wr s (Reg.SPF.ERASE_MS_MS k) (sfdpEraseMs b k)) s).onSpf
    fun f => { f with eraseMs := (List.range 4).map (sfdpEraseMs b) }

/-- What a discovery finds and records (R550, R551). -/
def spfDiscover (s : State) (t : Sfdp) : State :=
  match sfdpCode t, sfdpBasic t with
  | 0, some b => raise (sfdpFill s t b) Reg.SPF.evDISC_DONE
  | _, _ => raise (wrAll s [(Reg.SPF.STAT_MODE, 3), (Reg.SPF.STAT_DISC_FAIL, sfdpCode t)]) Reg.SPF.evDISC_FAIL

end Sys2Proof.Machine
end

