-- ==== Sys2Proof/Machine/Security.lean ====
section
/-! DEFINITION. Security and OTP (chapter 17): records and generations, generation writes, identity key
provisioning, entropy health, access-table commits. -/

namespace Sys2Proof.Machine

/-! ### Records -/

/-- S of a record (R573). -/
def recS : Nat → Nat
  | 1 | 2 | 3 => 1
  | 4 => 12
  | 5 => 52
  | 6 => 12
  | 7 => 24
  | 8 => 12
  | _ => 0

/-- Base word of a record (R573). -/
def recBase : Nat → Nat
  | 1 => 0
  | 2 => 12
  | 3 => 24
  | 4 => 36
  | 5 => 92
  | 6 => 308
  | 7 => 364
  | _ => 468

/-- First word of a generation (R574). -/
def genBase (r g : Nat) : Nat := recBase r + g * (recS r + 2)

/-- The seal word (R574). -/
def sealWord : Nat := 0xA5C35A3C

/-- `n` OTP words from word `a`. -/
def otpWords (s : State) (a : Nat) : Nat → List Nat
  | 0 => []
  | n + 1 => Store.read 0 s.mems.otp a :: otpWords s (a + 1) n

/-- The CRC word of a generation (R574). -/
def genCrc (r g : Nat) (data : List Nat) : Nat :=
  crc32 (BitVec.ofNat 8 r :: BitVec.ofNat 8 g :: wordsLE data)

/-- A generation's data words. -/
def genData (s : State) (r g : Nat) : List Nat := otpWords s (genBase r g) (recS r)

/-- A generation is sealed (R574). -/
def genSealed (s : State) (r g : Nat) : Bool :=
  Store.read 0 s.mems.otp (genBase r g + recS r + 1) == sealWord

/-- A generation is valid (R574). -/
def genValid (s : State) (r g : Nat) : Bool :=
  genSealed s r g && Store.read 0 s.mems.otp (genBase r g + recS r) == genCrc r g (genData s r g)

/-- A generation has some bit at 1 (R580). -/
def genUsed (s : State) (r g : Nat) : Bool :=
  (otpWords s (genBase r g) (recS r + 2)).any (· != 0)

/-- The highest valid generation (R576). -/
def genNewest (s : State) (r : Nat) : Option Nat := [3, 2, 1, 0].find? (fun g => genValid s r g)

/-- The unwritten generation: the one above the highest with any bit at 1 (R580, R581). -/
def genNext (s : State) (r : Nat) : Option Nat :=
  match [3, 2, 1, 0].find? (fun g => genUsed s r g) with
  | none => some 0
  | some 3 => none
  | some g => some (g + 1)

/-- REC_STAT's fields that show the macro now: NEWEST, NVALID, USED (R583). -/
def recStat (s : State) (r : Nat) : State :=
  let n := genNewest s r
  wrAll s [(Reg.OTP.REC_STAT_NEWEST r, n.getD 0), (Reg.OTP.REC_STAT_NVALID r, b2n n.isSome),
    (Reg.OTP.REC_STAT_USED r, ([0, 1, 2, 3].filter (fun g => genUsed s r g)).length)]

/-- The data of a record as loaded. -/
def loadedData (s : State) (r : Nat) : Option (List Nat) :=
  (s.otp.loaded.find? (fun e => e.1 == r)).map (fun e => e.2.2)

/-- Word `i` of a record as loaded, or its default (R573). -/
def recWord (s : State) (r i d : Nat) : Nat :=
  match loadedData s r with
  | none => d
  | some l => l[i]?.getD 0

/-- Load one record (R576). -/
def loadRec (s : State) (r : Nat) : State :=
  let n := genNewest s r
  let above := match n with | none => [0, 1, 2, 3] | some g => [0, 1, 2, 3].filter (fun k => g < k)
  let decay := above.any (fun g => genSealed s r g)
  let s := match n with
    | none => s.onOtp fun o => { o with loaded := o.loaded.filter (fun e => e.1 != r) }
    | some g =>
      let d := genData s r g
      s.onOtp fun o => { o with loaded := o.loaded.filter (fun e => e.1 != r) ++ [(r, (g, d))] }
  let s := wrAll (recStat s r) [(Reg.OTP.REC_STAT_LOADED r, n.getD 0), (Reg.OTP.REC_STAT_LVALID r, b2n n.isSome),
    (Reg.OTP.REC_STAT_DECAY r, b2n decay)]
  raiseIf decay s Reg.OTP.evDECAY

/-- The identity key of a scalar comes into use (R588 step 4, R595). -/
def keyInUse (s : State) (scalar : List Nat) : State :=
  let s := s.onSec fun k => { k with key := some scalar }
  let pub := packWords32 25 (pointBytes (p384Mul (beNat (wordsLE scalar)) p384g))
  let s := (List.range 25).foldl (fun s k => wr s (Reg.SEC.ID_PUB_DATA k) (pub[k]?.getD 0)) s
  wrb s Reg.SEC.STAT_KEY true

/-- Every record is loaded (R577), and what is taken from records: CLK.SETTLE (R94), DEV.BOOT_WDT.MS
(R159), the identity key (R595). -/
def otpLoad (s : State) : State :=
  let s := [1, 2, 3, 4, 5, 6, 7, 8].foldl loadRec s
  let s := wrAll s [(Reg.CLK.SETTLE_US, recWord s 1 0 100000),
    (Reg.CLK.SETTLE_FROM_OTP, b2n (loadedData s 1).isSome),
    (Reg.DEV.BOOT_WDT_MS, clampN 100 60000 (recWord s 2 0 5000 % 65536))]
  match loadedData s 8 with
  | none => s
  | some d => keyInUse s d

/-! ### Generation writes -/

/-- The content of a request breaks R579. -/
def contentBad (s : State) (r : Nat) (data : List Nat) : Bool :=
  r == 3 && (data.headD 0 / 256 != 0 || data.headD 0 % 256 ≤ recWord s 3 0 0 % 256
    || rd s Reg.DEV.IMG_SECVER < data.headD 0 % 256)

/-- The code of STAT.LAST with which a request for record `r` is refused; 0 when accepted (R578). -/
def otpRefusal (s : State) (r : Nat) (data : List Nat) : Nat :=
  if r = 0 ∨ 7 < r ∨ contentBad s r data = true then 5
  else if rdb s Reg.PWR.FENCE_STAT_OTP_BUSY ∨ rdb s Reg.PWR.FENCE_STAT_KEY_BUSY then 4
  else if (genNext s r).isNone then 3
  else if fenceClosed s then 2 else 0

/-- What a write of OTP.CMD with GO at 1 does (R578). -/
def otpCmdEffect (s : State) (r : Nat) : State :=
  let data := (List.range (recS r)).map (fun k => rd s (Reg.OTP.WBUF_DATA k))
  let c := otpRefusal s r data
  let s := wr s Reg.OTP.STAT_LAST_REC r
  if c ≠ 0 then raise (wr s Reg.OTP.STAT_LAST c) Reg.OTP.evGEN_REFUSED
  else
    let g := (genNext s r).getD 0
    let t := s.time.uptime
    let s := s.onOtp fun o => { o with op := some ⟨r, g, data, t, .none⟩ }
    nvBusy (wrAll s [(Reg.OTP.STAT_BUSY, 1), (Reg.OTP.STAT_LAST, 0), (Reg.OTP.STAT_LAST_GEN, g)])

/-- Program OTP words from word `a`: bits can only become 1. -/
def otpProgram (l : Store Nat) (a : Nat) : List Nat → Store Nat
  | [] => l
  | w :: t => otpProgram (Store.write 0 l a (Store.read 0 l a ||| w)) (a + 1) t

/-- The words of a generation in the order they are written (R575). -/
def genWords (r g : Nat) (data : List Nat) : List Nat := data ++ [genCrc r g data, sealWord]

/-- The first `n` words of a generation are in the macro. -/
def genProgram (s : State) (r g : Nat) (data : List Nat) (n : Nat) : State :=
  recStat (s.onMems fun m => { m with otp := otpProgram m.otp (genBase r g) ((genWords r g data).take n) }) r

/-- A write of generation 3 has ended (R581). -/
def genLast (s : State) (g : Nat) : State := raiseIf (g == 3) s Reg.OTP.evGEN_LAST

/-- A requested generation is sealed (R578). -/
def otpSealGen (s : State) (o : OtpOp) : State :=
  let s := genProgram s o.rid o.gen o.data (o.data.length + 2)
  let s := nvBusy (s.onOtp fun t => { t with op := none })
  genLast (raise (wrAll s [(Reg.OTP.STAT_BUSY, 0), (Reg.OTP.STAT_LAST, 1)]) Reg.OTP.evGEN_SEALED) o.gen

/-- A provisioning ends. -/
def provEnd (s : State) : State :=
  wrb (nvBusy (s.onSec fun k => { k with prov := false, drawn := none, provDec := .none })) Reg.SEC.STAT_PROV_BUSY false

/-- The identity key's generation is sealed (R588 step 4). -/
def provSeal (s : State) (g : Nat) (scalar : List Nat) : State :=
  let s := provEnd (genProgram s 8 g scalar (scalar.length + 2))
  let s := wrAll s [(Reg.OTP.REC_STAT_LOADED 8, g), (Reg.OTP.REC_STAT_LVALID 8, 1), (Reg.SEC.STAT_PROV_RES, 1)]
  let s := s.onOtp fun o => { o with loaded := o.loaded.filter (fun e => e.1 != 8) ++ [(8, (g, scalar))] }
  genLast (raise (keyInUse s scalar) Reg.SEC.evPROV_DONE) g

/-- OTP_SEALED (R575, R578, R588): the generation write in progress finishes its seal word, unless it
is marked for abandonment. -/
def otpSealed (s : State) : State :=
  match s.otp.op with
  | some o => if o.dec = .abandon then s else otpSealGen s o
  | none => match s.sec.drawn with
    | some (g, sc) => if s.sec.provDec = .abandon then s else provSeal s g sc
    | none => s

def execOtpSealed (s : State) : Host.Outcome State Fault Refusal := .next (otpSealed s)

/-! ### Provisioning, entropy, signing -/

/-- The code of PROV_RES with which provisioning is refused; 0 when accepted (R588). -/
def provRefusal (s : State) : Nat :=
  if (genNewest s 8).isSome then 3
  else if rdb s Reg.PWR.FENCE_STAT_OTP_BUSY ∨ rdb s Reg.PWR.FENCE_STAT_KEY_BUSY then 4
  else if (genNext s 8).isNone then 7
  else if fenceClosed s then 2
  else if rdb s Reg.SEC.STAT_RNG_OK = false then 6 else 0

/-- A request of provisioning (R588, R589). -/
def provisionEffect (s : State) : State :=
  let c := provRefusal s
  if c ≠ 0 then raise (wr s Reg.SEC.STAT_PROV_RES c) Reg.SEC.evPROV_REFUSED
  else
    let t := s.time.uptime
    let s := s.onSec fun k => { k with prov := true, drawn := none, provAt := t, provDec := .none }
    nvBusy (wrb s Reg.SEC.STAT_PROV_BUSY true)

/-- The 48 bytes of SEC.SIGN_IN. -/
def signIn (s : State) : List Byte := wordsLE ((List.range 12).map (fun k => rd s (Reg.SEC.SIGN_IN_DATA k)))

/-- The slot whose REPLY waits for its signature, lowest first. -/
def replySlot (s : State) : Option Nat := (List.range 8).find? (fun k => (s.ses k).exch == .signing)

/-- The signature that SEC takes up next (R592): of a KEYX REPLY, then of a SIGN command, then of the oldest
report. -/
def nextJob (s : State) : Option SigJob :=
  match replySlot s with
  | some k => some (.reply k)
  | none => if s.sec.sign.isSome then some .command else s.sec.reports.head?.map .report

/-- What a signature is made of still waits for it. -/
def jobWanted (s : State) : SigJob → Bool
  | .reply k => (s.ses k).exch == .signing
  | .command => s.sec.sign.isSome
  | .report r => s.sec.reports.contains r

/-- SEC takes up its next signature if it makes none (R592); what waits since the same FAB cycle is ordered before it
begins (R339). -/
def signNext (s : State) : State :=
  let keep := match s.sec.making with
    | some (j, c) => c != s.time.cycle && jobWanted s j
    | none => false
  if keep then s
  else
    let c := s.time.cycle
    let j := nextJob s
    s.onSec fun k => { k with making := j.map (·, c) }

/-- A request of a signature (R592). -/
def signEffect (s : State) : State :=
  if rdb s Reg.SEC.STAT_SIGN_BUSY then wr s Reg.SEC.STAT_SIGN_RES 3
  else if rdb s Reg.SEC.STAT_KEY = false then wr s Reg.SEC.STAT_SIGN_RES 2
  else
    let d := signIn s
    signNext (wrb (s.onSec fun k => { k with sign := some d }) Reg.SEC.STAT_SIGN_BUSY true)

/-- What a write of SEC.CMD does (R595). -/
def secCmdEffect (s : State) (v : Nat) : State :=
  let s := if bit v 0 then provisionEffect s else s
  if bit v 1 then signEffect s else s

/-- A private scalar in range (R588 step 2), as its record's 12 words hold it (R573). -/
def scalarOk (scalar : List Nat) : Bool :=
  scalar.length == 12 && decide (1 ≤ beNat (wordsLE scalar)) && decide (beNat (wordsLE scalar) < p384n)

/-- PROVISION_KEY_DRAWN (R588 steps 2 and 3): a candidate out of range is not taken. -/
def provisionKeyDrawn (scalar : List Word32) (s : State) : State :=
  let sc := scalar.map BitVec.toNat
  if s.sec.prov = false ∨ s.sec.drawn.isSome ∨ s.sec.provDec = .abandon ∨ scalarOk sc = false then s
  else
    let g := (genNext s 8).getD 0
    let t := s.time.uptime
    nvBusy (s.onSec fun k => { k with drawn := some (g, sc), provAt := t })

def execProvisionKeyDrawn (scalar : List Word32) (s : State) : Host.Outcome State Fault Refusal :=
  .next (provisionKeyDrawn scalar s)

/-- RNG_FAIL (R590). -/
def rngFail (s : State) : State := raise (wrb s Reg.SEC.STAT_RNG_OK false) Reg.SEC.evRNG_FAIL

def execRngFail (s : State) : Host.Outcome State Fault Refusal := .next (rngFail s)

/-- RNG_RECOVER (R590). -/
def rngRecover (s : State) : State := wrb s Reg.SEC.STAT_RNG_OK true

def execRngRecover (s : State) : Host.Outcome State Fault Refusal := .next (rngRecover s)

/-! ### Abandonment (R62, R63) -/

/-- The record of an abandoned OTP operation (R63, R70). -/
def nvRecordOtp (s : State) (kind rid : Nat) : State :=
  raise (wrAll s [(Reg.PWR.NV_LAST_KIND, kind), (Reg.PWR.NV_LAST_OUTCOME, 1), (Reg.PWR.NV_LAST_OTP_REC, rid),
    (Reg.PWR.NV_ADDR_OFFSET, 0)]) Reg.PWR.evNV_ABANDON

/-- The words in the macro at the safe point of a generation write: through the word in progress, never
the seal (R62). -/
def abandonedWords (n words : Nat) : Nat := clampN 1 (n + 1) words

/-- An OTP generation write is abandoned with `words` words written (R578, R581). -/
def otpAbandon (s : State) (o : OtpOp) (words : Nat) : State :=
  let s := genProgram s o.rid o.gen o.data (abandonedWords o.data.length words)
  let s := nvBusy (s.onOtp fun t => { t with op := none })
  nvRecordOtp (genLast (wrAll s [(Reg.OTP.STAT_BUSY, 0), (Reg.OTP.STAT_LAST, 6)]) o.gen) 1 o.rid

/-- A provisioning is abandoned (R589). -/
def provAbandon (s : State) (words : Nat) : State :=
  let s := match s.sec.drawn with
    | none => s
    | some (g, sc) => genLast (genProgram s 8 g sc (abandonedWords sc.length words)) g
  nvRecordOtp (raise (wr (provEnd s) Reg.SEC.STAT_PROV_RES 5) Reg.SEC.evPROV_REFUSED) 2 8

/-- NV_ABANDON (R62 to R64): operation `kind` (0 an OTP generation write, 1 a key provisioning, 2 a flash
program or erase) reaches its safe point, `words` OTP words being written. -/
def nvAbandon (kind : Fin 3) (words : Nat) (s : State) : State :=
  match kind with
  | 0 => (match s.otp.op with
    | some o => if o.dec = .abandon then otpAbandon s o words else s
    | none => s)
  | 1 => if s.sec.prov = true ∧ s.sec.provDec = .abandon then provAbandon s words else s
  | 2 => (match s.spf.op with
    | some o =>
      if o.dec = .abandon ∧ o.stuck = false then nvRecordFlash (flashOpOver (flashAbandon s o)) o else s
    | none => s)

def execNvAbandon (kind : Fin 3) (words : Nat) (s : State) : Host.Outcome State Fault Refusal :=
  .next (nvAbandon kind words s)

/-- An NV operation is in progress (R65). -/
def nvRunning (s : State) : Bool := s.otp.op.isSome || s.sec.prov || s.spf.op.isSome

/-! ### Access tables -/

/-- STAT.LOCKED and STAT.ENABLED (R604). -/
def aclCount (s : State) (t : Nat) : State :=
  wrAll s [(Reg.ACL.STAT_LOCKED t, ((List.range 64).filter (fun r => rdb s (Reg.ACL.RGN_BASE_LOCK t r))).length),
    (Reg.ACL.STAT_ENABLED t, ((List.range 64).filter (fun r => rdb s (Reg.ACL.RGN_BASE_EN t r))).length)]

/-- A commit of ACL[t] (R600): what was locked stays locked. -/
def aclCommit (s : State) (t : Nat) (old : Fld → Nat) : State :=
  let s := (List.range 64).foldl (fun s r =>
    if old (Reg.ACL.RGN_BASE_LOCK t r) = 1 then wrb s (Reg.ACL.RGN_BASE_LOCK t r) true else s) s
  aclCount s t

/-- The offset of an ACL page lies in a region that is locked (R600). -/
def aclLocked (s : State) (t off : Nat) : Bool :=
  256 ≤ off && off < 1280 && rdb s (Reg.ACL.RGN_BASE_LOCK t ((off - 256) / 16))

end Sys2Proof.Machine
end

