-- ==== Sys2Proof/Machine/Power.lean ====
section
/-! DEFINITION. Package and power (chapter 02): rails, sag monitors, the write fence, the hold-up bank,
thermal protection. -/

namespace Sys2Proof.Machine

/-- CAUSE_HOLDUP (R59, R66). -/
def holdupCause (s : State) : Bool :=
  !rdb s Reg.PWR.HOLDUP_VALID || !s.pwr.bankFull || decide (rd s Reg.PWR.HOLDUP_BUDGET_MS < 50)

/-- Some cause holds the fence closed (R59). -/
def fenceWanted (s : State) : Bool :=
  rdb s Reg.PWR.FENCE_STAT_CAUSE_VIN || rdb s Reg.PWR.FENCE_STAT_CAUSE_VNV
    || rdb s Reg.PWR.FENCE_CTL_HOLD || holdupCause s

/-- The fence follows its causes (R59): each closing counts, raises FENCE_CLOSE and decides the NV
operations in progress (R62); each opening raises FENCE_OPEN, and held work begins (R61, R558). -/
def fenceFollow (s : State) : State :=
  let was := fenceClosed s
  let now := fenceWanted s
  let s := wrAll s [(Reg.PWR.FENCE_STAT_CAUSE_HOST, rd s Reg.PWR.FENCE_CTL_HOLD),
    (Reg.PWR.FENCE_STAT_CAUSE_HOLDUP, b2n (holdupCause s)), (Reg.PWR.FENCE_STAT_CLOSED, b2n now)]
  if now && !was then
    spfRegs (nvDecide (raise (bump s Reg.PWR.FENCE_CNT_COUNT 1) Reg.PWR.evFENCE_CLOSE))
  else if was && !now then spfKick (eraseReady (raise s Reg.PWR.evFENCE_OPEN))
  else s

/-- The internal power-on reset has released: the device is powered (R126 step 2). -/
def powered (s : State) : Bool := s.boot.stage != .off && s.boot.stage != .rising

/-- Rail `r` leaves regulation (R56, R638). -/
def railOut (s : State) (r : Nat) : State :=
  let s := s.onPwr fun p => { p with rails := clrBit p.rails r }
  if powered s = false then s
  else
    let s := wr s Reg.PWR.RAIL_STAT_FAULTED (setBit (rd s Reg.PWR.RAIL_STAT_FAULTED) r)
    let s := raise s Reg.PWR.evRAIL_FAULT
    let s := if r = 0 then
        fenceFollow (wrb (s.onPwr fun p => { p with bankFull := false }) Reg.PWR.FENCE_STAT_ON_HOLDUP true)
      else s
    follow s

/-- RAIL_FAULT (R56): a rail in regulation leaves it; one that fails before the release of the power-on reset
holds the power-up sequence and sets nothing. -/
def railFault (r : Fin 8) (s : State) : State :=
  let s := s.onPwr fun p => { p with failed := setBit p.failed r }
  if bit s.pwr.rails r then railOut s r else s

def execRailFault (r : Fin 8) (s : State) : Host.Outcome State Fault Refusal := .next (railFault r s)

/-- RAIL_RETURN (R56, R638) on a powered device: GOOD is set again; the island leaves the bank when VIB is
back. -/
def railBack (r : Fin 8) (s : State) : State :=
  let s := s.onPwr fun p => { p with rails := setBit p.rails r }
  if r = 0 then fenceFollow (wrb s Reg.PWR.FENCE_STAT_ON_HOLDUP false) else s

/-- VIN_SAG (R58, R59).  A monitor that is below threshold stays so until it is above again, so a second sag
within the dwell raises nothing (DESIGN CHOICE, log entry 54). -/
def vinSag (s : State) : State :=
  if rdb s Reg.PWR.FENCE_STAT_CAUSE_VIN then s
  else fenceFollow (raise (wrb s Reg.PWR.FENCE_STAT_CAUSE_VIN true) Reg.PWR.evVIN_SAG)

def execVinSag (s : State) : Host.Outcome State Fault Refusal := .next (vinSag s)

/-- VNV_SAG (R58, R59), as VIN_SAG. -/
def vnvSag (s : State) : State :=
  if rdb s Reg.PWR.FENCE_STAT_CAUSE_VNV then s
  else fenceFollow (raise (wrb s Reg.PWR.FENCE_STAT_CAUSE_VNV true) Reg.PWR.evVNV_SAG)

def execVnvSag (s : State) : Host.Outcome State Fault Refusal := .next (vnvSag s)

/-- SAG_RECOVER (R58, R59). -/
def sagRecover (vnv : Bool) (s : State) : State :=
  fenceFollow (if vnv then wrb s Reg.PWR.FENCE_STAT_CAUSE_VNV false
    else wrb s Reg.PWR.FENCE_STAT_CAUSE_VIN false)

def execSagRecover (vnv : Bool) (s : State) : Host.Outcome State Fault Refusal := .next (sagRecover vnv s)

/-- A request whose completion reaches nobody (R146 step 1). -/
def vanish (r : Req) : Req := { r with dead := true }

/-- SPF with no work waiting; the operation in progress goes on (R65). -/
def spfDropped (f : SpfH) : SpfH :=
  { SpfH.reset with eraseMs := f.eraseMs, op := f.op.map (fun o => { o with kind := match o.kind with
      | .program r => .program (vanish r)
      | k => k }) }

/-- The fabric stops accepting requests, and those in progress are abandoned without completion (R146
step 1). -/
def dropRequests (s : State) : State :=
  let s := s.onBus fun b => { b with waiting := [], commits := [], latches := [], accepting := false }
  let s := s.onMemc fun m => { m with pending := [] }
  (s.onSpf spfDropped).onSpm fun x => { x with out := none }

/-- Everything outside the NV island loses power (R638): no clock, no request, no rail but VNV; every signal land
but PRESENT_N goes high impedance (R48). -/
def loseVin (s : State) : State :=
  let s := (dropRequests (s.onBoot fun b => { b with stage := .off })).onSpm fun x => { x with queue := [] }
  let s := s.onClk fun c => { c with cur := Vector.replicate 6 .stopped, next := Vector.replicate 6 none }
  let s := wrAll s [(Reg.CLK.DOM_STAT_BUSY, 0), (Reg.CLK.DOM_STAT_OVERSPEED, 0),
    (Reg.CLK.DOM_STAT_ON_BYPASS, 0), (Reg.CLK.DOM_STAT_RUNNING, 0), (Reg.CLK.ROOT_STAT_STATE, 0)]
  let s := s.onTime fun t => { t with outEnd := none }
  follow (s.onPwr fun p => { p with rails := 128, goodSeen := false })

/-- FIRST_STAGE_STOP (R58, R638): the VIN monitor goes below threshold at once, VIB leaves regulation,
the island runs from the bank; everything outside it loses power. -/
def firstStageStop (s : State) : State :=
  if powered s then loseVin (railOut (vinSag s) 0)
  else if s.boot.stage = .rising then loseVin s else s

def execFirstStageStop (s : State) : Host.Outcome State Fault Refusal := .next (firstStageStop s)

/-- HOLDUP_MEASURED (R57, R59, R66): once after each power-on reset. -/
def holdupMeasured (ms : BitVec 16) (s : State) : State :=
  if rdb s Reg.PWR.HOLDUP_VALID then s
  else
    let s := wr (wr s Reg.PWR.HOLDUP_BUDGET_MS ms.toNat) Reg.PWR.HOLDUP_VALID 1
    fenceFollow (raiseIf (decide (ms.toNat < 100)) s Reg.PWR.evHOLDUP_LOW)

def execHoldupMeasured (ms : BitVec 16) (s : State) : Host.Outcome State Fault Refusal :=
  .next (holdupMeasured ms s)

/-- HOLDUP_CHARGED (R57, R638): the bank is full, unless the island still draws on it. -/
def holdupCharged (s : State) : State :=
  if rdb s Reg.PWR.FENCE_STAT_ON_HOLDUP then s
  else fenceFollow (s.onPwr fun p => { p with bankFull := true })

def execHoldupCharged (s : State) : Host.Outcome State Fault Refusal := .next (holdupCharged s)

/-- VOLT_MEAS_UPDATE (R70). -/
def voltMeasUpdate (vin vnv : BitVec 16) (s : State) : State :=
  wr (wr s Reg.PWR.VIN_MEAS_MV vin.toNat) Reg.PWR.VNV_MEAS_MV vnv.toNat

def execVoltMeasUpdate (vin vnv : BitVec 16) (s : State) : Host.Outcome State Fault Refusal :=
  .next (voltMeasUpdate vin vnv s)

/-- THERM_SAMPLE (R67, R68): a reading that reaches WARN_C raises THERM_WARN; one that reaches 120 degrees raises
THERM_CRIT and stops the traffic machine until a device reset.  A reading reaches a limit when the one before
lay below it: a commit that lowers WARN_C to or below the present reading raises nothing (DESIGN CHOICE, log
entry 54). -/
def thermSample (tj : BitVec 8) (s : State) : State :=
  let old := sext 8 (rd s Reg.PWR.THERM_TJ_MAX_C)
  let warn : Int := rd s Reg.PWR.THERM_WARN_C
  let s := wr s Reg.PWR.THERM_TJ_MAX_C tj.toNat
  let s := raiseIf (decide (old < warn) && decide (warn ≤ tj.toInt)) s Reg.PWR.evTHERM_WARN
  if tj.toInt < 120 ∨ (120 ≤ old ∧ s.pwr.therm = true) then s
  else follow (raise (s.onPwr fun p => { p with therm := true }) Reg.PWR.evTHERM_CRIT)

def execThermSample (tj : BitVec 8) (s : State) : Host.Outcome State Fault Refusal := .next (thermSample tj s)

/-- The sag thresholds and the fence control after a commit (R58, R59). -/
def pwrCommit (s : State) : State := fenceFollow s

/-- A page reset of PWR (R56, R71, R144): what stays is the hold-up measurement, FAULTED and the present
conditions; HOLD returns to 0. -/
def pwrPageReset (s : State) (old : Fld → Nat) : State :=
  let s := wrAll s [(Reg.PWR.HOLDUP_BUDGET_MS, old Reg.PWR.HOLDUP_BUDGET_MS),
    (Reg.PWR.HOLDUP_VALID, old Reg.PWR.HOLDUP_VALID), (Reg.PWR.RAIL_STAT_FAULTED, old Reg.PWR.RAIL_STAT_FAULTED),
    (Reg.PWR.FENCE_STAT_CLOSED, old Reg.PWR.FENCE_STAT_CLOSED),
    (Reg.PWR.FENCE_STAT_CAUSE_VIN, old Reg.PWR.FENCE_STAT_CAUSE_VIN),
    (Reg.PWR.FENCE_STAT_CAUSE_VNV, old Reg.PWR.FENCE_STAT_CAUSE_VNV),
    (Reg.PWR.FENCE_STAT_CAUSE_HOLDUP, old Reg.PWR.FENCE_STAT_CAUSE_HOLDUP),
    (Reg.PWR.FENCE_STAT_ON_HOLDUP, old Reg.PWR.FENCE_STAT_ON_HOLDUP)]
  fenceFollow (nvBusy s)

/-! ### Signal lands (R48, R49, R55) -/

/-- PWRGOOD is high exactly while every bit of RAIL_STAT.GOOD is 1 (R55). -/
def pwrgoodPin (s : State) : Level := if s.boot.stage = .off then .z else if s.pwr.rails % 256 = 255 then .high else .low

/-- The states of R49 hold: PWRGOOD has not yet risen, or RESET_N is low. -/
def landsHeld (s : State) : Bool := !s.pwr.goodSeen || !s.pwr.resetN

/-- FAULT_N, a push-pull output (R49, R187). -/
def faultNPin (s : State) : Level :=
  if s.boot.stage = .off then .z else if landsHeld s || s.evt.faultLow then .low else .high

/-- EVT_N, an open-drain output (R49, R189). -/
def evtNPin (s : State) : Level := if s.boot.stage = .off then .z else if evtNLow s then .low else .z

/-- SYNC_OUT (R49, R111, R146 step 1). -/
def syncOutPin (s : State) : Level :=
  if s.boot.stage = .off then .z else if !landsHeld s && s.time.outEnd.isSome then .high else .low

/-- SPM_DO and SPM_STB are high impedance: VIN is absent, the states of R49 hold, the select is high, or SPM does
not answer yet (R48, R49, R533). -/
def spmPinsFloat (s : State) : Bool :=
  s.boot.stage == .off || landsHeld s || !rdb s Reg.SPM.STAT_FRAME ||
    [BootStage.rising, .settling, .held, .resetting].contains s.boot.stage

/-- Every transmit lane is electrically idle for want of power, or under R49 or R146 step 1. -/
def lanesIdle (s : State) : Bool := s.boot.stage == .off || landsHeld s || !s.bus.accepting

end Sys2Proof.Machine
end

