-- ==== Sys2Proof/Machine/Elapse.lean ====
section
/-! DEFINITION. The passing of time (R87 to R89, R361): what an interval adds to device time, to TICK,
to the MGT count and to the cycle count, and the moves of the timed commands to their instants (log
entry 11). -/

namespace Sys2Proof.Machine

/-- The root oscillator runs locked, at 12 GHz; else it is taken at its lowest frequency (R77). -/
def rootLocked (s : State) : Bool := rd s Reg.CLK.ROOT_STAT_STATE == 2

/-- Period of a domain's clock in 1/36 ns; 0 while it delivers no edges. -/
def domPeriod (s : State) (d : Nat) : Nat :=
  if domSwitching s d then 0 else srcPeriod (rootLocked s) (vget s.clk.cur .stopped d)

/-- FAB runs from the root while the loop acquires (R89). -/
def fabMeasured (s : State) : Bool :=
  rd s Reg.CLK.ROOT_STAT_STATE == 1 && (match vget s.clk.cur .stopped 2 with | .root _ => true | _ => false)

/-- Root divider of FAB. -/
def fabDiv (s : State) : Nat := match vget s.clk.cur .stopped 2 with | .root d => d | _ => 0

/-- Device time moves on by a number of 1/36 ns, modulo 2^64 ns; the next SYNC_OUT instant is counted from the
same zero. -/
def addUnits (s : State) (n : Nat) : State :=
  s.onTime fun t =>
    let u := t.units + n
    { t with units := u % (36 * 2 ^ 64), nextOut := if u < 36 * 2 ^ 64 then t.nextOut else t.nextOut - 2 ^ 64 }

/-- A FAB cycle at the present measured period, in 2^-16 of 1/36 ns (R89). -/
def measPeriod (s : State) : Nat := fabDiv s * s.clk.measQ

/-- FAB cycles that begin in what is left of the present 1 us window of the monitor reference, at the present
measured period (R89). -/
def winCycles (s : State) : Nat :=
  if measPeriod s = 0 then 0 else (36000 * 65536 - s.clk.winUnits + measPeriod s - 1) / measPeriod s

/-- What `n` FAB cycles at the present measured period add to device time, in 1/36 ns, and the fraction they leave
(R89): the device carries 16 further bits of fraction. -/
def measSpan (s : State) (n : Nat) : Nat × Nat :=
  ((s.time.sub + n * measPeriod s) / 65536, (s.time.sub + n * measPeriod s) % 65536)

/-- FAB cycles that fit in `du` 1/36 ns at the present measured period. -/
def measFit (s : State) (du : Nat) : Nat :=
  if measPeriod s = 0 then 0 else ((du + 1) * 65536 - 1 - s.time.sub) / measPeriod s

/-- `n` FAB cycles of device time at the present measured period, within one window (R89). -/
def addAtPeriod (s : State) (n : Nat) : State :=
  let d := measSpan s n
  let w := s.clk.winUnits + n * measPeriod s
  addUnits ((s.onTime fun x => { x with sub := d.2, cycle := x.cycle + n }).onClk fun c => { c with winUnits := w }) d.1

/-- The next window begins: the root period measured over the one before, a free value between the two of R87,
is the one that counts in it (R89). -/
def nextPeriod (s : State) : State :=
  let f := free s
  f.2.onClk fun c => { c with measQ := 3 * 65536 + f.1 % 65537, winUnits := c.winUnits - 36000 * 65536 }

/-- The FAB cycles of `du` 1/36 ns while the loop acquires, window by window, and the time that is left over (R89);
`fuel` bounds the windows. -/
def addMeasured : Nat → State → Nat → State × Nat
  | 0, s, du => (s, du)
  | fuel + 1, s, du =>
    let k := min (measFit s du) (winCycles s)
    let t := addAtPeriod s k
    if k < winCycles s then (t, du - (measSpan s k).1) else addMeasured fuel (nextPeriod t) (du - (measSpan s k).1)

/-- `n` FAB cycles at a period of 1/36 ns. -/
def addCycles (s : State) (n : Nat) : State :=
  addUnits (s.onTime fun t => { t with cycle := t.cycle + n }) (n * domPeriod s 2)

/-- Whole periods of a domain in an interval, and what is left; none while the domain delivers no
edges. -/
def periodsIn (rem du p : Nat) : Nat × Nat := if p = 0 then (0, rem) else ((rem + du) / p, (rem + du) % p)

/-- The FAB cycles of an interval: what is left over of it counts in the next one. -/
def fabPass (s : State) (du : Nat) : State :=
  if fabMeasured s && domPeriod s 2 != 0 then
    let x := addMeasured ((s.time.fabRem + du) / 30000 + 2) s (s.time.fabRem + du)
    x.1.onTime fun t => { t with fabRem := x.2 }
  else
    let f := periodsIn s.time.fabRem du (domPeriod s 2)
    addCycles (s.onTime fun t => { t with fabRem := f.2 }) f.1

/-- An interval of `du` 1/36 ns passes: device time, TICK, the cycle counts; and what holds in it marks
the windows in progress. -/
def elapse (s : State) (du : Nat) : State :=
  let m := periodsIn s.time.mgtRem du (domPeriod s 4)
  let l := periodsIn s.time.sloRem du (domPeriod s 5)
  let s := s.onTime fun t =>
    { t with uptime := t.uptime + du, mgtRem := m.2, mgt := t.mgt + m.1, sloRem := l.2, tick := (t.tick + l.1) % 2 ^ 64 }
  (List.range 16).foldl markWindows (fabPass s du)

/-- Time moves on to an uptime that lies ahead. -/
def advUp (s : State) (t : Nat) : State := if s.time.uptime < t then elapse s (t - s.time.uptime) else s

/-- Time moves on to a TICK that lies ahead. -/
def advTick (s : State) (t : Nat) : State :=
  if s.time.tick < t ∧ domPeriod s 5 ≠ 0 then
    elapse s ((t - s.time.tick) * domPeriod s 5 - s.time.sloRem)
  else s

/-- `n` FAB cycles pass while the loop acquires, window by window (R89). -/
def passMeasured : Nat → State → Nat → State
  | 0, s, _ => s
  | fuel + 1, s, n =>
    let k := min n (winCycles s)
    let t := elapse s ((measSpan s k).1 - s.time.fabRem)
    if n ≤ k then t else passMeasured fuel t (n - k)

/-- `n` FAB cycles pass. -/
def passCycles (s : State) (n : Nat) : State :=
  if fabMeasured s && domPeriod s 2 != 0 then passMeasured (n + 1) s n else elapse s (n * domPeriod s 2 - s.time.fabRem)

/-- While the loop acquires, time moves on to the first FAB cycle at or after `u` 1/36 ns of device time, window by
window. -/
def advMeasured : Nat → State → Nat → State
  | 0, s, _ => s
  | fuel + 1, s, u =>
    if u ≤ s.time.units ∨ measPeriod s = 0 then s
    else
      let need := ((u - s.time.units) * 65536 - s.time.sub + measPeriod s - 1) / measPeriod s
      advMeasured fuel (elapse s ((measSpan s (min need (winCycles s))).1 - s.time.fabRem)) u

/-- Time moves on to the first FAB cycle at or after a device time in ns that lies ahead. -/
def advNs (s : State) (t : Nat) : State :=
  if s.time.units < 36 * t ∧ domPeriod s 2 ≠ 0 then
    let d := 36 * t - s.time.units
    let p := domPeriod s 2
    if fabMeasured s then advMeasured (d / 27000 + 2) s (36 * t) else passCycles s ((d + p - 1) / p)
  else s

/-- One FAB cycle passes. -/
def fabTick (s : State) : State := passCycles s 1

end Sys2Proof.Machine
end

