-- ==== Sys2Proof/Machine/Events.lean ====
section
/-! DEFINITION. The event log ring and the fault pin (chapter 05). -/

namespace Sys2Proof.Machine

/-! ### The log ring -/

/-- LOG_BASE (R178). -/
def logBase (s : State) : Nat :=
  rd s Reg.EVT1.LOG_BASE_LO_ADDR * 2 ^ 16 + rd s Reg.EVT1.LOG_BASE_HI_ADDR * 2 ^ 32

/-- Entries of the ring (R178). -/
def logSize (s : State) : Nat := 2 ^ rd s Reg.EVT1.LOG_CTL_SIZE_LOG2

/-- Entries written and not consumed. -/
def logLevel (s : State) : Nat :=
  (rd s Reg.EVT1.LOG_WR_COUNT + 2 ^ 32 - rd s Reg.EVT1.LOG_RD_COUNT) % 2 ^ 32

/-- The log sequence number of a raise's notices (R184). -/
def setLogSeq (s : State) (serial seq : Nat) : State :=
  s.onEvt fun v => { v with notices := v.notices.map (fun l => l.map (fun n =>
    if n.serial = serial ∧ n.logSeq.isNone then { n with logSeq := some seq } else n)) }

/-- The raises that wait for the log are discarded (R179); their notices go without an entry (R185). -/
def logDiscard (s : State) : State :=
  s.onEvt fun v => { v with
    logQ := []
    notices := v.notices.map (fun l => l.map (fun n =>
      if n.logSeq.isNone then { n with logSeq := some 0xFFFFFFFF } else n)) }

/-- Logging halts (R183). -/
def logHalt (s : State) : State :=
  raise (logDiscard (wrb s Reg.EVT1.LOG_STAT_HALT true)) Reg.EVT0.evLOG_FAULT

/-- The bytes of a log entry (R180). -/
def logBytes (ns frac id trust seq : Nat) : List Byte :=
  wordsLE [ns % 2 ^ 32, ns / 2 ^ 32, frac % 65536 + id % 32768 * 2 ^ 16 + trust % 2 * 2 ^ 31, seq]

/-- Write an entry's bytes into its slot (R180); answers whether the write completed without error. -/
def logPut (s : State) (data : List Byte) (bads : Nat) : State × Bool :=
  let n := rd s Reg.EVT1.LOG_WR_COUNT
  let x := dmaWrite s 14 (logBase s + 16 * (n % logSize s)) data bads
  (x.1, !x.2.status.isErr)

/-- The gap entry (R180, R181). -/
def logGap (s : State) (bads : Nat) : State :=
  let n := rd s Reg.EVT1.LOG_WR_COUNT
  let x := logPut s (logBytes (nowNs s) (rd s Reg.EVT1.LOG_STAT_GAP) 0x7FFF (rd s Reg.TIME.STAT_TRUST) n) bads
  if x.2 then wrAll x.1 [(Reg.EVT1.LOG_WR_COUNT, n + 1), (Reg.EVT1.LOG_STAT_GAP, 0), (Reg.EVT1.LOG_STAT_FULL, 0)]
  else logHalt x.1

/-- The oldest waiting raise is written (R180); what the write itself raises waits its turn. -/
def logReal (s : State) (e : LogEntry) (bads : Nat) : State :=
  let n := rd s Reg.EVT1.LOG_WR_COUNT
  let x := logPut s (logBytes e.ns e.frac e.id e.trust n) bads
  if x.2 then
    setLogSeq (wr (x.1.onEvt fun v => { v with logQ := v.logQ.filter (fun q => q.serial != e.serial) })
      Reg.EVT1.LOG_WR_COUNT (n + 1)) e.serial n
  else logHalt x.1

/-- A raise that would be logged into a full ring is dropped (R181). -/
def logFull (s : State) (e : LogEntry) (rest : List LogEntry) : State :=
  let s := setLogSeq (s.onEvt fun v => { v with logQ := rest }) e.serial 0xFFFFFFFF
  raise (wrb (countDrop s) Reg.EVT1.LOG_STAT_FULL true) Reg.EVT0.evLOG_FULL

/-- LOG_ENTRY_WRITE (R178 to R183): `bads` first reads of the line find it bad. -/
def logEntryWrite (bads : Fin 5) (s : State) : State :=
  if logRuns s = false then s
  else match s.evt.logQ with
    | [] => s
    | e :: rest =>
      if logSize s ≤ logLevel s then logFull s e rest
      else if rd s Reg.EVT1.LOG_STAT_GAP ≠ 0 then logGap s bads
      else logReal s e bads

def execLogEntryWrite (bads : Fin 5) (s : State) : Host.Outcome State Fault Refusal :=
  .next (logEntryWrite bads s)

/-- The ring as committed lies within stacked DRAM (R183). -/
def logRingOk (s : State) : Bool :=
  decide (0x1000000000 ≤ logBase s) && decide (logBase s + 16 * logSize s ≤ 0x1200000000)

/-- A commit of EVT[1] (R179, R183). -/
def evt1Commit (s : State) (old : Fld → Nat) : State :=
  let same := old Reg.EVT1.LOG_BASE_LO_ADDR = rd s Reg.EVT1.LOG_BASE_LO_ADDR
    ∧ old Reg.EVT1.LOG_BASE_HI_ADDR = rd s Reg.EVT1.LOG_BASE_HI_ADDR
    ∧ old Reg.EVT1.LOG_CTL_SIZE_LOG2 = rd s Reg.EVT1.LOG_CTL_SIZE_LOG2
  let s := if same then s else wr (wr s Reg.EVT1.LOG_WR_COUNT 0) Reg.EVT1.LOG_RD_COUNT 0
  let s := wrb s Reg.EVT1.LOG_STAT_HALT false
  let s := if rdb s Reg.EVT1.LOG_CTL_EN then s else logDiscard s
  if logRingOk s then s else logHalt s

/-- A write of LOG_RD that goes past LOG_WR empties the ring (R182). -/
def logRdEffect (s : State) (v : Nat) : State :=
  let w := rd s Reg.EVT1.LOG_WR_COUNT
  wr s Reg.EVT1.LOG_RD_COUNT (if logSize s < (w + 2 ^ 32 - v % 2 ^ 32) % 2 ^ 32 then w else v)

/-! ### The fault pin -/

/-- FAULT_N_RISE (R188): the minimum has elapsed; the pin rises if every cause has cleared. -/
def faultNRise (s : State) : State :=
  if s.evt.faultLow = false ∨ faultWanted s = true then s
  else
    let s := advUp s (s.evt.fallAt + 36000 * max 1 (rd s Reg.EVT2.FAULT_CTL_MIN_LOW_US))
    raise (s.onEvt fun v => { v with faultLow := false }) Reg.EVT0.evFAULT_RELEASE

def execFaultNRise (s : State) : Host.Outcome State Fault Refusal := .next (faultNRise s)

end Sys2Proof.Machine
end

