-- ==== Sys2Proof/Machine/Samples.lean ====
section
/-! DEFINITION. The sample stream of a converter (chapter 07): slots, codes and over-range, crossing words,
holes, and what a converter counts in a window. -/

namespace Sys2Proof.Machine

/-! ### Slots and codes -/

/-- The slot of a sample (R220). -/
def slotOf (x : Samp) : Nat := x.idx % 64

/-- The slice that serves a slot: the punty where it stands in, else the slot's own (R220). -/
def servedBy (s : State) (c k : Nat) : Nat := if rd s (Reg.CNV.STAT_SLOT c) = k then 64 else k

/-- The trims of a slice: OFS in 1/64 LSB and GAIN in 2^-16 (R258). -/
def trimsOf (s : State) (c sl : Nat) : Nat × Nat := (rd s (Reg.CNV.SLICE_A_OFS c sl), rd s (Reg.CNV.SLICE_A_GAIN c sl))

/-- The trims of the slice that serves a slot are noted as of now. -/
def noteTrims (s : State) (c k : Nat) : State :=
  let o := trimsOf s c (servedBy s c k)
  let u := s.time.uptime
  s.onCnv c fun t => { t with trims := ⟨k, u, o.1, o.2⟩ :: t.trims }

/-- The trims that a sample was taken with. -/
def trimsAt (s : State) (c : Nat) (x : Samp) : Nat × Nat :=
  match (s.cnv c).trims.find? (fun o => o.slot == slotOf x && decide (1000 * o.since ≤ 36 * x.up)) with
  | none => (0, 0)
  | some o => (o.ofs, o.gain)

/-- The digital trim, and the decision on code and OR (R224, R226): the quantiser's 10 bits times 1 + GAIN / 65,536,
and OFS added (DEDUCED, log entry 55). -/
def sampleCode (trims : Nat × Nat) (raw : BitVec 10) : Int × Bool :=
  let v := (64 * raw.toInt * (65536 + sext 16 trims.2) + 65536 * sext 16 trims.1) / (64 * 65536)
  if v < -128 then (-128, true) else if 127 < v then (127, true) else (v, false)

/-- A slot's samples lie in a hole at an uptime in ps. -/
def Hole.holds (o : Hole) (slot up : Nat) : Bool :=
  o.slot == slot && decide (1000 * o.since ≤ 36 * up)
    && (match o.till with | none => true | some u => decide (36 * up ≤ 1000 * u))

def inHole (s : State) (c : Nat) (x : Samp) : Bool := (s.cnv c).holes.any fun o => o.holds (slotOf x) x.up

/-- Code and OR as the converter delivers them: code 0 and OR 0 in a hole (R244 step 2, R247). -/
def delivered (s : State) (c : Nat) (x : Samp) : Int × Bool :=
  if inHole s c x then (0, false) else sampleCode (trimsAt s c x) x.raw

/-- A sample as its 9 bits: the code, and OR at bit 8 (R226, R227). -/
def sample9 (y : Int × Bool) : Nat := unsext 8 y.1 + 256 * b2n y.2

/-! ### Crossing words (R224, R225) -/

/-- One crossing word. -/
structure CrossWord where
  valid : Bool
  hole  : Bool
  sq    : Bool
  data  : Nat
deriving DecidableEq, Repr

/-- Samples of 9 bits, the first lowest: the gearbox's 64 to a slot period, and the crossing's 150 to a word. -/
def packSamples (s : State) (c : Nat) : List Samp → Nat
  | [] => 0
  | x :: t => sample9 (delivered s c x) + 512 * packSamples s c t

/-- The squelch request that reaches the converters of port `p` at an uptime in ps (R250). -/
def sqAt (s : State) (p up : Nat) : Bool :=
  match (s.port p).sqLog.find? (fun e => decide (1000 * e.1 ≤ 36 * up)) with
  | none => rd s (Reg.PORT.SQ_NOW_CAUSE p) != 0
  | some e => e.2

/-- The word that carries the next samples of converter `c`, 150 to a valid word (R225); SQ as of its first sample
(R250). -/
def crossWord (s : State) (c : Nat) (xs : List Samp) : CrossWord :=
  let sq := sqAt s (c / 4) ((xs.head?.map (·.up)).getD 0)
  if xs.length = 150 then ⟨true, xs.any (inHole s c), sq, packSamples s c xs⟩ else ⟨false, false, sq, 0⟩

/-- The words of `n` times 150 samples. -/
def crossWords (s : State) (c : Nat) : Nat → List Samp → List CrossWord
  | 0, _ => []
  | n + 1, xs => crossWord s c (xs.take 150) :: crossWords s c n (xs.drop 150)

/-- The codes of a word: a word with VALID at 0 carries nothing, and an over-range sample counts as its code (R225,
R262). -/
def CrossWord.codes (w : CrossWord) : List Int :=
  if w.valid then (List.range 150).map fun i => sext 8 (bits w.data (9 * i) 8) else []

/-- DSP cycle `n` carries a valid word: at fs a fraction fs / 225 GS/s of the cycles do (R225).  The spec does
not say which: the ones in which the count of whole words rises (DESIGN CHOICE, log entry 55). -/
def wordDue (rs n : Nat) : Bool := n * rs / 200000 != (n + 1) * rs / 200000

/-! ### What a converter counts -/

/-- In-range codes. -/
def unclipped (ys : List (Int × Bool)) : List Int := (ys.filter fun y => !y.2).map (·.1)

def sumOf (l : List Int) : Int := l.foldl (· + ·) 0

def sumsqOf (l : List Int) : Nat := l.foldl (fun a c => a + c.natAbs ^ 2) 0

/-- Every `n`-th element, after `k` others. -/
def everyNth {α : Type} (n : Nat) : Nat → List α → List α
  | _, [] => []
  | 0, a :: t => a :: everyNth n (n - 1) t
  | k + 1, _ :: t => everyNth n k t

/-- The samples of a window, of samples in the order they were taken (R251, R327): from the first that device time
stamps at or after its start until one that it stamps at or after its end.  A backward step within the window stamps
some before its start, and they belong to it (R331). -/
def Win.part (w : Win) (xs : List Samp) : List Samp :=
  (xs.dropWhile fun x => decide (x.time < 1000 * w.start)).takeWhile fun x => decide (x.time < 1000 * w.fin)

/-- What converter `c` counts of the window's samples (R252, R253); the histogram begins after `phase` of them. -/
def laneStats (s : State) (c : Nat) (w : Win) (phase : Nat) (xs : List Samp) : LaneStats :=
  let ys := (w.part xs).map (delivered s c)
  let cs := unclipped ys
  let n := 2 ^ (s.cnv c).stride.getD (rd s (Reg.CNV.HIST_CTL_STRIDE_K c)) + 1
  let hs := everyNth n (phase % n) ys
  { nsamp := cs.length, sum := sumOf cs, sumsq := sumsqOf cs
    mn := cs.foldl min (cs.headD 0), mx := cs.foldl max (cs.headD 0)
    beyond := (ys.filter (·.2)).length
    hist := (List.range 256).map fun b => ((unclipped hs).filter fun v => unsext 8 v == b).length
    histOr := (hs.filter (·.2)).length }

/-- Three samples of a lane in a row, all in range: the middle one minus the interpolation of the other two, and the
slope there, both times 2 (R337; DEDUCED, log entry 65). -/
def midOf (a b c : Int × Bool) : Int × Int :=
  if a.2 || b.2 || c.2 then (0, 0) else (2 * b.1 - a.1 - c.1, c.1 - a.1)

/-- A sample joins the sums of its slot. -/
def SlotSum.add (o : SlotSum) (y : Int × Bool) (m : Int × Int) : SlotSum :=
  { n := o.n + b2n (!y.2), sum := o.sum + (if y.2 then 0 else y.1)
    sumsq := o.sumsq + (if y.2 then 0 else y.1.natAbs ^ 2), corr := o.corr + m.1 * m.2, slope := o.slope + m.2.natAbs ^ 2 }

/-- Nothing of a slot. -/
def SlotSum.zero : SlotSum := ⟨0, 0, 0, 0, 0⟩

/-- A lane's samples as delivered, by slot, each with those before and after it. -/
def slotTriples : (Int × Bool) → List (Nat × (Int × Bool)) → List (Nat × (Int × Bool) × (Int × Int))
  | _, [] => []
  | a, (k, b) :: t =>
    (k, b, midOf a b ((t.head?.map (·.2)).getD (0, true))) :: slotTriples b t

/-- The in-range samples of each slot of a window (R337). -/
def slotSums (s : State) (c : Nat) (w : Win) (xs : List Samp) : List SlotSum :=
  let l := slotTriples (0, true) ((w.part xs).map fun x => (slotOf x, delivered s c x))
  (List.range 64).map fun k => (l.filter fun y => y.1 == k).foldl (fun o y => o.add y.2.1 y.2.2) SlotSum.zero

/-- The pairs of in-range I and Q codes that a polarisation took at the same instants of a window (R333). -/
def iqSums (s : State) (c : Nat) (w : Win) (is qs : List Samp) : IqSum :=
  ((w.part is).zip (w.part qs)).foldl (fun o x =>
    let a := delivered s c x.1
    let b := delivered s (c + 1) x.2
    if a.2 || b.2 || x.1.idx != x.2.idx then o
    else ⟨o.n + 1, o.i + a.1, o.q + b.1, o.ii + a.1.natAbs ^ 2, o.qq + b.1.natAbs ^ 2, o.iq + a.1 * b.1⟩)
    ⟨0, 0, 0, 0, 0, 0⟩

/-- A count that saturates at `w` bits. -/
def satN (w n : Nat) : Nat := min n (2 ^ w - 1)

/-- A converter's results of a window update together (R252 to R254); with no in-range sample the extremes are
free values. `fl` holds SQ, PARTIAL and DEGR. -/
def cnvResults (s : State) (n : Nat) (t : LaneStats) (fl : Nat) : State :=
  let sum := clampI (-(2 ^ 63)) (2 ^ 63 - 1) t.sum
  let sat : Bool := sum != t.sum || decide (2 ^ 64 ≤ t.sumsq) || decide (2 ^ 32 ≤ t.histOr)
    || t.hist.any (fun b => decide (2 ^ 32 ≤ b))
  let mn := if t.nsamp = 0 then (free s).1 else unsext 8 t.mn
  let s := if t.nsamp = 0 then (free s).2 else s
  let mx := if t.nsamp = 0 then (free s).1 else unsext 8 t.mx
  let s := if t.nsamp = 0 then (free s).2 else s
  let s := wrAll s [(Reg.CNV.WIN_FLAGS_SQ n, bits fl 0 1), (Reg.CNV.WIN_FLAGS_SAT n, b2n sat),
    (Reg.CNV.WIN_FLAGS_PARTIAL n, bits fl 1 1), (Reg.CNV.WIN_FLAGS_DEGR n, bits fl 2 1),
    (Reg.CNV.NSAMP_LO_COUNT n, t.nsamp), (Reg.CNV.NSAMP_HI_COUNT n, t.nsamp / 2 ^ 32),
    (Reg.CNV.SUM_LO_SUM n, unsext 64 sum), (Reg.CNV.SUM_HI_SUM n, unsext 64 sum / 2 ^ 32),
    (Reg.CNV.SUMSQ_LO_SUMSQ n, satN 64 t.sumsq), (Reg.CNV.SUMSQ_HI_SUMSQ n, satN 64 t.sumsq / 2 ^ 32),
    (Reg.CNV.OR_LO_COUNT n, t.beyond), (Reg.CNV.OR_HI_COUNT n, t.beyond / 2 ^ 32),
    (Reg.CNV.MINMAX_MIN n, mn), (Reg.CNV.MINMAX_MAX n, mx),
    (Reg.CNV.MINMAX_VALID n, b2n (t.nsamp != 0)), (Reg.CNV.HIST_OR_COUNT n, satN 32 t.histOr)]
  let s := (List.range 256).foldl (fun s b => wr s (Reg.CNV.HIST_COUNT n b) (satN 32 (t.hist.getD b 0))) s
  raiseIf sat (raise (inc s (Reg.CNV.WIN_SEQ_SEQ n) 1) (Reg.CNV.evWIN_DONE n)) (Reg.CNV.evSTAT_SAT n)

/-- Results that have waited for the block to run come out in turn. -/
def cnvFlush (s : State) (n : Nat) : State :=
  if blockRuns s (Reg.CNV.page n) then
    let l := (s.cnv n).winOut
    l.foldl (fun s r => cnvResults s n r.1 r.2) (s.onCnv n fun t => { t with winOut := [] })
  else s

/-- CNV_WIN_DONE: a converter's results of the ended window come out, once its block runs (R83, R254); a gated
converter completes no window (R330). -/
def cnvWinDone (s : State) (n : Nat) (t : LaneStats) : State :=
  if rdb s (Reg.HDR.PG_STAT_GATED (Reg.CNV.page n)) then s
  else
    let h := s.cnv n
    let fl := b2n h.winSq + 2 * b2n h.winPart + 4 * b2n h.winDegr
    cnvFlush (s.onCnv n fun x => { x with winOut := x.winOut ++ [(t, fl)] }) n

end Sys2Proof.Machine
end

