-- ==== Sys2Proof/Machine/Optical.lean ====
section
/-! DEFINITION. Optical front end (chapter 06): the light-loss detectors, transimpedance gain, and the
port's commit. -/

namespace Sys2Proof.Machine

/-! ### Detectors -/

/-- SIG_OK and LO_OK follow the detectors (R208, R219). -/
def detRegs (s : State) (p : Nat) : State :=
  wrb (wrb s (Reg.PORT.STAT_SIG_OK p) ((s.port p).sig == .good)) (Reg.PORT.STAT_LO_OK p)
    ((s.port p).lo == .good)

/-- The signal detector declares loss (R205, R207 step 6). -/
def sigLoss (s : State) (p : Nat) : State :=
  if (s.port p).sig = .good then
    raise (bump (s.onPort p fun t => { t with sig := .loss }) (Reg.PORT.LOS_CNT_SIG p) 1) (Reg.PORT.evLOS_SIG p)
  else s

/-- The LO detector declares loss. -/
def loLoss (s : State) (p : Nat) : State :=
  if (s.port p).lo = .good then
    raise (bump (s.onPort p fun t => { t with lo := .loss }) (Reg.PORT.LOS_CNT_LO p) 1) (Reg.PORT.evLOS_LO p)
  else s

/-- The thresholds in effect, in 0.1 dBm (R205). -/
def sigThr (s : State) (p : Nat) : Int := sext 16 (rd s (Reg.PORT.LOS_THR_SIG_DBM p))

def loThr (s : State) (p : Nat) : Int := sext 16 (rd s (Reg.PORT.LOS_THR_LO_DBM p))

/-- Whether a dip is declared (R205): below the threshold for 1.0 ns always, for less than 0.2 ns never, and
between the two a free value decides. -/
def dipDeclared (s : State) (thr : Int) : Option (Int × Nat) → Bool × State
  | none => (false, s)
  | some (dbm, ps) =>
    if thr ≤ dbm ∨ ps < 200 then (false, s)
    else if 1000 ≤ ps then (true, s)
    else ((free s).1 % 2 == 1, (free s).2)

/-- LIGHT_LOSS (R205, R207, R209). -/
def lightLoss (p : Fin 16) (sig lo : Option (Int × Nat)) (s : State) : State :=
  let a := dipDeclared s (sigThr s p) sig
  let b := dipDeclared a.2 (loThr s p) lo
  let s := if a.1 then sigLoss b.2 p else b.2
  let s := if b.1 then loLoss s p else s
  follow1 (detRegs s p) p

def execLightLoss (p : Fin 16) (sig lo : Option (Int × Nat)) (s : State) : Host.Outcome State Fault Refusal :=
  .next (lightLoss p sig lo s)

/-- What samples of a power over a number of SLO cycles make of a detector in loss and of its count (R206):
at or above the threshold plus HYST they count, to RETURN_US at 100 cycles a microsecond (R79, R81); one below
it starts the count again. -/
def detSample (s : State) (p : Nat) (thr dbm : Int) (n : Nat) (d : Det) (q : Nat) : Det × Nat :=
  if d ≠ .loss ∨ n = 0 then (d, q)
  else if dbm < thr + rd s (Reg.PORT.LOS_RET_HYST p) then (.loss, 0)
  else if q + n < 100 * rd s (Reg.PORT.LOS_RET_RETURN_US p) then (.loss, q + n)
  else (.good, 0)

/-- The signal tap is sampled: a detector out of loss that sees its power below the threshold declares loss
(R205), and one in loss counts (R206). -/
def sigSample (s : State) (p : Nat) : Option (Int × Nat) → State
  | none => s
  | some (dbm, n) =>
    let s := if dbm < sigThr s p ∧ 0 < n then sigLoss s p else s
    let d := detSample s p (sigThr s p) dbm n (s.port p).sig (s.port p).sigQual
    s.onPort p fun t => { t with sig := d.1, sigQual := d.2, sigDbm := dbm }

/-- The LO tap is sampled. -/
def loSample (s : State) (p : Nat) : Option (Int × Nat) → State
  | none => s
  | some (dbm, n) =>
    let s := if dbm < loThr s p ∧ 0 < n then loLoss s p else s
    let d := detSample s p (loThr s p) dbm n (s.port p).lo (s.port p).loQual
    s.onPort p fun t => { t with lo := d.1, loQual := d.2, loDbm := dbm }

/-- LIGHT_RETURN (R206, R209): raised when the second of the two returns is qualified. -/
def lightReturn (p : Fin 16) (sig lo : Option (Int × Nat)) (s : State) : State :=
  let t := s.port p
  let s1 := if blockRuns s (Reg.PORT.page p) then loSample (sigSample s p sig) p lo else s
  let t1 := s1.port p
  let both := t1.sig == .good && t1.lo == .good && !(t.sig == .good && t.lo == .good)
  follow1 (detRegs (raiseIf both s1 (Reg.PORT.evLIGHT_RETURN p)) p) p

def execLightReturn (p : Fin 16) (sig lo : Option (Int × Nat)) (s : State) : Host.Outcome State Fault Refusal :=
  .next (lightReturn p sig lo s)

/-! ### Gain -/

/-- A converter delivers codes to the AGC: its block runs, it has left OFF and its start-up calibration has
ended, and no foreground calibration runs (R83, R197, R230, R249). -/
def cnvDelivers (s : State) (c : Nat) : Bool :=
  blockRuns s (Reg.CNV.page c) && 3 ≤ rd s (Reg.CNV.STAT_STATE c) && rd s (Reg.CNV.STAT_STATE c) != 7

/-- The RMS of `n` codes with squares summing to `q` is above, or below, the deadband around TARGET: the amplitude
ratio of k quarter decibels is 10^(k/80), so the comparison is exact in 80th powers (R197). -/
def rmsHigh (q n target k : Nat) : Bool := decide (10 ^ k * (target ^ 2 * n) ^ 40 < q ^ 40)

def rmsLow (q n target k : Nat) : Bool := decide (10 ^ k * q ^ 40 < (target ^ 2 * n) ^ 40)

/-- The gain code of lane `l` in TIA_NOW. -/
def gainOf (s : State) (p l : Nat) : Nat := bits (rd s (Reg.PORT.TIA_NOW_CODES p)) (8 * l) 8

/-- Set the gain code of a lane. -/
def setGain (s : State) (p l g : Nat) : State :=
  let v := rd s (Reg.PORT.TIA_NOW_CODES p)
  wr s (Reg.PORT.TIA_NOW_CODES p) (v - bits v (8 * l) 8 * 2 ^ (8 * l) + g % 256 * 2 ^ (8 * l))

/-- The AGC_RAIL bit of a lane. -/
def setRail (s : State) (p l : Nat) (b : Bool) : State :=
  wr s (Reg.PORT.STAT_AGC_RAIL p) (putBit (rd s (Reg.PORT.STAT_AGC_RAIL p)) l b)

/-- Mark a lane done with its gain, or not (R215 step 2). -/
def setLaneDone (s : State) (p l : Nat) (b : Bool) : State :=
  s.onPort p fun t => { t with laneDone := vset t.laneDone l b }

/-- The AGC moves one lane one code (R197, R200); while the converter delivers none its gain holds. -/
def agcLane (s : State) (p l : Nat) (xs : List Samp) : State :=
  let cs := xs.map fun x => (delivered s (4 * p + l) x).1
  let q := sumsqOf cs
  let t := rd s (Reg.PORT.AGC_CTL_TARGET p)
  let k := rd s (Reg.PORT.AGC_CTL_DEADBAND p)
  let g := gainOf s p l
  if cnvDelivers s (4 * p + l) = false ∨ cs = [] then s
  else if rmsHigh q cs.length t k then
    if g = 0 then setLaneDone (raise (setRail s p l true) (Reg.PORT.evAGC_RAIL p)) p l true
    else setLaneDone (setRail (setGain s p l (g - 1)) p l false) p l false
  else if rmsLow q cs.length t k then
    if g = 255 then setLaneDone (raise (setRail s p l true) (Reg.PORT.evAGC_RAIL p)) p l true
    else setLaneDone (setRail (setGain s p l (g + 1)) p l false) p l false
  else setLaneDone s p l true

/-- AGC_STEP (R197, R198, R200): while light is lost every gain holds. -/
def agcStep (p : Fin 16) (xi xq yi yq : List Samp) (s : State) : State :=
  if blockRuns s (Reg.PORT.page p) = false ∨ rdb s (Reg.PORT.CTL_AGC_EN p) = false
    ∨ (s.port p).sig ≠ .good ∨ (s.port p).lo ≠ .good then s
  else follow1 (agcLane (agcLane (agcLane (agcLane s p 0 xi) p 1 xq) p 2 yi) p 3 yq) p

def execAgcStep (p : Fin 16) (xi xq yi yq : List Samp) (s : State) : Host.Outcome State Fault Refusal :=
  .next (agcStep p xi xq yi yq s)

/-- One code toward another. -/
def toward (g t : Nat) : Nat := if g < t then g + 1 else if t < g then g - 1 else g

/-- GAIN_RAMP_STEP (R196, R199). -/
def gainRampStep (p : Fin 16) (s : State) : State :=
  if blockRuns s (Reg.PORT.page p) = false ∨ rdb s (Reg.PORT.CTL_AGC_EN p) = true then s
  else
    let s := setGain s p 0 (toward (gainOf s p 0) (rd s (Reg.PORT.TIA_GAIN_XI p)))
    let s := setGain s p 1 (toward (gainOf s p 1) (rd s (Reg.PORT.TIA_GAIN_XQ p)))
    let s := setGain s p 2 (toward (gainOf s p 2) (rd s (Reg.PORT.TIA_GAIN_YI p)))
    let s := setGain s p 3 (toward (gainOf s p 3) (rd s (Reg.PORT.TIA_GAIN_YQ p)))
    follow1 s p

def execGainRampStep (p : Fin 16) (s : State) : Host.Outcome State Fault Refusal := .next (gainRampStep p s)

/-- RESTART_SLOW (R216): the restart carries on. -/
def restartSlow (p : Fin 16) (s : State) : State :=
  raiseIf (bit (rd s (Reg.PORT.SQ_NOW_CAUSE p)) 4) s (Reg.PORT.evRESTART_SLOW p)

def execRestartSlow (p : Fin 16) (s : State) : Host.Outcome State Fault Refusal := .next (restartSlow p s)

/-! ### Commit and gate -/

/-- The detectors follow EN in effect (R208). -/
def detFollow (s : State) (p : Nat) : State :=
  let en := rdb s (Reg.HDR.PG_CTL_EN (Reg.PORT.page p))
  let s := s.onPort p fun t =>
    if en then { t with sig := if t.sig = .off then .loss else t.sig, lo := if t.lo = .off then .loss else t.lo
                        cfgWait := false }
    else { t with sig := .off, lo := .off, sigQual := 0, loQual := 0 }
  detRegs s p

/-- What the port does with a commit (R210, R215 step 2): a detector that sees its power below the threshold
now in effect declares loss, the qualification counts begin anew, and lanes are not done with a gain the AGC has
just taken over. -/
def portCommit (s : State) (p : Nat) (old : Fld → Nat) : State :=
  let s := if (s.port p).sigDbm < sigThr s p then sigLoss s p else s
  let s := if (s.port p).loDbm < loThr s p then loLoss s p else s
  let taken : Bool := old (Reg.PORT.CTL_AGC_EN p) == 0 && rdb s (Reg.PORT.CTL_AGC_EN p)
  s.onPort p fun t => { t with sigQual := 0, loQual := 0
                               laneDone := if taken then Vector.replicate 4 false else t.laneDone }

end Sys2Proof.Machine
end

