-- ==== Sys2Proof/Machine/Converter.lean ====
section
/-! DEFINITION. Interleaved converters and the punty (chapter 07): states, rotation, seams, failures,
foreground calibration. -/

namespace Sys2Proof.Machine

/-! ### Registers -/

/-- STATE of converter `c` (R228). -/
def cnvState (s : State) (c : Nat) : Nat := rd s (Reg.CNV.STAT_STATE c)

def rotPhase (s : State) (c : Nat) : Nat := rd s (Reg.CNV.STAT_ROT_PHASE c)

def setPhase (s : State) (c v : Nat) : State := wr s (Reg.CNV.STAT_ROT_PHASE c) v

/-- Failures recorded. -/
def cnvFails (s : State) (c : Nat) : Nat := rd s (Reg.CNV.FAIL_STAT_FIRST_V c) + rd s (Reg.CNV.FAIL_STAT_SECOND_V c)

/-- The state by the number of failures (R230, R245, R246). -/
def byCount (s : State) (c : Nat) : Nat :=
  if cnvFails s c = 0 then 3 else if cnvFails s c = 1 then 4 else 5

/-- A slice has failed. -/
def sliceFailed (s : State) (c sl : Nat) : Bool := rd s (Reg.CNV.SLICE_B_STATE c sl) == 5

/-- Set a slice's state, unless it has failed. -/
def setSlice (s : State) (c sl v : Nat) : State :=
  if sliceFailed s c sl then s else wr s (Reg.CNV.SLICE_B_STATE c sl) v

/-- The slot the punty serves, with its skew there (R258); 0x7F for none.  The trims that its samples and those of the
slot it leaves are taken with change. -/
def setSlot (s : State) (c slot : Nat) : State :=
  let sk := if slot < 64 then vget (s.cnv c).punSkew 0 slot else 0
  let old := rd s (Reg.CNV.STAT_SLOT c)
  let s := wr (wr s (Reg.CNV.STAT_SLOT c) slot) (Reg.CNV.SLICE_B_SKEW c 64) (unsext 12 sk)
  noteTrims (noteTrims s c old) c slot

/-- SPARE, LOCKED and RDY follow STATE (R229, R258). -/
def cnvRegs (s : State) (c : Nat) : State :=
  let st := cnvState s c
  wrAll s [(Reg.CNV.STAT_SPARE c, b2n (st == 3)),
    (Reg.CNV.STAT_LOCKED c, b2n (s.cnv c).locked),
    (Reg.CNV.STAT_RDY c, b2n ((st == 3 || st == 4) && rdb s (Reg.CNV.STAT_RATE_OK c)))]

/-- Two converters of the port that are not OFF differ in RATE_NOW, seen from `c` (R223). -/
def mismatched (s : State) (c : Nat) : Bool :=
  cnvState s c != 0 && (List.range 4).any (fun l =>
    cnvState s (c / 4 * 4 + l) != 0
      && rd s (Reg.CNV.RATE_NOW_RS_MBD (c / 4 * 4 + l)) != rd s (Reg.CNV.RATE_NOW_RS_MBD c))

/-- RATE_OK of a converter (R223). -/
def rateOk (s : State) (c : Nat) : Bool :=
  (List.range 4).all (fun l => cnvState s (c / 4 * 4 + l) != 0
    && rd s (Reg.CNV.RATE_NOW_RS_MBD (c / 4 * 4 + l)) == rd s (Reg.CNV.RATE_NOW_RS_MBD c))

/-- RATE_OK and RATE_MISMATCH of the port's converters after a change; `old` is the state before. -/
def rateCheck (old s : State) (p : Nat) : State :=
  (List.range 4).foldl (fun s l =>
    let c := 4 * p + l
    let s := cnvRegs (wrb s (Reg.CNV.STAT_RATE_OK c) (rateOk s c)) c
    raiseIf (mismatched s c && !mismatched old c) s (Reg.CNV.evRATE_MISMATCH c)) s

/-! ### Rotation -/

/-- The slice of the step in progress or next: 64 for step 0 (R233). -/
def stepSlice (s : State) (c : Nat) : Nat := if (s.cnv c).step = 0 then 64 else (s.cnv c).step - 1

/-- The step counts; the last of a round counts the round (R233). -/
def stepCount (s : State) (c : Nat) : State :=
  let k := (s.cnv c).step
  let s := if k = 64 then bump s (Reg.CNV.ROT_CNT_ROUNDS c) 1 else s
  s.onCnv c fun t => { t with step := (k + 1) % 65, seams := 0, saved := none }

/-- A step begins (R233 to R235). -/
def stepBegin (s : State) (c : Nat) : State :=
  let k := stepSlice s c
  if k = 64 then setPhase (setSlice s c 64 1) c 1
  else
    let sk := unsext 12 (vget (s.cnv c).punSkew 0 k)
    setPhase (setSlice (setSlice (s.onCnv c fun t => { t with seams := 0, saved := some (0, 0, sk) }) c k 2)
      c 64 2) c 2

/-- Rotation begins its next step where it may (R233, R241). -/
def rotStart (s : State) (c : Nat) : State :=
  if cnvState s c = 3 ∧ rotPhase s c = 5 ∧ rdb s (Reg.CNV.ROT_CTL_EN c) = true ∧ (s.cnv c).hole.isNone then
    stepBegin s c
  else s

/-- A step has ended: the dwell begins, or rotation stops (R233, R241). -/
def stepEnd (s : State) (c : Nat) : State :=
  let k := stepSlice s c
  let s := setSlot (setSlice (setSlice s c k 0) c 64 0) c 0x7F
  setPhase (stepCount s c) c (if rdb s (Reg.CNV.ROT_CTL_EN c) then 0 else 5)

/-- The trims of the step in progress return to what they were before it (R234, R242). -/
def restoreTrims (s : State) (c : Nat) : State :=
  match (s.cnv c).saved with
  | none => s
  | some (o, g, k) =>
    let sl := stepSlice s c
    if rotPhase s c = 2 then s.onCnv c fun t => { t with punSkew := vset t.punSkew sl (sext 12 k) }
    else wrAll s [(Reg.CNV.SLICE_A_OFS c sl, o), (Reg.CNV.SLICE_A_GAIN c sl, g), (Reg.CNV.SLICE_B_SKEW c sl, k)]

/-- Rotation stops where it is, and the slice of a step has its slot back. -/
def stepDrop (s : State) (c : Nat) : State :=
  let k := stepSlice s c
  let s := setSlice (setSlice (restoreTrims s c) c k 0) c 64 0
  setPhase (if 3 ≤ rotPhase s c ∧ rotPhase s c ≤ 4 then setSlot s c 0x7F else s) c 5

/-- A step in progress is abandoned (R242); a dwell only ends. -/
def stepAbandon (s : State) (c : Nat) : State :=
  let ph := rotPhase s c
  if ph = 5 then s
  else if ph = 0 then setPhase s c 5
  else raise (stepCount (stepDrop s c) c) (Reg.CNV.evCAL_ABANDON c)

/-! ### States and failures -/

/-- STATE changes: READY as R256 says, and rotation starts in READY. -/
def setCnvState (s : State) (c v : Nat) : State :=
  let old := cnvState s c
  let s := markCnv (cnvRegs (wr s (Reg.CNV.STAT_STATE c) v) c) c
  let s := raiseIf ((v == 3 || v == 4) && !(old == 3 || old == 4)) s (Reg.CNV.evREADY c)
  rotStart s c

/-- A failure is recorded (R244 step 6, R246). -/
def failRecord (s : State) (c sl cause : Nat) : State :=
  if rdb s (Reg.CNV.FAIL_STAT_FIRST_V c) = false then
    raise (wrAll s [(Reg.CNV.FAIL_STAT_FIRST c, sl), (Reg.CNV.FAIL_STAT_FIRST_V c, 1),
      (Reg.CNV.FAIL_STAT_CAUSE1 c, cause)]) (Reg.CNV.evSLICE_FAIL c)
  else if rdb s (Reg.CNV.FAIL_STAT_SECOND_V c) = false then
    raise (wrAll s [(Reg.CNV.FAIL_STAT_SECOND c, sl), (Reg.CNV.FAIL_STAT_SECOND_V c, 1),
      (Reg.CNV.FAIL_STAT_CAUSE2 c, cause)]) (Reg.CNV.evCNV_FAIL c)
  else s

/-- The samples of a slot carry code 0, and their words HOLE, from now on (R244 step 2, R247). -/
def openHole (s : State) (c slot : Nat) : State :=
  let u := s.time.uptime
  s.onCnv c fun t => { t with holes := t.holes ++ [⟨slot, u, none⟩] }

/-- Every open hole ends: another element serves the slot (R244 step 5, R247). -/
def closeHoles (s : State) (c : Nat) : State :=
  let u := s.time.uptime
  s.onCnv c fun t => { t with holes := t.holes.map fun o => { o with till := some (o.till.getD u) } }

/-- Element `sl` fails with a cause (R245, R246): a punty that is free serves the slot for good, a failed punty
serves none, and a READY or DEGRADED converter moves on, as does an UNLOCKED one at its second failure. -/
def cnvFail (s : State) (c sl cause : Nat) : State :=
  if sliceFailed s c sl then s
  else
    let s := failRecord (wr s (Reg.CNV.SLICE_B_STATE c sl) 5) c sl cause
    let free := !sliceFailed s c 64 && rd s (Reg.CNV.SLICE_B_STATE c 64) != 4
    let s := if sl = 64 then setSlot s c 0x7F
      else if free then setSlot (setSlice s c 64 4) c sl else s
    if cnvState s c = 3 ∨ cnvState s c = 4 ∨ (cnvState s c = 6 ∧ byCount s c = 5) then setCnvState (setPhase s c 5) c (byCount s c) else s

/-- The step in progress ends with a failure: it counts, nothing is restored (R238 to R240). -/
def stepFail (s : State) (c sl cause : Nat) : State := cnvFail (stepCount s c) c sl cause

/-! ### Start-up -/

/-- The converter leaves OFF (R222, R230). -/
def leaveOff (s : State) (c : Nat) : State :=
  let s1 := wr (wr s (Reg.CNV.RATE_NOW_RS_MBD c) (rd s (Reg.CNV.RATE_RS_MBD c))) (Reg.CNV.STAT_STATE c) 1
  rateCheck s (markCnv (cnvRegs s1 c) c) (c / 4)

/-- The converter goes OFF by gating (R228, R231, R241): a step in progress is dropped without counting;
the record of failed slices stays, and so do the marks of failed seam-ins.  A failure that is declared and whose slot
the punty has not taken is forgotten (DESIGN CHOICE, log entry 63). -/
def goOff (s : State) (c : Nat) : State :=
  let s1 := if 1 ≤ rotPhase s c ∧ rotPhase s c ≤ 4 then stepDrop s c else setPhase s c 5
  let s1 := (closeHoles s1 c).onCnv c fun t =>
    { t with hole := none, locked := false, seams := 0, saved := none, winOut := [] }
  rateCheck s (markCnv (cnvRegs (wr s1 (Reg.CNV.STAT_STATE c) 0) c) c) (c / 4)

/-- The converter follows its gate and ROT_CTL.EN (R222, R228, R241); results that waited for it come out. -/
def cnvFollow (s : State) (c : Nat) : State :=
  let s := cnvFlush s c
  let s := if treatedGated s (Reg.CNV.page c) then
      (if cnvState s c = 0 then s else goOff s c)
    else if cnvState s c = 0 ∧ blockRuns s (Reg.CNV.page c) = true then leaveOff s c
    else s
  if rotPhase s c = 0 ∧ rdb s (Reg.CNV.ROT_CTL_EN c) = false then setPhase s c 5 else rotStart s c

/-- CNV_LOOP_LOCK (R230): RETIRE applies before calibration begins. -/
def cnvLoopLock (n : Fin 64) (s : State) : State :=
  if cnvState s n ≠ 1 ∨ blockRuns s (Reg.CNV.page n) = false then s
  else
    let s := cnvRegs (wr (s.onCnv n fun t => { t with locked := true }) (Reg.CNV.STAT_STATE n) 2) n
    if rdb s (Reg.CNV.RETIRE_VALID n) = true ∧ rd s (Reg.CNV.RETIRE_SLICE n) ≤ 64 then
      cnvFail s n (rd s (Reg.CNV.RETIRE_SLICE n)) 7
    else s

def execCnvLoopLock (n : Fin 64) (s : State) : Host.Outcome State Fault Refusal := .next (cnvLoopLock n s)

/-- Trims within the limits of R238. -/
def trimOk (ofs gain skew : Int) : Bool :=
  decide (ofs.natAbs ≤ 512) && decide (gain.natAbs ≤ 8192) && decide (skew.natAbs ≤ 200)

/-- One successful calibration counts (R258). -/
def calCount (s : State) (c sl : Nat) : State := inc s (Reg.CNV.SLICE_B_CAL_CNT c sl) 1

/-- A slice takes trims. -/
def setTrims (s : State) (c sl : Nat) (ofs gain skew : Int) : State :=
  noteTrims (calCount (wrAll s [(Reg.CNV.SLICE_A_OFS c sl, unsext 16 ofs),
    (Reg.CNV.SLICE_A_GAIN c sl, unsext 16 gain), (Reg.CNV.SLICE_B_SKEW c sl, unsext 12 skew)]) c sl) c sl

/-- The punty takes its offset and gain. -/
def setPunty (s : State) (c : Nat) (ofs gain : Int) : State :=
  noteTrims (calCount (wrAll s [(Reg.CNV.SLICE_A_OFS c 64, unsext 16 ofs),
    (Reg.CNV.SLICE_A_GAIN c 64, unsext 16 gain)]) c 64) c (rd s (Reg.CNV.STAT_SLOT c))

/-- Calibrate a list of slices together; one whose trims break a limit fails with `cause`. -/
def calAll (s : State) (c cause : Nat) (cal : List (Int × Int × Int)) (sls : List Nat) : State :=
  sls.foldl (fun s sl =>
    let t := cal[sl]?.getD (0, 0, 0)
    if sliceFailed s c sl then s
    else if trimOk t.1 t.2.1 t.2.2 = false then cnvFail s c sl cause
    else if sl = 64 then setPunty s c t.1 t.2.1
    else setTrims s c sl t.1 t.2.1 t.2.2) s

/-- START_CAL_DONE (R230, R231): a slot skew of the punty beyond the limit of R238 fails it, as its own trims
do. -/
def startCalDone (n : Fin 64) (cal : List (Int × Int × Int)) (skews : List Int) (s : State) : State :=
  if cnvState s n ≠ 2 ∨ blockRuns s (Reg.CNV.page n) = false then s
  else
    let s := s.onCnv n fun t => { t with punSkew := Vector.ofFn (fun i => skews[i.val]?.getD 0) }
    let s := calAll s n 6 cal (List.range 65)
    let s := if (skews.take 64).all (fun k => trimOk 0 0 k) then s else cnvFail s n 64 6
    let s := setSlot s n (rd s (Reg.CNV.STAT_SLOT n))
    follow1 (setCnvState s n (byCount s n)) (n / 4)

def execStartCalDone (n : Fin 64) (cal : List (Int × Int × Int)) (skews : List Int) (s : State) :
    Host.Outcome State Fault Refusal := .next (startCalDone n cal skews s)

/-- CNV_UNLOCK (R228, R232, R241): READY and DEGRADED become UNLOCKED; in FAILED and FG_CAL the loop has lost lock, and
STATE stays (DESIGN CHOICE, log entry 63).  While SMP is stopped or switching the loop holds its state. -/
def cnvUnlock (n : Fin 64) (s : State) : State :=
  if cnvState s n < 3 ∨ (s.cnv n).locked = false ∨ blockRuns s (Reg.CNV.page n) = false then s
  else
    let t := s.onCnv n fun t => { t with locked := false }
    if cnvState s n = 3 ∨ cnvState s n = 4 then
      follow1 (raise (setCnvState (stepAbandon t n) n 6) (Reg.CNV.evUNLOCK n)) (n / 4)
    else cnvRegs t n

def execCnvUnlock (n : Fin 64) (s : State) : Host.Outcome State Fault Refusal := .next (cnvUnlock n s)

/-- CNV_RELOCK (R232): UNLOCKED returns to the state it left. -/
def cnvRelock (n : Fin 64) (s : State) : State :=
  if cnvState s n < 3 ∨ (s.cnv n).locked = true ∨ blockRuns s (Reg.CNV.page n) = false then s
  else
    let t := s.onCnv n fun t => { t with locked := true }
    if cnvState s n = 6 then follow1 (setCnvState t n (byCount t n)) (n / 4) else cnvRegs t n

def execCnvRelock (n : Fin 64) (s : State) : Host.Outcome State Fault Refusal := .next (cnvRelock n s)

/-! ### Steps -/

/-- PUNTY_CAL_DONE (R234, R240, R248): trims beyond a limit fail the punty with cause 3. -/
def puntyCalDone (n : Fin 64) (ofs gain : Int) (s : State) : State :=
  if rotPhase s n ≠ 1 ∨ cnvState s n ≠ 3 ∨ blockRuns s (Reg.CNV.page n) = false then s
  else if trimOk ofs gain 0 then stepEnd (setPunty s n ofs gain) n
  else follow1 (stepFail s n 64 3) (n / 4)

def execPuntyCalDone (n : Fin 64) (ofs gain : Int) (s : State) : Host.Outcome State Fault Refusal :=
  .next (puntyCalDone n ofs gain s)

/-- The seam is matched (R236). -/
def seamMatched (s : State) (c pairs : Nat) (sum : Int) (sumsq : Nat) : Bool :=
  decide (2048 ≤ pairs) && decide (16 * sum.natAbs ≤ rd s (Reg.CNV.MATCH_OFS_Q4 c) * pairs)
    && decide (256 * sumsq ≤ rd s (Reg.CNV.MATCH_RMS_Q4 c) ^ 2 * pairs)

/-- A matched seam-in: the punty serves slot k, and slice k goes offline (R235, R236, R240). -/
def seamInMatched (s : State) (c : Nat) : State :=
  let k := stepSlice s c
  let o := rd s (Reg.CNV.SLICE_A_OFS c k)
  let g := rd s (Reg.CNV.SLICE_A_GAIN c k)
  let w := rd s (Reg.CNV.SLICE_B_SKEW c k)
  let s := s.onCnv c fun t =>
    { t with inFail := t.inFail.filter (· != k), lastIn := false, seams := 0, saved := some (o, g, w) }
  setPhase (setSlot (setSlice (setSlice s c k 1) c 64 3) c k) c 3

/-- A failed seam-in (R237, R240). -/
def seamInFailed (s : State) (c : Nat) : State :=
  let k := stepSlice s c
  let t := s.cnv c
  let s := bump (raise (restoreTrims s c) (Reg.CNV.evSEAM_FAIL c)) (Reg.CNV.SEAM_CNT_IN_FAIL c) 1
  if t.lastIn then stepFail (setSlice s c k 0) c 64 4
  else if t.inFail.contains k then stepFail (setSlice s c 64 0) c k 4
  else
    let s := s.onCnv c fun t =>
      { t with inFail := t.inFail ++ [k], lastIn := true, saved := none, seams := 0 }
    setPhase (setSlice (setSlice s c k 0) c 64 1) c 1

/-- A failed seam-out (R237, R239): the punty keeps the slot for good. -/
def seamOutFailed (s : State) (c : Nat) : State :=
  let k := stepSlice s c
  stepFail (bump (raise s (Reg.CNV.evSEAM_FAIL c)) (Reg.CNV.SEAM_CNT_OUT_FAIL c) 1) c k 2

/-- The skew of the slice being brought in is adjusted for another seam (R237). -/
def seamAgain (s : State) (c : Nat) (offset : Int) : State :=
  let k := stepSlice s c
  let s := s.onCnv c fun t => { t with seams := t.seams + 1 }
  if rotPhase s c = 2 then
    s.onCnv c fun t => { t with punSkew := vset t.punSkew k (vget t.punSkew 0 k + offset) }
  else wr s (Reg.CNV.SLICE_B_SKEW c k) (unsext 12 (sext 12 (rd s (Reg.CNV.SLICE_B_SKEW c k)) + offset))

/-- The codes of a seam's pair: the slice that serves the slot, slice k at seam-in and the punty at seam-out, and the
other, each with its trims (R235, R236). -/
def pairCodes (s : State) (c : Nat) (x : SeamPair) : (Int × Bool) × (Int × Bool) :=
  let k := stepSlice s c
  let seamIn : Bool := rotPhase s c == 2
  (sampleCode (trimsOf s c (if seamIn then k else 64)) x.serving, sampleCode (trimsOf s c (if seamIn then 64 else k)) x.other)

/-- The differences of a seam's pairs, without those in which a sample is over range (R236). -/
def pairDiffs (s : State) (c : Nat) (pairs : List SeamPair) : List Int :=
  ((pairs.map (pairCodes s c)).filter fun y => !y.1.2 && !y.2.2).map fun y => y.1.1 - y.2.1

/-- SEAM_DECISION (R236, R237, R239, R240): a seam is judged on 4,096 pairs. -/
def seamDecision (n : Fin 64) (pairs : List SeamPair) (offset : Int) (s : State) : State :=
  let ph := rotPhase s n
  let d := pairDiffs s n pairs
  if cnvState s n ≠ 3 ∨ (ph ≠ 2 ∧ ph ≠ 4) ∨ blockRuns s (Reg.CNV.page n) = false ∨ pairs.length ≠ 4096 then s
  else if seamMatched s n d.length (sumOf d) (sumsqOf d) then
    (if ph = 2 then seamInMatched s n else stepEnd s n)
  else if (s.cnv n).seams + 1 < rd s (Reg.CNV.ROT_CTL_SEAM_MAX n) then seamAgain s n offset
  else follow1 (if ph = 2 then seamInFailed s n else seamOutFailed s n) (n / 4)

def execSeamDecision (n : Fin 64) (pairs : List SeamPair) (offset : Int) (s : State) :
    Host.Outcome State Fault Refusal := .next (seamDecision n pairs offset s)

/-- OFFLINE_CAL_DONE (R238): within the limits the slice takes its trims and the seam-out begins; else
it fails with cause 3 and the punty keeps its slot. -/
def offlineCalDone (n : Fin 64) (ofs gain skew : Int) (s : State) : State :=
  if rotPhase s n ≠ 3 ∨ cnvState s n ≠ 3 ∨ blockRuns s (Reg.CNV.page n) = false then s
  else
    let k := stepSlice s n
    if trimOk ofs gain skew then
      setPhase (setSlice (setSlice (setTrims s n k ofs gain skew) n k 2) n 64 2) n 4
    else follow1 (stepFail s n k 3) (n / 4)

def execOfflineCalDone (n : Fin 64) (ofs gain skew : Int) (s : State) : Host.Outcome State Fault Refusal :=
  .next (offlineCalDone n ofs gain skew s)

/-- ROT_DWELL_END (R233). -/
def rotDwellEnd (n : Fin 64) (s : State) : State :=
  if cnvState s n = 3 ∧ rotPhase s n = 0 ∧ blockRuns s (Reg.CNV.page n) = true then rotStart (setPhase s n 5) n else s

def execRotDwellEnd (n : Fin 64) (s : State) : Host.Outcome State Fault Refusal := .next (rotDwellEnd n s)

/-! ### Failures in service -/

/-- The slice that fails in a step was serving slot `k`: its samples carry code 0 until the other element serves
it, which it does at the next one (R247). -/
def stepHole (s : State) (c k : Nat) (serving : Bool) : State :=
  if serving then closeHoles (openHole s c k) c else s

/-- A fault of slice `k` of the step in progress (R247): the punty takes or keeps its slot. -/
def faultInStep (s : State) (c k : Nat) : State :=
  cnvFail (stepCount (setSlice (stepHole s c k (rotPhase s c == 2)) c 64 0) c) c k 1

/-- A fault of the punty, which gives its slot back if it was in a step for one (R247, R248).  A step that it was in
without serving a slot, a seam-in or its own calibration, counts as abandoned too, with CAL_ABANDON (DESIGN CHOICE, log
entry 63). -/
def faultOfPunty (s : State) (c : Nat) : State :=
  let serving : Bool := rotPhase s c == 3 || rotPhase s c == 4
  cnvFail (stepAbandon (stepHole s c (stepSlice s c) serving) c) c 64 5

/-- A self-check declares a fault (R243).  The mean of a run is held against the mean of all the slots with 16
times MATCH.OFS_Q4 / 16, and its mean square, in squares of an LSB, with 16 times the square of MATCH.RMS_Q4 / 16
(DESIGN CHOICE, log entry 56). -/
def checkFails (s : State) (c : Nat) : SelfCheck → Bool
  | .clockEdge => true
  | .lateDecision => true
  | .run sum sumsq n allSum allSumsq =>
    decide (rd s (Reg.CNV.MATCH_OFS_Q4 c) * (128 * n) < (sum * n - allSum * 128).natAbs)
      || decide (rd s (Reg.CNV.MATCH_RMS_Q4 c) ^ 2 * (128 * n)
          < 16 * ((sumsq * n : Nat) - (allSumsq * 128 : Nat) : Int).natAbs)

/-- A fault is declared (R243 to R248). -/
def sliceFault1 (s : State) (c sl : Nat) : State :=
  let st := cnvState s c
  let cause := if sl = 64 then 5 else 1
  if st ≤ 2 ∨ sliceFailed s c sl = true then s
  else if st ≠ 3 then cnvFail s c sl cause
  else match (s.cnv c).hole with
    | some j =>
      if j = sl then s
      else cnvFail (cnvFail (closeHoles (s.onCnv c fun t => { t with hole := none }) c) c j 1) c sl cause
    | none =>
      let ph := rotPhase s c
      if sl = 64 then faultOfPunty s c
      else if 2 ≤ ph ∧ ph ≤ 4 ∧ stepSlice s c = sl then faultInStep s c sl
      else openHole ((stepAbandon s c).onCnv c fun t => { t with hole := some sl }) c sl

/-- The elements that declare faults in one SMP cycle, the lower first (R243, R246). -/
def faultsOf (s : State) (c : Nat) (a : Checked) : Option Checked → List Nat
  | none => if checkFails s c a.found then [a.elem.val] else []
  | some b =>
    (List.range 65).filter fun i =>
      (i == a.elem.val && checkFails s c a.found) || (i == b.elem.val && checkFails s c b.found)

/-- SLICE_FAULT (R243 to R248). -/
def sliceFault (n : Fin 64) (by1 : Checked) (by2 : Option Checked) (s : State) : State :=
  if blockRuns s (Reg.CNV.page n) then
    follow1 ((faultsOf s n by1 by2).foldl (fun s k => sliceFault1 s n k) s) (n / 4)
  else s

def execSliceFault (n : Fin 64) (by1 : Checked) (by2 : Option Checked) (s : State) :
    Host.Outcome State Fault Refusal := .next (sliceFault n by1 by2 s)

/-- PUNTY_TAKES_SLOT (R244 steps 5 and 6). -/
def puntyTakesSlot (n : Fin 64) (s : State) : State :=
  match (s.cnv n).hole with
  | none => s
  | some j =>
    if blockRuns s (Reg.CNV.page n) then
      follow1 (cnvFail (closeHoles (s.onCnv n fun t => { t with hole := none }) n) n j 1) (n / 4)
    else s

def execPuntyTakesSlot (n : Fin 64) (s : State) : Host.Outcome State Fault Refusal :=
  .next (puntyTakesSlot n s)

/-! ### Foreground calibration -/

/-- What a write of CNV[n].CMD does (R249), unless THERM_CRIT has stopped the block (R68).  SLICE_B.STATE of the slices
stays as it was while all of them are calibrated (DESIGN CHOICE, log entry 63). -/
def cnvCmdEffect (s : State) (c v : Nat) : State :=
  if bit v 0 = false ∨ blockRuns s (Reg.CNV.page c) = false then s
  else if (cnvState s c = 3 ∨ cnvState s c = 4) ∧ bit (rd s (Reg.PORT.SQ_NOW_CAUSE (c / 4))) 0 = true then
    follow1 (setCnvState (stepAbandon s c) c 7) (c / 4)
  else raise s (Reg.CNV.evCMD_REFUSED c)

/-- FG_DONE (R249): every slice in service is calibrated, the punty if it serves a slot.  A loop that has lost lock
meanwhile makes the converter UNLOCKED (DESIGN CHOICE, log entry 63). -/
def fgDone (n : Fin 64) (cal : List (Int × Int × Int)) (s : State) : State :=
  if cnvState s n ≠ 7 ∨ blockRuns s (Reg.CNV.page n) = false then s
  else
    let serving := rd s (Reg.CNV.SLICE_B_STATE n 64) == 4
    let s := calAll s n 3 cal (List.range 64 ++ (if serving then [64] else []))
    let sk := (cal[64]?.getD (0, 0, 0)).2.2
    let slot := rd s (Reg.CNV.STAT_SLOT n)
    let s := if serving && !sliceFailed s n 64 then
        setSlot (s.onCnv n fun t => { t with punSkew := vset t.punSkew slot sk }) n slot
      else s
    let st := if byCount s n < 5 ∧ (s.cnv n).locked = false then 6 else byCount s n
    let s := raiseIf (st == 6) (setCnvState s n st) (Reg.CNV.evUNLOCK n)
    follow1 (raise s (Reg.CNV.evFG_DONE n)) (n / 4)

def execFgDone (n : Fin 64) (cal : List (Int × Int × Int)) (s : State) :
    Host.Outcome State Fault Refusal := .next (fgDone n cal s)

end Sys2Proof.Machine
end

