-- ==== Sys2Proof/Machine/Operands.lean ====
section
/-! DEFINITION. Arithmetic that several blocks share: rounding as the spec words it, an integer square
root, and the sine, cosine and angle of the tone detector (R420) in fixed point (log entry 12). -/

namespace Sys2Proof.Machine

/-- `a / b` rounded to the nearest integer, halves away from zero (R404, R413). -/
def roundAway (a : Int) (b : Nat) : Int :=
  if 0 ≤ a then (2 * a + b) / (2 * (b : Int)) else -((-(2 * a) + b) / (2 * (b : Int)))

/-- A signed value held to 32 bits, and whether it was outside (sat32 of R406). -/
def sat32 (x : Int) : Int × Bool :=
  (clampI (-(2 ^ 31)) (2 ^ 31 - 1) x, decide (x < -(2 ^ 31)) || decide (2 ^ 31 ≤ x))

/-- Integer square root, rounded down, by trying bits from `2^(n-1)` down. -/
def isqrt : Nat → Nat → Nat → Nat
  | 0, _, r => r
  | n + 1, x, r => if (r + 2 ^ n) * (r + 2 ^ n) ≤ x then isqrt n x (r + 2 ^ n) else isqrt n x r

/-- Two pi in units of 2^-64. -/
def twoPi : Int := 115904311329233965478

/-- The Taylor terms of cosine and sine from the `k`-th on: `t` is the `k`-th power of `x` over k
factorial, in units of 2^-64. -/
def trigTerms : Nat → Nat → Int → Int → Int × Int
  | 0, _, _, _ => (0, 0)
  | n + 1, k, t, x =>
    let r := trigTerms n (k + 1) (t * x / (2 ^ 64 * ((k : Int) + 1))) x
    if k % 4 = 0 then (r.1 + t, r.2) else if k % 4 = 1 then (r.1, r.2 + t)
    else if k % 4 = 2 then (r.1 - t, r.2) else (r.1, r.2 - t)

/-- Cosine and sine of `r / den` of a turn, less than a whole one, in units of 2^-64 (log entry 12). -/
def cosSinOf (r den : Nat) : Int × Int :=
  let x := trigTerms 28 0 (2 ^ 64) ((4 * r % den : Nat) * twoPi / (4 * den))
  match 4 * r / den with
  | 0 => x
  | 1 => (-x.2, x.1)
  | 2 => (-x.1, -x.2)
  | _ => (x.2, -x.1)

/-- Cosine and sine of a phase in units of 2^-24 of a turn. -/
def cosSin (phi : Nat) : Int × Int := cosSinOf (phi % 2 ^ 24) (2 ^ 24)

/-- The largest of the 2^n steps of 1/`den` of a turn, from `j` on, whose direction is not beyond the
vector (i, q) of the first quadrant. -/
def angleSteps (den : Nat) : Nat → Nat → Int → Int → Nat
  | 0, j, _, _ => j
  | n + 1, j, i, q =>
    let d := cosSinOf ((j + 2 ^ n) % den) den
    if 0 ≤ q * d.1 - i * d.2 then angleSteps den n (j + 2 ^ n) i q else angleSteps den n j i q

/-- atan2 in units of 1/65,536 of a turn, to the nearest (R420). -/
def angle16 (i q : Int) : Nat :=
  let j :=
    if 0 < i ∧ 0 ≤ q then angleSteps 131072 15 0 i q
    else if i ≤ 0 ∧ 0 < q then 32768 + angleSteps 131072 15 0 q (-i)
    else if i < 0 ∧ q ≤ 0 then 65536 + angleSteps 131072 15 0 (-i) (-q)
    else 98304 + angleSteps 131072 15 0 (-q) i
  (j + 1) / 2 % 65536

/-- TONE_MAG (R420) of sums in units of 2^-64 over `l` outputs. -/
def toneMag (i q : Int) (l : Nat) : Nat :=
  min ((isqrt 160 (16 * (i * i + q * q).toNat) 0 + l * 2 ^ 64) / (2 * (l * 2 ^ 64))) 0xFFFFFFFF

end Sys2Proof.Machine
end

