-- ==== Sys2Proof/Machine/Pipeline.lean ====
section
/-! DEFINITION. The equaliser's signal path (chapter 08, R259 to R272): lane assembly, dispersion and skew
compensation, derotation, butterfly, carrier recovery, decisions and tap updates, in exact integer arithmetic.  The
spec gives widths and no rounding: each value cut to its width is the exact one rounded down or up, as a free bit
says (log entry 57). -/

namespace Sys2Proof.Machine

/-! ### Complex numbers -/

/-- A complex number of integers. -/
abbrev Cx := Int × Int

def cxAdd (a b : Cx) : Cx := (a.1 + b.1, a.2 + b.2)

def cxMul (a b : Cx) : Cx := (a.1 * b.1 - a.2 * b.2, a.1 * b.2 + a.2 * b.1)

def cxConj (a : Cx) : Cx := (a.1, -a.2)

def cxScale (k : Int) (a : Cx) : Cx := (k * a.1, k * a.2)

def cxAbs2 (a : Cx) : Nat := a.1.natAbs ^ 2 + a.2.natAbs ^ 2

def cxSum (l : List Cx) : Cx := l.foldl cxAdd (0, 0)

/-- The unit vector at `num / den` of a turn, in 2^-30: cosine and sine in fixed point (log entry 57). -/
def cis (num : Int) (den : Nat) : Cx :=
  let r := (num % den).toNat
  let x := cosSinOf r den
  (x.1 / 2 ^ 34, x.2 / 2 ^ 34)

/-- `num / den` if that is whole, and else rounded down, or up, as free bit `i` of the numbering `c` says. -/
def near (c i : Nat) (num : Int) (den : Nat) : Int :=
  if num % den = 0 then num / den else num / den + ((Config.freeByte c i).toNat % 2 : Nat)

/-- A complex quotient cut to 12 and 12 bits. -/
def cut12 (c i : Nat) (a : Cx) (den : Nat) : Cx :=
  (clampI (-2048) 2047 (near c (2 * i) a.1 den), clampI (-2048) 2047 (near c (2 * i + 1) a.2 den))

/-! ### Dispersion and skew compensation (R259, R263, R284) -/

/-- Block `k` of `n` of the CD fade in use: 0 of 1 without one (R284). -/
def cdWeight (s : State) (p : Nat) : Nat × Nat :=
  match (s.eq p).cdFade with
  | none => (0, 1)
  | some n => (rd s (Reg.EQ.FADE_CD_POS p) + 1, n)

/-- Block `k` of `n` of the BF fade in use. -/
def bfWeight (s : State) (p : Nat) : Nat × Nat :=
  match (s.eq p).bfFade with
  | none => (0, 1)
  | some n => (rd s (Reg.EQ.FADE_BF_POS p) + 1, n)

/-- H(f) at bin `m` of 2^`lg` (R263): exp of j times 2 pi times D k f^2 / 2,000, at f = m fs / N, with D times the
square of lambda interpolated in a fade (R284). -/
def cdBin (s : State) (p lg : Nat) (m : Int) : Cx :=
  let w := cdWeight s p
  let a := cdUse s p
  let b := cdStandby s p
  let dl := ((w.2 : Int) - w.1) * a.d * (a.lam : Int) ^ 2 + (w.1 : Int) * b.d * (b.lam : Int) ^ 2
  cis (dl * m ^ 2 * 81 * (eqRate s p : Int) ^ 2)
    (w.2 * 10 ^ 4 * 299792458 * 2000 * (64 * 10 ^ 6) * (2 ^ lg) ^ 2)

/-- The delay of lane `l` at bin `m` (R263): exp of -j times 2 pi times f times the skew, in 0.1 ps. -/
def skewBin (s : State) (p lg l : Nat) (m : Int) : Cx :=
  let w := cdWeight s p
  let d := ((w.2 : Int) - w.1) * (cdUse s p).skew.getD l 0 + (w.1 : Int) * (cdStandby s p).skew.getD l 0
  cis (-(m * 9 * (eqRate s p : Int) * d)) (w.2 * 8000 * 2 ^ lg * 10 ^ 4)

/-- Bin `m` of a lane's codes, in 2^-30. -/
def dftBin (lg : Nat) (xs : List Int) (m : Int) : Cx :=
  cxSum (xs.mapIdx fun n x => cxScale x (cis (-(m * n)) (2 ^ lg)))

/-- Bin `m` of a polarisation: X = XI + jXQ (R259), each lane delayed, through H(f), in 2^-90. -/
def polBin (s : State) (p lg l : Nat) (i q : List Int) (m : Int) : Cx :=
  let a := cxMul (dftBin lg i m) (skewBin s p lg l m)
  let b := cxMul (dftBin lg q m) (skewBin s p lg (l + 1) m)
  cxMul (cxAdd a (cxMul (0, 1) b)) (cdBin s p lg m)

/-- The N/2 new samples of a block in one polarisation, with 4 bits below a code (R259, overlap-save: the middle
half). -/
def cdBlock (s : State) (p l c : Nat) (i q : List Int) : List Cx :=
  let lg := eqLog2N s p
  let n := 2 ^ lg
  let spec := (List.range n).map fun (k : Nat) => polBin s p lg l i q ((k : Int) - (n / 2 : Nat))
  (List.range (n / 2)).map fun t =>
    cut12 c (2 * t + l / 2) (cxScale 16 (cxSum (spec.mapIdx fun k x =>
      cxMul x (cis (((k : Int) - (n / 2 : Nat)) * (t + n / 4 : Nat)) n)))) (n * 2 ^ 120)

/-- The derotator (R266): exp of -j times 2 pi times the frequency offset times the sample's time. -/
def derotate (s : State) (p c : Nat) (i idx : Nat) (x : Cx) : Cx :=
  cut12 c i (cxMul x (cis (-((s.eq p).freq * 8 * idx)) (9 * eqRate s p * 1000))) (2 ^ 30)

/-- The crossing words that a lane of a block comes in. -/
def laneWords (s : State) (c : Nat) (xs : List Samp) : List CrossWord := crossWords s c (xs.length / 150) xs

/-- The N samples of a lane of a block, from its words. -/
def laneCodes (lg skip : Nat) (ws : List CrossWord) : List Int :=
  ((ws.flatMap CrossWord.codes).drop skip).take (2 ^ lg)

/-- The crossing words of a block, lane by lane. -/
def blockWords (s : State) (p : Nat) (b : EqBlock) : List (List CrossWord) :=
  [laneWords s (4 * p) b.xi, laneWords s (4 * p + 1) b.xq, laneWords s (4 * p + 2) b.yi, laneWords s (4 * p + 3) b.yq]

/-- A block's input holds a word with HOLE (R260, R262). -/
def blockHole (s : State) (p : Nat) (b : EqBlock) : Bool := (blockWords s p b).any fun l => l.any (·.hole)

/-- A block's input holds a word with SQ (R260). -/
def blockSq (s : State) (p : Nat) (b : EqBlock) : Bool := (blockWords s p b).any fun l => l.any (·.sq)

/-- Index and stamp of the first sample of a block. -/
def blockFirst (b : EqBlock) : Nat := ((b.xi.drop b.skip).head?.map (·.idx)).getD 0

def blockTime (b : EqBlock) : Nat := ((b.xi.drop b.skip).head?.map (·.time)).getD 0

/-- A sample pair before the butterfly: its index, and of the block it comes out of the stamp of the first sample and
the marks. -/
structure BfIn where
  idx  : Nat
  x    : Cx
  y    : Cx
  time : Nat
  hole : Bool
  sq   : Bool
deriving DecidableEq, Repr

/-- What a block gives the butterfly. -/
def blockOut (s : State) (p c : Nat) (b : EqBlock) : List BfIn :=
  let lg := eqLog2N s p
  let ws := blockWords s p b
  let lane := fun (l : Nat) => laneCodes lg b.skip (ws.getD l [])
  let first := blockFirst b + 2 ^ lg / 4
  let xs := cdBlock s p 0 c (lane 0) (lane 1)
  let ys := cdBlock s p 2 c (lane 2) (lane 3)
  let hole := blockHole s p b
  let sq := blockSq s p b
  (List.range xs.length).map fun t =>
    { idx := first + t, x := derotate s p c (2 * t) (first + t) (xs.getD t (0, 0))
      y := derotate s p c (2 * t + 1) (first + t) (ys.getD t (0, 0)), time := blockTime b, hole := hole, sq := sq }

/-- The stream that a run's blocks give the butterfly. -/
def bfStream (s : State) (p c : Nat) (bl : List EqBlock) : List BfIn := bl.flatMap (blockOut s p c)

/-! ### Butterfly and timing (R267, R284) -/

/-- A tap as a complex number in 2^-14 (R282). -/
def tapCx (w : Nat) : Cx := (sext 16 (w % 65536), sext 16 (w / 65536))

/-- A tap as its image word. -/
def tapWord (a : Cx) : Nat := unsext 16 a.1 + 65536 * unsext 16 a.2

/-- The sample instants from one symbol to the next, in 2^-32 samples: 9/8 samples at the nominal symbol frequency,
which the timing loop follows within 200 ppm (R267). -/
def symStep (ppb : Int) : Int := 4831838208 - 4831838208 * ppb / 10 ^ 9

/-- A symbol frequency within what the timing loop follows. -/
def ppbHeld (v : Int) : Int := clampI (-200000) 200000 v

/-- Where a run's first symbol lies: where the timing loop has left off, or at the stream's first sample. -/
def firstInstant (t : Timing) (st : List BfIn) : Int :=
  t.next.getD (2 ^ 32 * (((st.head?.map (·.idx)).getD 0 : Nat) : Int))

/-- The inputs of a symbol at an instant under a filter's taps, interpolated, in 2^-14 (R267): the tap `t` samples
before it. -/
def symIn (st : List BfIn) (f : BfIn → Cx) (n : Nat) (instant : Int) : List Cx :=
  let first : Nat := (st.head?.map (·.idx)).getD 0
  let pos : Int := instant / 2 ^ 32 - first
  let wts := Config.interp (instant % 2 ^ 32).toNat
  (List.range n).map fun (t : Nat) =>
    cxSum (wts.mapIdx fun k w => cxScale w (if (t : Int) ≤ pos + k then
      (st[(pos + k - t).toNat]?.map f).getD (0, 0) else (0, 0)))

/-- The stream's sample pair at an instant. -/
def inAt (st : List BfIn) (instant : Int) : Option BfIn :=
  let pos : Int := instant / 2 ^ 32 - (((st.head?.map (·.idx)).getD 0 : Nat) : Int)
  if 0 ≤ pos then st[pos.toNat]? else none

/-- Filter `f` of a bank over inputs. -/
def fir (taps : List Nat) (n f : Nat) (xs : List Cx) : Cx :=
  cxSum (xs.mapIdx fun t x => cxMul x (tapCx (taps.getD (n * f + t) 0)))

/-- X' = hxx * X + hxy * Y and Y' = hyx * X + hyy * Y for a bank's taps (R267). -/
def butterfly (taps : List Nat) (n : Nat) (xs ys : List Cx) : Cx × Cx :=
  (cxAdd (fir taps n 0 xs) (fir taps n 1 ys), cxAdd (fir taps n 2 xs) (fir taps n 3 ys))

/-- The two outputs in 12 and 12 bits (R259), in a fade mixed with the loaded bank's (R284), exchanged under POL_SWAP
(R271). -/
def bfOut (s : State) (p c i : Nat) (taps : List Nat) (xs ys : List Cx) : Cx × Cx :=
  let w := bfWeight s p
  let n := (bfUse s p).ntaps
  let a := butterfly taps n xs ys
  let b := butterfly (bfStandby s p).taps n xs ys
  let mix := fun (k : Nat) (u v : Cx) =>
    cut12 c (i + k) (cxAdd (cxScale ((w.2 : Int) - w.1) u) (cxScale w.1 v)) (2 ^ 28 * w.2)
  let o := (mix 0 a.1 b.1, mix 1 a.2 b.2)
  if rdb s (Reg.EQ.STAT_POL_SWAP p) then (o.2, o.1) else o

/-! ### Pilots and carrier recovery (R270, R272) -/

/-- The register of the PRBS with x^15 + x^14 + 1 after `n` bits; its top bit goes out (PRESUMED, log entry 57). -/
def prbs15 (seed : Nat) : Nat → Nat
  | 0 => seed
  | n + 1 =>
    let r := prbs15 seed n
    r * 2 % 32768 + (bits r 14 1 + bits r 13 1) % 2

/-- Pilot `j` of a polarisation: bits 2j and 2j + 1 of its PRBS give the signs of I and Q (R270). -/
def pilotOf (seed j : Nat) : Cx :=
  let v := fun (k : Nat) => if bit (prbs15 seed (k % 32767)) 14 then (-724 : Int) else 724
  (v (2 * j), v (2 * j + 1))

/-- SEED_X and SEED_Y in use (R274). -/
def seedX (s : State) (p : Nat) : Nat := bits (rd s (Reg.EQ.SEED_NOW_SEED p)) 0 15

def seedY (s : State) (p : Nat) : Nat := bits (rd s (Reg.EQ.SEED_NOW_SEED p)) 16 15

/-- PER and AVG in use. -/
def pilotPer (s : State) (p : Nat) : Nat := 2 ^ bits (rd s (Reg.EQ.PILOT_NOW_PILOT p)) 0 4

def pilotAvg (s : State) (p : Nat) : Nat := bits (rd s (Reg.EQ.PILOT_NOW_PILOT p)) 8 4

/-- The pilot index of symbol `n` of a run, if it is a pilot (R270): the positions and the phase of the PRBS are those
that pilot synchronisation has found. -/
def pilotAt (s : State) (p n : Nat) : Option Nat :=
  let per := pilotPer s p
  let a := (s.eq p).pil
  if a.1 ≤ n ∧ (n - a.1) % per = 0 then some ((a.2 + (n - a.1) / per) % 32767) else none

/-- The phase error of a received pilot against the known one, in 2^-16 turns. -/
def pilotPhase (y known : Cx) : Int := let z := cxMul y (cxConj known); (angle16 z.1 z.2 : Nat)

/-- Phases without the turns between them: each within half a turn of the one before. -/
def unwrap : Int → List Int → List Int
  | _, [] => []
  | a, b :: t =>
    let v := a + (b - a + 32768) % 65536 - 32768
    v :: unwrap v t

/-- The phase errors of a run's pilots (R272), from (AVG - 1) / 2 pilots before the one that precedes the run on. -/
def pilotPhases (s : State) (p seed : Nat) (l : List Cx) : List Int :=
  let j := (s.eq p).pil.2 + 2 * 32767 - 1 - (pilotAvg s p - 1) / 2
  unwrap 0 (l.mapIdx fun k y => pilotPhase y (pilotOf seed ((j + k) % 32767)))

/-- The phase at symbol `n`, over AVG x PER x 2^16 turns (R272): each pilot's is the mean of AVG phase errors about
it, and a symbol's lies on the line between the pilots beside it.  The known pilots make it absolute, so that it
settles the fourfold ambiguity of each output (R271). -/
def carrierPhase (s : State) (p : Nat) (ph : List Int) (n : Nat) : Int :=
  let per := pilotPer s p
  let avg := pilotAvg s p
  let at0 := n + per - (s.eq p).pil.1 % per
  let mean := fun (k : Nat) => ((ph.drop k).take avg).foldl (· + ·) 0
  mean (at0 / per) * ((per : Int) - (at0 % per : Nat)) + mean (at0 / per + 1) * (at0 % per : Nat)

/-- The turn of carrier recovery at symbol `n`; before TRACK no pilot gives one. -/
def carrierTurn (s : State) (p : Nat) (ph : List Int) (n : Nat) : Cx :=
  cis (-(carrierPhase s p ph n)) (65536 * (pilotAvg s p * pilotPer s p))

/-- A symbol at the scale of R260: the output turned back by the carrier phase, cut to 12 and 12 bits. -/
def carrier (c i : Nat) (turn x : Cx) : Cx := cut12 c i (cxMul x turn) (2 ^ 30)

/-! ### Decisions and errors (R268) -/

/-- The square of a level's unit is 1,024^2 over this: twice the mean square of a dimension's levels. -/
def gridNorm (modu : Nat) : Nat := if modu = 1 then 10 else if modu = 2 then 42 else 2

/-- Positive levels of a dimension. -/
def gridMax (modu : Nat) : Nat := if modu = 1 then 3 else if modu = 2 then 7 else 1

/-- The level, in units of the grid, nearest to a value at the scale of R260. -/
def nearLevel (modu : Nat) (v : Int) : Int :=
  let l := ((List.range 4).filter fun k =>
    2 * k + 1 < gridMax modu + 1 ∧ (2 * k) ^ 2 * 1024 ^ 2 ≤ gridNorm modu * v.natAbs ^ 2).length
  let a : Int := 2 * (l : Int) - 1
  if v < 0 then -a else a

/-- A decision, in units of the grid. -/
def decide2 (modu : Nat) (y : Cx) : Cx := (nearLevel modu y.1, nearLevel modu y.2)

/-- A decision at the scale of R260, in 2^-20. -/
def gridPoint (modu : Nat) (a : Cx) : Cx :=
  -- 1,024 x 2^20 / sqrt(norm): 759,250,125 for QPSK, 339,546,978 for 16QAM, 165,681,960 for 64QAM
  cxScale (if modu = 1 then 339546978 else if modu = 2 then 165681960 else 759250125) a

/-- The squares of the ring radii at the scale of R260, times the norm (R268, RDE). -/
def rings (modu : Nat) : List Nat :=
  (if modu = 1 then [2, 10, 18] else if modu = 2 then [2, 10, 18, 26, 34, 50, 58, 74, 98] else [2]).map
    fun r => r * 1024 ^ 2

/-- The CMA's constant, E|a|^4 / E|a|^2, at the scale of R260, times 1,000. -/
def cmaConst (modu : Nat) : Nat := (if modu = 1 then 1320 else if modu = 2 then 1381 else 1000) * 1024 ^ 2

/-- What an algorithm takes as the error of an output symbol, in 2^-20 at the scale of R260 (R268; the algorithms'
own formulas are PRESUMED, log entry 57): LMS the decision minus the output; CMA and RDE the output times the
constant, or the nearest ring, minus its power. -/
def lmsErr (modu : Nat) (y : Cx) : Cx := cxAdd (gridPoint modu (decide2 modu y)) (cxScale (-(2 ^ 20)) y)

def cmaErr (modu : Nat) (y : Cx) : Cx := cxScale (((cmaConst modu / 1000 : Nat) : Int) - cxAbs2 y) y

def rdeErr (modu : Nat) (y : Cx) : Cx :=
  let far := fun (r : Nat) => ((r : Int) - (cxAbs2 y * gridNorm modu : Nat)).natAbs
  let r := (rings modu).foldl (fun a b => if far b < far a then b else a) ((rings modu).headD 0)
  cxScale (((r / gridNorm modu : Nat) : Int) - cxAbs2 y) y

/-- The error by ALG and stage (R268). -/
def algErr (alg modu : Nat) (track : Bool) (y : Cx) : Cx :=
  if alg = 1 then cmaErr modu y
  else if alg = 2 then rdeErr modu y
  else if track then lmsErr modu y
  else if modu = 0 then cmaErr modu y
  else rdeErr modu y

/-- What a symbol adds to the taps of its two filters, in 2^-14 before the step: the error, turned back to the
butterfly's output, times the conjugate of the inputs, both relative to 1,024. -/
def tapGrad (e turn : Cx) (xs : List Cx) : List Cx := xs.map fun x => cxMul (cxMul e (cxConj turn)) (cxConj x)

/-! ### A run of DSP cycles (R262, R268, R293) -/

/-- What feeds the taps: nothing; pilots alone, against the known ones; or every symbol. -/
inductive Feed | none | pilots | all
deriving DecidableEq, Repr

/-- Where a run of the adaptation stands: taps, updates on their way, and the symbols so far, newest first. -/
structure EqRunAt where
  taps : List Nat
  updQ : List (List Cx)
  syms : List EqSym
deriving DecidableEq, Repr

/-- What a run goes by: the stream, the instant of its first symbol and the way to the next, the phase errors of its
pilots, what feeds the taps, and whether EQ[p] is in TRACK. -/
structure RunBy where
  st    : List BfIn
  at0   : Int
  step  : Int
  phX   : List Int
  phY   : List Int
  feed  : Feed
  track : Bool
deriving DecidableEq, Repr

/-- A symbol of both polarisations, and what it adds to the taps: nothing if it comes out of a block with a HOLE
(R262). -/
def eqSymbol (s : State) (p c : Nat) (r : RunBy) (taps : List Nat) (n : Nat) : EqSym × List Cx :=
  let nt := (bfUse s p).ntaps
  let t := r.at0 + r.step * n
  let xs := symIn r.st (·.x) nt t
  let ys := symIn r.st (·.y) nt t
  let o := bfOut s p c (4 * n) taps xs ys
  let tx := if r.track then carrierTurn s p r.phX n else (2 ^ 30, 0)
  let ty := if r.track then carrierTurn s p r.phY n else (2 ^ 30, 0)
  let x := carrier c (4 * n + 2) tx o.1
  let y := carrier c (4 * n + 3) ty o.2
  let j := if r.track then pilotAt s p n else none
  let src := inAt r.st t
  let hole : Bool := (src.map (·.hole)).getD false
  let modu := bits (rd s (Reg.EQ.CFG_NOW_CFG p)) 16 3
  let alg := bits (rd s (Reg.EQ.CFG_NOW_CFG p)) 20 2
  let err := fun (v : Cx) (seed : Nat) => match r.feed, j with
    | .none, _ => ((0, 0) : Cx)
    | .pilots, Option.none => (0, 0)
    | .pilots, some k => cxScale (2 ^ 20) (cxAdd (pilotOf seed k) (cxScale (-1) v))
    | .all, _ => algErr alg modu r.track v
  let ex := (if hole then (0, 0) else err x (seedX s p), tx)
  let ey := (if hole then (0, 0) else err y (seedY s p), ty)
  let e := if rdb s (Reg.EQ.STAT_POL_SWAP p) then (ey, ex) else (ex, ey)
  ({ x := x, y := y, pilot := j, hole := hole, sq := (src.map (·.sq)).getD false },
    tapGrad e.1.1 e.1.2 xs ++ tapGrad e.1.1 e.1.2 ys ++ tapGrad e.2.1 e.2.2 xs ++ tapGrad e.2.1 e.2.2 ys)

/-- Taps after an update (R268): each tap takes the sum of what the cycle's symbols add, by the step 2^-(mu + 4). -/
def applyUpd (c mu : Nat) (taps : List Nat) (u : List Cx) : List Nat :=
  taps.mapIdx fun i w =>
    let d := u.getD i (0, 0)
    let den := 2 ^ (mu + 4) * 2 ^ 70
    tapWord (clampI (-32768) 32767 ((tapCx w).1 + near c (2 * i) d.1 den),
      clampI (-32768) 32767 ((tapCx w).2 + near c (2 * i + 1) d.2 den))

/-- The `k` symbols of one DSP cycle, from symbol `n` of the run on, and the sum of what they add. -/
def eqCycle (s : State) (p c : Nat) (r : RunBy) (taps : List Nat) : Nat → Nat → List EqSym × List Cx
  | _, 0 => ([], [])
  | n, k + 1 =>
    let e := eqSymbol s p c r taps n
    let l := eqCycle s p c r taps (n + 1) k
    (e.1 :: l.1, (List.range e.2.length).map fun i => cxAdd (e.2.getD i (0, 0)) (l.2.getD i (0, 0)))

/-- The DSP cycles of a run, from symbol `n` on: an update reaches the taps 24 cycles after its symbols (R268). -/
def eqCycles (s : State) (p c mu : Nat) (r : RunBy) : Nat → List Nat → EqRunAt → EqRunAt
  | _, [], a => a
  | n, k :: t, a =>
    let e := eqCycle s p (c + n) r a.taps n k
    let q := a.updQ ++ [e.2]
    let due := if 24 < q.length then q.head? else none
    let b : EqRunAt :=
      { taps := match due with
          | none => a.taps
          | some u => if r.feed = .none then a.taps else applyUpd (c + n) mu a.taps u
        updQ := if 24 < q.length then q.tail else q
        syms := e.1.reverse ++ a.syms }
    eqCycles s p c mu r (n + k) t b

/-- Symbols of a run. -/
def runSize (r : EqSpan) : Nat := r.cycles.foldl (· + ·) 0

/-- Where a run leaves the adaptation of port `p`. -/
def eqRun (s : State) (p mu : Nat) (feed : Feed) (track : Bool) (r : EqSpan) : EqRunAt :=
  let c := s.freeCtr
  let st := bfStream s p c r.blocks
  let h := s.eq p
  eqCycles s p c mu
    { st := st, at0 := firstInstant h.tim st, step := symStep h.tim.ppb, phX := pilotPhases s p (seedX s p) r.pilX
      phY := pilotPhases s p (seedY s p) r.pilY, feed := feed, track := track }
    0 r.cycles ⟨(bfUse s p).taps, h.updQ, []⟩

/-- The run as STATE and the guard have it feed the taps (R268, R273, R293): MU_BLIND in BLIND and SYNC; in TRACK
MU_DD, and while the guard holds nothing or, with GUARD_MODE 1, the pilots by MU_PILOT. -/
def eqRunNow (s : State) (p : Nat) (r : EqSpan) : EqRunAt :=
  let st := rd s (Reg.EQ.STAT_STATE p)
  if st = 5 then
    if rdb s (Reg.EQ.STAT_GUARD p) then
      eqRun s p (rd s (Reg.EQ.BF_CTL_MU_PILOT p)) (if rdb s (Reg.EQ.BF_CTL_GUARD_MODE p) then .pilots else .none)
        true r
    else eqRun s p (rd s (Reg.EQ.BF_CTL_MU_DD p)) .all true r
  else eqRun s p (rd s (Reg.EQ.BF_CTL_MU_BLIND p)) (if st = 3 ∨ st = 4 then .all else .none) false r

/-! ### What a run leaves (R260, R267, R291, R328) -/

/-- The timing loop after a run of `n` symbols (R262, R267, R293): it follows within 200 ppm; while the guard holds it
moves its phase alone; and a run whose blocks all hold a HOLE moves nothing. -/
def timAfter (s : State) (p n : Nat) (r : EqRun) : Timing :=
  let h := s.eq p
  let moves := !r.blocks.all (blockHole s p)
  let at0 := firstInstant h.tim (bfStream s p s.freeCtr r.blocks) + symStep h.tim.ppb * n
  { ppb := if moves && !rdb s (Reg.EQ.STAT_GUARD p) then ppbHeld r.timF else h.tim.ppb
    next := some (at0 + (if moves then r.timP else 0)) }

/-- The pilot positions after `n` symbols. -/
def pilAfter (s : State) (p n : Nat) : Nat × Nat :=
  let a := (s.eq p).pil
  let per := pilotPer s p
  if n ≤ a.1 then (a.1 - n, a.2)
  else
    let k := (n - a.1 + per - 1) / per
    (a.1 + k * per - n, (a.2 + k) % 32767)

/-- A pilot symbol received, and the known ones. -/
def EstAcc.pilot (o : EstAcc) (x y knownX knownY : Cx) : EstAcc :=
  let far := fun (a b : Cx) => cxAbs2 (cxAdd a (cxScale (-1) b))
  { o with pilots := o.pilots + 1, errX := o.errX + b2n (decide2 0 x != decide2 0 knownX)
           errY := o.errY + b2n (decide2 0 y != decide2 0 knownY), dist := o.dist + far x knownX + far y knownY }

/-- A dispersion block: CD_NOW, TRACK, the guard, its HOLE and the frequency offset in kHz. -/
def EstAcc.block (o : EstAcc) (cd : Int) (track guard hole : Bool) (f : Int) : EstAcc :=
  let own : Bool := !guard && !hole
  { o with blocks := o.blocks + 1, track := o.track + b2n track, clear := o.clear + b2n (track && own)
           cdN := o.cdN + b2n own, cdSum := o.cdSum + (if own then cd else 0)
           fSum := o.fSum + (if track then f else 0)
           fMin := if track then (if o.track = 0 then f else min o.fMin f) else o.fMin
           fMax := if track then (if o.track = 0 then f else max o.fMax f) else o.fMax }

/-- A window that has ended holds a stamp. -/
def Ended.holds (e : Ended) (t : Nat) : Bool :=
  (e.back || decide (1000 * e.win.start ≤ t)) && decide (t < 1000 * e.win.fin)

/-- Something of EQ[p] with a stamp counts in the window that holds it: the oldest of those that have ended and do, or
the one in progress (R328, R331). -/
def estAdd (s : State) (p t : Nat) (f : EstAcc → EstAcc) : State :=
  s.onTstat p fun u =>
    match u.ended.findIdx? (fun e => e.holds t) with
    | some i => { u with ended := u.ended.modify i fun e => { e with est := f e.est } }
    | none =>
      match u.win with
      | none => u
      | some w =>
        if (u.back || decide (1000 * w.start ≤ t)) && decide (t < 1000 * w.fin) then { u with est := f u.est } else u

/-- The blocks of a run not counted yet count (R328, R333). -/
def countBlocks (s : State) (p : Nat) (bl : List EqBlock) : State :=
  bl.foldl (fun s b =>
    if blockFirst b < (s.eq p).blkNext then s
    else
      let cd := sext 22 (rd s (Reg.EQ.CD_NOW_PSNM p))
      let track : Bool := rd s (Reg.EQ.STAT_STATE p) == 5
      let guard := rdb s (Reg.EQ.STAT_GUARD p)
      let hole := blockHole s p b
      let fr := (s.eq p).freq
      (estAdd s p (blockTime b) fun o => o.block cd track guard hole fr).onEq p fun e =>
        { e with blkNext := blockFirst b + 1 }) s

/-- The pilots of a run count, by the blocks they come out of. -/
def countPilots (s : State) (p : Nat) (st : List BfIn) (at0 step : Int) (l : List EqSym) : State :=
  (l.mapIdx fun n y => (n, y)).foldl (fun s x =>
    match x.2.pilot, inAt st (at0 + step * x.1) with
    | some j, some b =>
      estAdd s p b.time fun o => o.pilot x.2.x x.2.y (pilotOf (seedX s p) j) (pilotOf (seedY s p) j)
    | _, _ => s) s

/-- A run has gone through EQ[p]: taps, timing, pilots, the guard's window, the statistics, and in TRACK the frequency
offset and the words to SOFT[p] (R260, R266 to R268, R272, R291, R328). -/
def eqFeed (s : State) (p : Nat) (r : EqRun) : State :=
  let a := eqRunNow s p r.toEqSpan
  let n := runSize r.toEqSpan
  let track : Bool := rd s (Reg.EQ.STAT_STATE p) == 5
  let h := s.eq p
  let st := bfStream s p s.freeCtr r.blocks
  let l := a.syms.reverse
  let s1 := countPilots (countBlocks s p r.blocks) p st (firstInstant h.tim st) (symStep h.tim.ppb) l
  let own := a.syms.filter fun y => y.pilot.isNone
  let tim := timAfter s p n r
  let pil := pilAfter s p n
  let s2 := setBf { s1 with freeCtr := s.freeCtr + n + 1 } p (rdb s (Reg.EQ.STAT_BF_BANK p)) { bfUse s p with taps := a.taps }
  let s3 := s2.onEq p fun e =>
    { e with updQ := a.updQ, tim := tim, winN := e.winN + n
             freq := if track then clampI (-6000000) 6000000 r.freq else e.freq
             pil := if track then pil else e.pil
             winX := if track then own.map (·.x) ++ e.winX else e.winX
             winY := if track then own.map (·.y) ++ e.winY else e.winY }
  if track && rd s (Reg.SOFT.STAT_STATE p) == 2 then
    s3.onSoft p fun t => { t with syms := t.syms ++ l.filter fun y => !y.sq }
  else s3

/-! ### The guard's judgment (R291) and lock detection (R277) -/

/-- Different decisions of a list. -/
def distinct (l : List Cx) : Nat := (l.foldl (fun a x => if a.contains x then a else x :: a) []).length

/-- Symbols, newest first, whose decision equals the decision `lag` symbols before, that one in `l` or before it. -/
def repeats (l old : List Cx) (lag : Nat) : Nat :=
  ((l.zip ((l ++ old).drop lag)).filter fun x => x.1 == x.2).length

/-- A window of one polarisation is of low information (R291): its non-pilot symbols newest first, and the decisions
before it. -/
def lowInfo (s : State) (p : Nat) (l old : List Cx) : Bool :=
  let modu := bits (rd s (Reg.EQ.CFG_NOW_CFG p)) 16 3
  let w := 2 ^ rd s (Reg.EQ.GUARD_WIN_LOG2 p)
  let ds := l.map (decide2 modu)
  decide (distinct ds < rd s (Reg.EQ.GUARD_MIN_PTS p))
    || (List.range 256).any (fun k => decide (rd s (Reg.EQ.GUARD_REP_Q4 p) * w ≤ 16 * repeats ds old (k + 1)))
    || decide (10 * l.foldl (fun a y => a + cxAbs2 y) 0 < w * 1024 ^ 2)

/-- Pilots whose decision differs from the known pilot, of the last 2^LOCK.WIN_LOG2 of a list, which begins at pilot
`j` (R277). -/
def pilotErrors (s : State) (p seed j : Nat) (l : List Cx) : Nat :=
  let skip := l.length - 2 ^ rd s (Reg.EQ.LOCK_WIN_LOG2 p)
  ((l.mapIdx fun k y => (k, y)).filter fun x =>
    decide (skip ≤ x.1) && decide2 0 x.2 != decide2 0 (pilotOf seed (j + x.1))).length

/-! ### The fade's phase alignment (R284) -/

/-- The unit-magnitude factor, in 2^-30, that best correlates loaded taps with the taps in use; with no correlation
every factor does, and it is free. -/
def alignFactor (c : Nat) (use loaded : List Cx) : Cx :=
  let k := cxSum ((use.zip loaded).map fun x => cxMul x.1 (cxConj x.2))
  let m := isqrt 40 (cxAbs2 k) 0
  if m = 0 then cis (Config.freeNat c) 65536 else (k.1 * 2 ^ 30 / m, k.2 * 2 ^ 30 / m)

/-- Loaded taps after the alignment of each output (R284). -/
def aligned (c n : Nat) (use loaded : List Nat) : List Nat :=
  let half := fun (l : List Nat) (k : Nat) => ((l.drop (2 * n * k)).take (2 * n)).map tapCx
  let turn := fun (k : Nat) =>
    let f := alignFactor (c + k) (half use k) (half loaded k)
    (half loaded k).mapIdx fun i a =>
      tapWord (clampI (-32768) 32767 (near c (4 * i + k) (cxMul a f).1 (2 ^ 30)),
        clampI (-32768) 32767 (near c (4 * i + 2 + k) (cxMul a f).2 (2 ^ 30)))
  turn 0 ++ turn 1

end Sys2Proof.Machine
end

