-- ==== Sys2Proof/Machine/Equaliser.lean ====
section
/-! DEFINITION. The equaliser (chapter 08): acquisition and loss of lock, CD and BF swap requests, bank
image loads, fades, the adaptation guard and snapshots.  What a block that does not run is asked it does not do
(R83, R92). -/

namespace Sys2Proof.Machine

/-! ### Requests -/

/-- A request replaces the pending one (R288). -/
def annealReplaced (s : State) (p : Nat) : State :=
  raise (bump s (Reg.EQ.ANN_CNT_REPLACED p) 1) (Reg.EQ.evANNEAL_REPLACED p)

/-- A CD swap request (R280, R284, R287 to R289): held pending while a CD fade runs or waits for its
block boundary in TRACK; else it starts. -/
def cdRequest (s : State) (p : Nat) (k : CdBank) : State :=
  if rd s (Reg.EQ.STAT_STATE p) = 5 ∧ ((s.eq p).cdReady = true ∨ (s.eq p).cdFade.isSome = true) then
    let s := if (s.eq p).cdPend.isSome then annealReplaced s p else s
    let s := s.onEq p fun e => { e with cdPend := some k }
    wr (wrb s (Reg.EQ.STAT_CD_PEND p) true) (Reg.EQ.CD_PEND_PSNM p) (unsext 22 k.d)
  else startCd s p k

/-- A BF swap request from address `a` (R281, R287 to R289): in TRACK held pending while a load or a fade is in
progress; else its load starts, in place of one in progress. -/
def bfRequest (s : State) (p a : Nat) : State :=
  if rd s (Reg.EQ.STAT_STATE p) ≠ 5 then startBf s p a
  else if (s.eq p).bfLoad.isSome ∨ (s.eq p).bfReady = true ∨ (s.eq p).bfFade.isSome then
    let s := if (s.eq p).bfPend.isSome then annealReplaced s p else s
    wrb (s.onEq p fun e => { e with bfPend := some a }) (Reg.EQ.STAT_BF_PEND p) true
  else startBf s p a

/-- BF_SRC, and SNAP_DST, as an address. -/
def bfSrc (s : State) (p : Nat) : Nat :=
  rd s (Reg.EQ.BF_SRC_HI_ADDR p) * 2 ^ 32 + rd s (Reg.EQ.BF_SRC_LO_ADDR p) * 64

def snapDst (s : State) (p : Nat) : Nat :=
  rd s (Reg.EQ.SNAP_DST_HI_ADDR p) * 2 ^ 32 + rd s (Reg.EQ.SNAP_DST_LO_ADDR p) * 64

/-- Acquisition returns to step 1 with initial taps (R276, R277). -/
def eqRestart (s : State) (p : Nat) : State := follow1 (eqStep1 s p true) p

/-- What a write of 1 to CMD.BF_SWAP does (R281). -/
def bfSwapEffect (s : State) (p : Nat) : State := bfRequest s p (bfSrc s p)

/-- A BF load or fade is in progress. -/
def bfBusy (s : State) (p : Nat) : Bool :=
  (s.eq p).bfLoad.isSome || (s.eq p).bfReady || (s.eq p).bfFade.isSome

/-- What a write of 1 to CMD.SNAP does (R295): it waits for a BF load or fade that is in progress. -/
def snapEffect (s : State) (p : Nat) : State :=
  if rdb s (Reg.EQ.STAT_SNAP_BUSY p) then raise s (Reg.EQ.evSNAP_FAIL p)
  else
    let w := bfBusy s p
    wrb (s.onEq p fun e => { e with snapWait := w }) (Reg.EQ.STAT_SNAP_BUSY p) true

/-- What a write of 1 to CMD.REACQ does (R277): nothing outside TRACK. -/
def reacqEffect (s : State) (p : Nat) : State :=
  if rd s (Reg.EQ.STAT_STATE p) = 5 then eqRestart s p else s

/-- What a write of CMD does, unless THERM_CRIT has stopped the block (R68). -/
def eqCmdEffect (s : State) (p v : Nat) : State :=
  if blockRuns s (Reg.EQ.page p) = false then s else
  let s := if bit v 0 then bfSwapEffect s p else s
  let s := if bit v 1 then snapEffect s p else s
  if bit v 2 then reacqEffect s p else s

/-- A commit of the page (R264, R274, R280): OFF and IDLE take CFG, PILOT and PILOT_SEED into use; D is
limited to reach; a change of the CD fields in effect is a request. -/
def eqCommit (s : State) (p : Nat) (old : Fld → Nat) : State :=
  let s := if rd s (Reg.EQ.STAT_STATE p) ≤ 1 then takeCfg s p else s
  let lam := rd s (Reg.EQ.CD_LAMBDA_LAMBDA p)
  let c := reachClamp s p lam (sext 22 (rd s (Reg.EQ.CD_TARGET_PSNM p)))
  let s := if c.2 then raise (wr s (Reg.EQ.CD_TARGET_PSNM p) (unsext 22 c.1)) (Reg.EQ.evCD_CLAMP p) else s
  let fs := [Reg.EQ.CD_TARGET_PSNM p, Reg.EQ.CD_LAMBDA_LAMBDA p, Reg.EQ.SKEW_XI p, Reg.EQ.SKEW_XQ p,
    Reg.EQ.SKEW_YI p, Reg.EQ.SKEW_YQ p]
  if fs.all (fun f => old f == rd s f) then s
  else cdRequest s p { d := c.1, lam := lam, skew := [sext 8 (rd s (Reg.EQ.SKEW_XI p)),
    sext 8 (rd s (Reg.EQ.SKEW_XQ p)), sext 8 (rd s (Reg.EQ.SKEW_YI p)), sext 8 (rd s (Reg.EQ.SKEW_YQ p))] }

/-! ### Taps -/

/-- Set the taps of the BF bank in use. -/
def setUseTaps (s : State) (p : Nat) (t : List Nat) : State :=
  setBf s p (rdb s (Reg.EQ.STAT_BF_BANK p)) { bfUse s p with taps := t }

/-- The words 16 to 271 of a bank image, at the NTAPS of the bank (R282). -/
def imageTaps (n : Nat) (t : List Nat) : List Nat :=
  (List.range 256).map (fun i => if i % 64 < n then t.getD (i / 64 * n + i % 64) 0 else 0)

/-- A bank image (R282). -/
def bankImage (k : BfBank) : List Byte :=
  wordsLE ((1 + k.ntaps * 2 ^ 16) :: List.replicate 15 0 ++ imageTaps k.ntaps k.taps)

/-- The taps of an image at NTAPS `n`. -/
def tapsFrom (n : Nat) (ws : List Nat) : List Nat :=
  (List.range (4 * n)).map (fun i => ws.getD (16 + 64 * (i / n) + i % n) 0)

/-- Reason 4 of R283: the header words are not as R282 gives them at NTAPS `n`. -/
def imageBad (n : Nat) (ws : List Nat) : Bool :=
  ws.getD 0 0 != 1 + n * 2 ^ 16 || (List.range 15).any (fun i => ws.getD (i + 1) 0 != 0)

/-! ### Acquisition -/

/-- The equaliser's block runs (R83, R92). -/
def eqRuns (s : State) (p : Nat) : Bool := blockRuns s (Reg.EQ.page p)

/-- A frequency offset within what carrier recovery follows: 6 GHz either way (R266, R272). -/
def freqHeld (khz : Int) : Int := clampI (-6000000) 6000000 khz

/-- EQ_FREQ_DONE: step 2 of R275, with the coarse estimate of R266. -/
def eqFreqDone (e : PortFreq) (s : State) : State :=
  let p := e.port
  if rd s (Reg.EQ.STAT_STATE p) = 2 ∧ eqRuns s p = true then
    eqSetState ((countBlocks s p e.blocks).onEq p fun h => { h with freq := freqHeld e.khz }) p 3
  else s

def execEqFreqDone (e : PortFreq) (s : State) : Host.Outcome State Fault Refusal := .next (eqFreqDone e s)

/-- EQ_BLIND_DONE: step 3 of R275. -/
def eqBlindDone (r : PortRun) (s : State) : State :=
  if rd s (Reg.EQ.STAT_STATE r.port) = 3 ∧ eqRuns s r.port = true then eqSetState (eqFeed s r.port r.run) r.port 4
  else s

def execEqBlindDone (r : PortRun) (s : State) : Host.Outcome State Fault Refusal := .next (eqBlindDone r s)

/-- The mean of the AVG phase errors about pilot `k` of a list, or of those of them that it has. -/
def phaseAbout (avg k : Nat) (ph : List Int) : Int :=
  let l := (ph.drop (k - avg / 2)).take (min avg (avg / 2 + 1 + k))
  l.foldl (· + ·) 0 / (max l.length 1 : Nat)

/-- The errors of pilots received up to the one before index `idx`, turned back by their phase, against a seed's
(R271, R277). -/
def syncErrors (s : State) (p seed idx : Nat) (l : List Cx) : Nat :=
  let j := idx + 2 * 32767 - l.length % 32767
  let ph := unwrap 0 (l.mapIdx fun k y => pilotPhase y (pilotOf seed ((j + k) % 32767)))
  pilotErrors s p seed (j % 32767)
    (l.mapIdx fun k y => carrier s.freeCtr k (cis (-(phaseAbout (pilotAvg s p) k ph)) 65536) y)

/-- Pilot synchronisation has found the pilots that the butterfly's outputs carry (R271): the output that carries
SEED_X, the other one if they are exchanged, holds no more errors than lock allows, and so the output that carries
SEED_Y (DESIGN CHOICE, log entry 57). -/
def syncHolds (s : State) (p : Nat) (y : PilotSync) (r : EqSpan) : Bool :=
  decide (syncErrors s p (seedX s p) y.idx (if y.swap then r.pilY else r.pilX) ≤ rd s (Reg.EQ.LOCK_THR p))
    && decide (syncErrors s p (seedY s p) y.idx (if y.swap then r.pilX else r.pilY) ≤ rd s (Reg.EQ.LOCK_THR p))

/-- A guard window begins: taps and timing loop as they are (R292). -/
def windowBegin (s : State) (p : Nat) : State :=
  let u := (bfUse s p).taps
  s.onEq p fun e => { e with winTaps := u, winTim := e.tim, winN := 0, winX := [], winY := [] }

/-- ACQ_DONE: step 4 of R275, with POL_SWAP and the pilot positions of R271; a restart of the port may end (R215). -/
def acqDone (p : Fin 16) (sync : PilotSync) (run : EqRun) (s : State) : State :=
  if rd s (Reg.EQ.STAT_STATE p) = 4 ∧ eqRuns s p = true ∧ syncHolds s p sync run.toEqSpan = true then
    let s := windowBegin (eqSetState (eqFeed s p run) p 5) p
    let s := s.onEq p fun e => { e with goodWin := 0, pil := (sync.wait % pilotPer s p, sync.idx % 32767) }
    let s := wrb s (Reg.EQ.STAT_POL_SWAP p) sync.swap
    let s := wr s (Reg.EQ.ACQ_US_US p) (min (usSince s (s.eq p).acqStart) 0xFFFFFFFF)
    follow1 (raise s (Reg.EQ.evACQ_DONE p)) p
  else s

def execAcqDone (p : Fin 16) (sync : PilotSync) (run : EqRun) (s : State) :
    Host.Outcome State Fault Refusal := .next (acqDone p sync run s)

/-- ACQ_RETRY: a step of R275 has exceeded its bound (R276). -/
def acqRetry (p : Fin 16) (s : State) : State :=
  if 2 ≤ rd s (Reg.EQ.STAT_STATE p) ∧ rd s (Reg.EQ.STAT_STATE p) ≤ 4 ∧ eqRuns s p = true then
    eqRestart (raise (bump s (Reg.EQ.LOCK_CNT_RETRY p) 1) (Reg.EQ.evACQ_RETRY p)) p
  else s

def execAcqRetry (p : Fin 16) (s : State) : Host.Outcome State Fault Refusal := .next (acqRetry p s)

/-- Lock is lost (R277): pilot synchronisation is, or in a polarisation more pilots than LOCK.THR differ from the
known ones. -/
def lockFails (s : State) (w : PilotWindow) : Bool :=
  w.syncLost || decide (rd s (Reg.EQ.LOCK_THR w.port) < pilotErrors s w.port (seedX s w.port) w.index w.x)
    || decide (rd s (Reg.EQ.LOCK_THR w.port) < pilotErrors s w.port (seedY s w.port) w.index w.y)

/-- LOCK_LOST in TRACK (R277, R278, R290, R294). -/
def lockLost (w : PilotWindow) (s : State) : State :=
  if rd s (Reg.EQ.STAT_STATE w.port) = 5 ∧ eqRuns s w.port = true ∧ lockFails s w = true then
    eqRestart (bump (raise s (Reg.EQ.evLOCK_LOST w.port)) (Reg.EQ.LOCK_CNT_LOST w.port) 1) w.port
  else s

def execLockLost (w : PilotWindow) (s : State) : Host.Outcome State Fault Refusal := .next (lockLost w s)

/-! ### Loads and fades -/

/-- A refused load (R283): the standby bank is empty and the request ends; a pending one starts. -/
def bfRefused (s : State) (p reason : Nat) : State :=
  let s := setBf s p (!rdb s (Reg.EQ.STAT_BF_BANK p)) { bfStandby s p with empty := true }
  let s := wr (wrb (bfEmptyFlag s p) (Reg.EQ.STAT_BF_FADE p) false) (Reg.EQ.BF_STAT_REFUSE p) reason
  let s := s.onEq p fun e => { e with snapWait := false }
  startPendBf (bump (raise s (Reg.EQ.evBANK_REFUSED p)) (Reg.EQ.ANN_CNT_REFUSED p) 1) p

/-- An accepted load: the standby bank holds the image's taps; in TRACK its fade waits for a block
boundary (R284), and else the bank is in use at once (R289). -/
def bfLoaded (s : State) (p : Nat) (ws : List Nat) : State :=
  let n := eqNtaps s p
  let s := setBf s p (!rdb s (Reg.EQ.STAT_BF_BANK p)) { ntaps := n, taps := tapsFrom n ws, empty := false }
  let s := bfEmptyFlag s p
  if rd s (Reg.EQ.STAT_STATE p) = 5 then s.onEq p fun e => { e with bfReady := true }
  else
    startPendBf (wrb (swapBf (s.onEq p fun e => { e with snapWait := false }) p) (Reg.EQ.STAT_BF_FADE p) false) p

/-- BF_LOAD_DONE (R281 to R283): the 17 lines are read under master 14, line `i` being found bad by its
first `bads i` reads. -/
def bfLoadDone (p : Fin 16) (bads : List (Fin 5)) (s : State) : State :=
  match (s.eq p).bfLoad with
  | none => s
  | some a =>
    if eqRuns s p = false ∨ dmaLinesHeld s 14 a 17 = true then s
    else
      let r := dmaReadLines 14 (fun i => (bads.getD i 0).val) 17 0 a s
      let ws := packWords32 272 (r.2.flatMap (fun c => c.data))
      let s := r.1.onEq p fun e => { e with bfLoad := none }
      let reason := lineReason r.2
      if reason ≠ 0 then bfRefused s p reason
      else if imageBad (eqNtaps s p) ws then bfRefused s p 4
      else bfLoaded s p ws

def execBfLoadDone (p : Fin 16) (bads : List (Fin 5)) (s : State) : Host.Outcome State Fault Refusal :=
  .next (bfLoadDone p bads s)

/-- D of the fade's block `k` of `n` (R284, EQ.CD_NOW): the interpolated D times the square of lambda,
over the square of the incoming bank's lambda, to the nearest ps/nm. -/
def cdInterp (a b : CdBank) (k n : Nat) : Int :=
  let num := ((n : Int) - k) * a.d * (a.lam : Int) ^ 2 + (k : Int) * b.d * (b.lam : Int) ^ 2
  let den := (n : Int) * (b.lam : Int) ^ 2
  (2 * num + den) / (2 * den)

/-- CD_POS with `k` blocks of the fade completed, and CD_NOW in the block after them (R284, R297). -/
def cdFadeAt (s : State) (p k n : Nat) : State :=
  wr (wr s (Reg.EQ.FADE_CD_POS p) k) (Reg.EQ.CD_NOW_PSNM p)
    (unsext 22 (cdInterp (cdUse s p) (cdStandby s p) (k + 1) n))

/-- CD_FADE_BEGIN at a block boundary in TRACK (R284); while the guard holds the request waits (R293). -/
def cdFadeBegin (r : PortRun) (s : State) : State :=
  let p := r.port
  if rd s (Reg.EQ.STAT_STATE p) = 5 ∧ (s.eq p).cdReady = true ∧ (s.eq p).cdPlain = false
      ∧ rdb s (Reg.EQ.STAT_GUARD p) = false ∧ eqRuns s p = true then
    let s := eqFeed s p r.run
    let n := rd s (Reg.EQ.ANNEAL_CD_BLK p)
    let s := s.onEq p fun e => { e with cdReady := false, cdFade := some n }
    follow1 (cdFadeAt (wrb s (Reg.EQ.STAT_CD_FADE p) true) p 0 n) p
  else s

def execCdFadeBegin (r : PortRun) (s : State) : Host.Outcome State Fault Refusal := .next (cdFadeBegin r s)

/-- BF_FADE_BEGIN at a block boundary in TRACK (R284): the loaded taps are turned to the taps in use as the run has
left them. -/
def bfFadeBegin (r : PortRun) (s : State) : State :=
  let p := r.port
  if rd s (Reg.EQ.STAT_STATE p) = 5 ∧ (s.eq p).bfReady = true ∧ eqRuns s p = true then
    let s := eqFeed s p r.run
    let n := rd s (Reg.EQ.ANNEAL_BF_BLK p)
    let u := (bfUse s p).taps
    let k := bfStandby s p
    let c := s.freeCtr
    let s := { s with freeCtr := c + 2 }.onEq p fun e => { e with bfReady := false, bfFade := some n }
    let s := setBf s p (!rdb s (Reg.EQ.STAT_BF_BANK p)) { k with taps := aligned c k.ntaps u k.taps }
    follow1 (wr s (Reg.EQ.FADE_BF_POS p) 0) p
  else s

def execBfFadeBegin (r : PortRun) (s : State) : Host.Outcome State Fault Refusal := .next (bfFadeBegin r s)

/-- A CD fade's block ends that is not the last (R284); the fade pauses while the guard holds (R293). -/
def cdBlockEnd (s : State) (p : Nat) : State :=
  match (s.eq p).cdFade with
  | none => s
  | some n =>
    if rd s (Reg.EQ.FADE_CD_POS p) + 1 < n ∧ rdb s (Reg.EQ.STAT_GUARD p) = false then
      cdFadeAt s p (rd s (Reg.EQ.FADE_CD_POS p) + 1) n
    else s

/-- A BF fade's block ends that is not the last (R284). -/
def bfBlockEnd (s : State) (p : Nat) : State :=
  match (s.eq p).bfFade with
  | none => s
  | some n =>
    if rd s (Reg.EQ.FADE_BF_POS p) + 1 < n then wr s (Reg.EQ.FADE_BF_POS p) (rd s (Reg.EQ.FADE_BF_POS p) + 1)
    else s

/-- What has entered the butterfly up to a block boundary goes through it, in TRACK and in acquisition. -/
def eqUpTo (s : State) (p : Nat) (r : EqRun) : State :=
  if 3 ≤ rd s (Reg.EQ.STAT_STATE p) then eqFeed s p r else s

/-- FADE_BLOCK (R284, R293). -/
def fadeBlock (bf : Bool) (r : PortRun) (s : State) : State :=
  if eqRuns s r.port = false then s
  else
    let s := eqUpTo s r.port r.run
    if bf then bfBlockEnd s r.port else follow1 (cdBlockEnd s r.port) r.port

def execFadeBlock (bf : Bool) (r : PortRun) (s : State) : Host.Outcome State Fault Refusal :=
  .next (fadeBlock bf r s)

/-- CD_FADE_DONE: block K of the fade ends (R284); a pending request starts (R287). -/
def cdFadeEnd (r : PortRun) (s : State) : State :=
  let p := r.port
  match (s.eq p).cdFade with
  | none => s
  | some n =>
    if rd s (Reg.EQ.FADE_CD_POS p) + 1 = n ∧ rdb s (Reg.EQ.STAT_GUARD p) = false ∧ eqRuns s p = true then
      startPendCd (cdFadeDone (eqUpTo s p r.run) p) p
    else s

def execCdFadeDone (r : PortRun) (s : State) : Host.Outcome State Fault Refusal := .next (cdFadeEnd r s)

/-- BF_FADE_DONE: block K of the fade ends (R284); a pending request starts (R287). -/
def bfFadeEnd (r : PortRun) (s : State) : State :=
  let p := r.port
  match (s.eq p).bfFade with
  | none => s
  | some n =>
    if rd s (Reg.EQ.FADE_BF_POS p) + 1 = n ∧ eqRuns s p = true then
      startPendBf (bfFadeDone (eqUpTo s p r.run) p) p
    else s

def execBfFadeDone (r : PortRun) (s : State) : Host.Outcome State Fault Refusal := .next (bfFadeEnd r s)

/-- CD_SWAP_AT_BLOCK_BOUNDARY: the bank that a request outside TRACK has written is in use (R289). -/
def cdSwapAtBlockBoundary (r : PortRun) (s : State) : State :=
  let p := r.port
  if (s.eq p).cdReady = true ∧ (s.eq p).cdPlain = true ∧ 2 ≤ rd s (Reg.EQ.STAT_STATE p) ∧ eqRuns s p = true then
    startPendCd (swapCd ((eqUpTo s p r.run).onEq p fun e => { e with cdReady := false, cdPlain := false }) p) p
  else s

def execCdSwapAtBlockBoundary (r : PortRun) (s : State) : Host.Outcome State Fault Refusal :=
  .next (cdSwapAtBlockBoundary r s)

/-! ### Guard and snapshot -/

/-- The guard enters at the end of a low-information window (R292): the taps and the timing loop go back to what
they were at its start, and no update of the window still on its way reaches the taps. -/
def guardEnter (s : State) (p : Nat) : State :=
  let s := setUseTaps s p (s.eq p).winTaps
  let s := s.onEq p fun e =>
    { e with goodWin := 0, updQ := []
             tim := { e.winTim with next := e.winTim.next.map fun a => a + symStep e.winTim.ppb * e.winN } }
  follow1 (bump (raise (wrb s (Reg.EQ.STAT_GUARD p) true) (Reg.EQ.evGUARD_ON p))
    (Reg.EQ.GUARD_CNT_ENTER p) 1) p

/-- A window that ends while the guard holds (R293, R294): the guard releases at the REL-th consecutive window not of
low information. -/
def guardHeldWindow (s : State) (p : Nat) (low : Bool) : State :=
  let s := bump s (Reg.EQ.GUARD_CNT_WIN p) 1
  let n := if low then 0 else (s.eq p).goodWin + 1
  let s := s.onEq p fun e => { e with goodWin := n }
  if low = false ∧ rd s (Reg.EQ.GUARD_REL p) ≤ n then
    follow1 (raise (wrb s (Reg.EQ.STAT_GUARD p) false) (Reg.EQ.evGUARD_OFF p)) p
  else s

/-- The window is of low information: either polarisation is (R291).  Pilots are no symbols of it, and the lags count
its symbols without them (DESIGN CHOICE, log entry 63). -/
def windowLow (s : State) (p : Nat) : Bool :=
  let w := 2 ^ rd s (Reg.EQ.GUARD_WIN_LOG2 p)
  lowInfo s p ((s.eq p).winX.take w) (s.eq p).decX || lowInfo s p ((s.eq p).winY.take w) (s.eq p).decY

/-- The decisions that a window leaves. -/
def keepDecisions (s : State) (p : Nat) : State :=
  let modu := bits (rd s (Reg.EQ.CFG_NOW_CFG p)) 16 3
  s.onEq p fun e =>
    { e with decX := (e.winX.map (decide2 modu) ++ e.decX).take 256, decY := (e.winY.map (decide2 modu) ++ e.decY).take 256 }

/-- GUARD_WINDOW in TRACK (R291 to R294). -/
def guardWindow (r : PortRun) (s : State) : State :=
  let p := r.port
  if rd s (Reg.EQ.STAT_STATE p) = 5 ∧ eqRuns s p = true then
    let a := eqFeed s p r.run
    let low := windowLow a p
    let t := keepDecisions a p
    windowBegin (if rdb s (Reg.EQ.STAT_GUARD p) then guardHeldWindow t p low else if low then guardEnter t p else t) p
  else s

def execGuardWindow (r : PortRun) (s : State) : Host.Outcome State Fault Refusal := .next (guardWindow r s)

/-- SNAP_DONE (R295): the taps in use as the run up to the block boundary leaves them are written to SNAP_DST; not
before a BF load or fade that was in progress at the request has ended. -/
def snapDone (r : PortRun) (s : State) : State :=
  let p := r.port
  if rdb s (Reg.EQ.STAT_SNAP_BUSY p) = true ∧ (s.eq p).snapWait = false ∧ eqRuns s p = true then
    let a := eqUpTo s p r.run
    let w := dmaWriteLines 14 17 (snapDst s p) (bankImage (bfUse a p)) a
    let s := wrb (wrb w.1 (Reg.EQ.STAT_SNAP_BUSY p) false) (Reg.EQ.BF_STAT_SNAP_ERR p) w.2
    raise s (if w.2 then Reg.EQ.evSNAP_FAIL p else Reg.EQ.evSNAP_DONE p)
  else s

def execSnapDone (r : PortRun) (s : State) : Host.Outcome State Fault Refusal := .next (snapDone r s)

/-- A page reset abandons fades, requests, loads and snapshots and returns the banks to their reset
contents (R153, R279, R290); the STATE is OFF (R273). -/
def eqPageReset (s : State) (p : Nat) : State := s.onEq p fun _ => EqH.reset

end Sys2Proof.Machine
end

