-- ==== Sys2Proof/Machine/Filter.lean ====
section
/-! DEFINITION. The filter chain (chapter 12): channel states, delay, decimating stages, anneals, the
tone detector, thresholds, output records and parisons. -/

namespace Sys2Proof.Machine

/-! ### Banks -/

/-- The bank in use, and the standby one (R410). -/
def fbUse (s : State) (n : Nat) : FBank :=
  if rdb s (Reg.FILT.STAT_BANK n) then (s.filt n).bankB else (s.filt n).bankA

def fbStandby (s : State) (n : Nat) : FBank :=
  if rdb s (Reg.FILT.STAT_BANK n) then (s.filt n).bankA else (s.filt n).bankB

/-- STAT.STANDBY_EMPTY follows the standby bank. -/
def fbEmptyFlag (s : State) (n : Nat) : State :=
  wrb s (Reg.FILT.STAT_STANDBY_EMPTY n) (fbStandby s n).empty

/-- Replace the standby bank. -/
def setFbStandby (s : State) (n : Nat) (k : FBank) : State :=
  fbEmptyFlag (if rdb s (Reg.FILT.STAT_BANK n) then s.onFilt n fun f => { f with bankA := k }
    else s.onFilt n fun f => { f with bankB := k }) n

/-- Exchange the banks. -/
def swapFb (s : State) (n : Nat) : State :=
  fbEmptyFlag (wrb s (Reg.FILT.STAT_BANK n) (!rdb s (Reg.FILT.STAT_BANK n))) n

/-- STAT.FADE and FADE_POS follow the load and the anneal (R432). -/
def fadeFlag (s : State) (n : Nat) : State :=
  let f := s.filt n
  let pos := match f.anneal with | .fade _ k => k | _ => 0
  wr (wrb s (Reg.FILT.STAT_FADE n) (f.load.isSome || f.anneal != .none)) (Reg.FILT.STAT_FADE_POS n) pos

/-- A load starts from address `a` (R412). -/
def fbLoadStart (s : State) (n a : Nat) : State := fadeFlag (s.onFilt n fun f => { f with load := some a }) n

/-- Drop the pending request and start its load (R414). -/
def fbStartPend (s : State) (n : Nat) : State :=
  match (s.filt n).pend with
  | none => s
  | some a => fbLoadStart (wrb (s.onFilt n fun f => { f with pend := none }) (Reg.FILT.STAT_PEND n) false) n a

/-- BANK_SRC as an address. -/
def bankSrc (s : State) (n : Nat) : Nat :=
  rd s (Reg.FILT.BANK_SRC_HI_ADDR n) * 2 ^ 32 + rd s (Reg.FILT.BANK_SRC_LO_ADDR n) * 64

/-- What a write of 1 to CMD.BANK_SWAP does (R412, R414). -/
def bankSwapEffect (s : State) (n : Nat) : State :=
  let a := bankSrc s n
  if rdb s (Reg.FILT.STAT_FADE n) then
    let s := if (s.filt n).pend.isSome then
        raise (bump s (Reg.FILT.ANN_CNT_REPLACED n) 1) (Reg.FILT.evANNEAL_REPLACED n)
      else s
    wrb (s.onFilt n fun f => { f with pend := some a }) (Reg.FILT.STAT_PEND n) true
  else fbLoadStart s n a

/-! ### Parison arming (R425 to R427) -/

/-- Slots of the parison area, and records of a slot. -/
def parSlots (s : State) (n : Nat) : Nat := 2 ^ rd s (Reg.FILT.PAR_CTL_NSLOT_LOG2 n)

def parLen (s : State) (n : Nat) : Nat := 2 ^ rd s (Reg.FILT.PAR_CTL_PAR_LOG2 n)

/-- PAR_BASE. -/
def parBase (s : State) (n : Nat) : Nat :=
  rd s (Reg.FILT.PAR_BASE_HI_ADDR n) * 2 ^ 32 + rd s (Reg.FILT.PAR_BASE_LO_ADDR n) * 65536

/-- The address of record `i` of slot `j`, and of directory entry `j` (R425). -/
def parRecAddr (s : State) (n j i : Nat) : Nat := parBase s n + 65536 + j * 16 * parLen s n + 16 * i

def parDirAddr (s : State) (n j : Nat) : Nat := parBase s n + 64 * j

/-- The committed area fails R425. -/
def parAreaBad (s : State) (n : Nat) : Bool :=
  parBase s n < 0x1000000000 || 0x1200000000 < parBase s n + 65536 + 16 * parLen s n * parSlots s n

/-- Arm for the next parison if R426 lets it. -/
def parArm (s : State) (n : Nat) : State :=
  if rdb s (Reg.FILT.PAR_CTL_EN n) = false ∨ rd s (Reg.FILT.STAT_STATE n) ≠ 2
      ∨ rdb s (Reg.FILT.STAT_PAR_BAD n) = true then
    wr (s.onFilt n fun f => { f with par := Paris.off }) (Reg.FILT.STAT_PAR_STATE n) 0
  else if rdb s (Reg.FILT.PAR_CTL_MODE n) = true
      ∧ (rd s (Reg.FILT.PAR_WR_COUNT n) + 2 ^ 32 - rd s (Reg.FILT.PAR_RD_COUNT n)) % 2 ^ 32 = parSlots s n then
    wr (s.onFilt n fun f => { f with par := Paris.off }) (Reg.FILT.STAT_PAR_STATE n) 3
  else
    let k := rd s (Reg.FILT.PAR_WR_COUNT n)
    wr (s.onFilt n fun f => { f with par := { Paris.off with state := 1, k := k } }) (Reg.FILT.STAT_PAR_STATE n) 1

/-- Whether a parison of `m` records, the last `c` of them valid, has a record that carried a flag, `l`
being the last that did. -/
def carriedFlag (m c : Nat) : Option Nat → Bool
  | none => false
  | some l => decide (m ≤ l + c)

/-- The directory entry of a parison (R428). -/
def parEntry (s : State) (n : Nat) : List Nat :=
  let p := (s.filt n).par
  let post := rd s (Reg.FILT.PAR_POST_POST n)
  let len := parLen s n
  let t := p.trigM + post
  let c := min t len
  let f := fun (o : Option Nat) => b2n (carriedFlag t c o)
  [1 + n * 2 ^ 16 + rd s (Reg.FILT.PAR_CTL_GROUP n) * 2 ^ 24, p.k, p.stamp % 2 ^ 32, p.stamp / 2 ^ 32 % 2 ^ 32,
    p.src, (t - len) % len + p.trigM % len * 2 ^ 16, c, min p.trigM (len - post), post,
    f p.loss + 2 * f p.fade + 4 * f p.orf + 8 * f p.gap, 0, 0, 0, 0, 0, 0]

/-- A directory entry is written as one line (R428). -/
def parEntryOut (s : State) (n : Nat) (ws : List Nat) : State :=
  let w := dmaWrite s 13 (parDirAddr s n (ws.getD 1 0 % parSlots s n)) (wordsLE ws) 0
  (raiseIf w.2.status.isErr w.1 (Reg.FILT.evPAR_ERR n)).onFilt n fun f => { f with parLast := ws }

/-- A parison completes (R428, R429): the directory entry is written, PAR_WR increments, and the channel
arms again. -/
def parComplete (s : State) (n : Nat) : State :=
  let s := parEntryOut s n (parEntry s n)
  parArm (raise (inc s (Reg.FILT.PAR_WR_COUNT n) 1) (Reg.FILT.evPAR_DONE n)) n

/-- The first trigger of a FAB cycle reaches a channel with sources `src` (R427). -/
def parNew (s : State) (n src : Nat) : State :=
  let p := (s.filt n).par
  if p.state = 2 ∧ rdb s (Reg.FILT.STAT_PAR_BAD n) = false then bump s (Reg.FILT.CNT_PAR_IGN n) 1
  else if p.state = 1 ∧ rdb s (Reg.FILT.STAT_PAR_BAD n) = false then
    let ns := nowNs s
    let s := wr (s.onFilt n fun f => { f with par := { p with state := 2, trigM := p.m, stamp := ns, src := src } })
      (Reg.FILT.STAT_PAR_STATE n) 2
    if rd s (Reg.FILT.PAR_POST_POST n) = 0 then parComplete s n else s
  else
    let s := raise (bump s (Reg.FILT.CNT_PAR_SKIP n) 1) (Reg.FILT.evPAR_SKIP n)
    raiseIf (rdb s (Reg.FILT.STAT_PAR_BAD n)) s (Reg.FILT.evPAR_ERR n)

/-- A trigger reaches a channel with sources `src`: a further one of the same FAB cycle only adds its sources
(R427). -/
def parTake (s : State) (n src : Nat) : State :=
  let c := s.time.cycle
  let took := (s.filt n).trigAt
  if took = some (c, true) then
    if (s.filt n).par.state = 2 then s.onFilt n fun f => { f with par := { f.par with src := f.par.src ||| src } }
    else
      -- POST is 0, and the parison has completed: its entry is written with the further sources as well
      let l := (s.filt n).parLast
      parEntryOut s n (l.set 4 (l.getD 4 0 ||| src))
  else if took = some (c, false) then s
  else parNew (s.onFilt n fun f => { f with trigAt := some (c, decide (f.par.state = 1)) }) n src

/-- A trigger of channel `n` with sources `src`, and what it brings to its group (R427). -/
def parTrigger (s : State) (n src : Nat) : State :=
  let g := rd s (Reg.FILT.PAR_CTL_GROUP n)
  let others := if g = 0 then [] else
    (List.range 48).filter (fun k => k != n && rd s (Reg.FILT.PAR_CTL_GROUP k) == g
      && !rdb s (Reg.HDR.PG_STAT_GATED (Reg.FILT.page k)))
  others.foldl (fun s k => parTake s k 16) (parTake s n src)

/-- What a write of 1 to CMD.PAR_TRIG does. -/
def parTrigEffect (s : State) (n : Nat) : State := parTrigger s n 32

/-- An output record goes to the slot of an armed channel (R426, R427, R429). -/
def parRecord (s : State) (n : Nat) (rcd : List Nat) (fade orf gap : Bool) (bads : Nat) : State :=
  let p := (s.filt n).par
  if p.state = 0 then s
  else
    let w := dmaWrite s 13 (parRecAddr s n (p.k % parSlots s n) (p.m % parLen s n)) (wordsLE rcd) bads
    let e := w.2.status.isErr
    let s := raiseIf e w.1 (Reg.FILT.evPAR_ERR n)
    let k := fun (b : Bool) (o : Option Nat) => if b then some p.m else o
    s.onFilt n fun f => { f with par := { p with m := p.m + 1, loss := k e p.loss, fade := k fade p.fade,
                                                 orf := k orf p.orf, gap := k gap p.gap } }

/-- After an output: the parison completes once its POST records are written (R427). -/
def parCheck (s : State) (n : Nat) : State :=
  let p := (s.filt n).par
  if p.state = 2 ∧ p.trigM + rd s (Reg.FILT.PAR_POST_POST n) ≤ p.m then parComplete s n else s

/-! ### Channel states (R408, R409, R416) -/

/-- A start or restart: histories, counts, NCO phase and TONE_PRESENT are cleared, a fade or priming is
complete, a parison is abandoned, and the channel is WARM; a pending request then loads. -/
def filtStart (s : State) (n : Nat) : State :=
  let s := if (s.filt n).anneal != .none then swapFb (s.onFilt n fun f => { f with anneal := .none }) n else s
  let s := s.onFilt n fun f =>
    { f with line := [], taken := 0, wcnt := [], cnt := [], hist := [], histN := [], m := 0, blk := none
             sumI := 0, sumQ := 0, onRun := 0, offRun := 0, par := Paris.off }
  let s := wrAll s [(Reg.FILT.STAT_STATE n, 1), (Reg.FILT.STAT_TONE_PRESENT n, 0), (Reg.FILT.STAT_PAR_STATE n, 0)]
  let s := fbEmptyFlag (fadeFlag s n) n
  if (s.filt n).load.isSome then s else fbStartPend s n

/-- What a write of 1 to CMD.RESTART does. -/
def filtRestartEffect (s : State) (n : Nat) : State := filtStart s n

/-- What a write of CMD does. -/
def filtCmdEffect (s : State) (n v : Nat) : State :=
  let s := if bit v 0 then bankSwapEffect s n else s
  let s := if bit v 1 then parTrigEffect s n else s
  if bit v 2 then filtRestartEffect s n else s

/-- STATE follows the gate (R408, R409). -/
def filtFollow (s : State) (n : Nat) : State :=
  let st := rd s (Reg.FILT.STAT_STATE n)
  if treatedGated s (Reg.FILT.page n) then wr s (Reg.FILT.STAT_STATE n) 0
  else if st = 0 ∧ blockRuns s (Reg.FILT.page n) = true then
    filtStart (s.onFilt n fun f => { f with prevTs := none, inQ := [] }) n
  else s

/-- Stages in use, and the log2 of stage `i`'s decimation. -/
def nStages (s : State) (n : Nat) : Nat := rd s (Reg.FILT.STAGES_NSTAGES n)

def decOf (s : State) (n i : Nat) : Nat :=
  rd s (match i with
    | 0 => Reg.FILT.STAGES_DEC0 n
    | 1 => Reg.FILT.STAGES_DEC1 n
    | 2 => Reg.FILT.STAGES_DEC2 n
    | _ => Reg.FILT.STAGES_DEC3 n)

/-- NTAPS of a stage. -/
def FBank.taps (b : FBank) (i : Nat) : Nat := min 64 (b.ntaps.getD i 0)

/-- The WARM counts are full (R408). -/
def warmDone (s : State) (n : Nat) : Bool :=
  decide (rd s (Reg.FILT.DELAY_INT n) + 2 ≤ (s.filt n).taken)
    && (List.range (nStages s n)).all (fun i => decide ((fbUse s n).taps i ≤ (s.filt n).wcnt.getD i 0))

/-- The channel enters RUN (R408, R420, R424, R426). -/
def enterRun (s : State) (n : Nat) : State :=
  let s := s.onFilt n fun f => { f with m := 0, blk := none, onRun := 0, offRun := 0 }
  let s := wrAll s [(Reg.FILT.STAT_STATE n, 2), (Reg.FILT.STAT_UP_ARMED n, 1), (Reg.FILT.STAT_LO_ARMED n, 1)]
  parArm (raise s (Reg.FILT.evRUN n)) n

/-! ### Stages (R406, R413) -/

/-- The sum of products of a stage. -/
def dot : List Int → List Int → Int
  | [], _ => 0
  | _, [] => 0
  | c :: cs, u :: us => c * u + dot cs us

/-- A stage's output, and whether it was clamped (R406). -/
def stageOut (b : FBank) (i : Nat) (h : List Int) : Int × Bool :=
  let sh := b.shift.getD i 0
  let acc := dot ((b.coef.getD i []).take (b.taps i)) h
  sat32 ((acc + if sh = 0 then 0 else 2 ^ (sh - 1)) / 2 ^ sh)

/-- Add 1 to element `i` of a list of four counts. -/
def incAt (l : List Nat) (i : Nat) : List Nat :=
  (List.range 4).map (fun j => l.getD j 0 + if j = i then 1 else 0)

/-- Replace history `i` of a chain. -/
def putHist (h : List (List Int)) (i : Nat) (x : List Int) : List (List Int) :=
  (List.range 4).map (fun j => if j = i then x else h.getD j [])

/-- A chain takes an input: its histories, the stages that took one, the final output if the input
completes one, and the number of clamps. -/
def runChain (b : FBank) (dec : Nat → Nat) (cnt : List Nat) :
    List Nat → List (List Int) → Int → List (List Int) × List Nat × Option Int × Nat
  | [], h, u => (h, [], some u, 0)
  | i :: t, h, u =>
    let x := (u :: h.getD i []).take 64
    let h' := putHist h i x
    if (cnt.getD i 0 + 1) % 2 ^ dec i = 0 then
      let v := stageOut b i x
      let r := runChain b dec cnt t h' v.1
      (r.1, i :: r.2.1, r.2.2.1, r.2.2.2 + b2n v.2)
    else (h', [i], none, 0)

/-- The delay stage's value and stamp (R404), and TRUST at the stamp (R417): that of the input whose stamp it is, and
between two inputs what it was then. -/
def delayOut (s : State) (d f : Nat) (line : List (Int × (Nat × Nat))) : Int × Nat × Nat :=
  let a := line.getD d (0, (0, 0))
  let b := line.getD (d + 1) (0, (0, 0))
  let ts : Int := (16 * (a.2.1 : Int) - f * ((a.2.1 : Int) - b.2.1)) / 16
  (roundAway ((16 - (f : Int)) * a.1 + f * b.1) 16, unsext 64 ts, if f = 0 then a.2.2 else trustAt s (unsext 64 ts))

/-! ### Tone detector and thresholds (R420 to R424) -/

/-- The settings a block takes at its start (R422). -/
def toneNow (s : State) (n : Nat) : Tone :=
  { en := true, len := 2 ^ rd s (Reg.FILT.TONE_CTL_LEN_LOG2 n), onN := rd s (Reg.FILT.TONE_CTL_ON_N n)
    offN := rd s (Reg.FILT.TONE_CTL_OFF_N n), pinc := rd s (Reg.FILT.TONE_PINC_PINC n)
    on := rd s (Reg.FILT.TONE_ON_MAG n), off := rd s (Reg.FILT.TONE_OFF_MAG n) }

/-- The end of a block (R420, R421); answers the trigger sources that arise. -/
def toneBlockEnd (s : State) (n : Nat) : State × Nat :=
  let f := s.filt n
  let mag := toneMag f.sumI f.sumQ f.tone.len
  let ph := if f.sumI = 0 ∧ f.sumQ = 0 then free s else (angle16 f.sumI f.sumQ, s)
  let s := wr (wr ph.2 (Reg.FILT.TONE_MAG_MAG n) mag) (Reg.FILT.TONE_PHASE_PHASE n) ph.1
  let s := inc s (Reg.FILT.TONE_SEQ_SEQ n) 1
  let up : Bool := decide (f.tone.on ≤ mag)
  let dn : Bool := decide (mag < f.tone.off)
  let a := if up then f.onRun + 1 else 0
  let b := if dn then f.offRun + 1 else 0
  let s := s.onFilt n fun f => { f with blk := none, sumI := 0, sumQ := 0, onRun := a, offRun := b }
  let pres := rdb s (Reg.FILT.STAT_TONE_PRESENT n)
  if pres = false ∧ up = true ∧ f.tone.onN ≤ a then
    (raise (wrb s (Reg.FILT.STAT_TONE_PRESENT n) true) (Reg.FILT.evTONE_ON n), 1)
  else if pres = true ∧ dn = true ∧ f.tone.offN ≤ b then
    (raise (wrb s (Reg.FILT.STAT_TONE_PRESENT n) false) (Reg.FILT.evTONE_OFF n), 2)
  else (s, 0)

/-- One output at the tone detector in RUN. -/
def toneOutput (s : State) (n : Nat) (y : Int) : State × Nat :=
  if rdb s (Reg.FILT.TONE_CTL_EN n) = false then (s, 0)
  else
    let s := if (s.filt n).blk.isSome then s else
      let t := toneNow s n
      s.onFilt n fun f => { f with tone := t, blk := some 0, sumI := 0, sumQ := 0 }
    let f := s.filt n
    let c := cosSin (f.tone.pinc * f.m % 2 ^ 24)
    let k := f.blk.getD 0 + 1
    let s := s.onFilt n fun f =>
      { f with sumI := f.sumI + y * c.1, sumQ := f.sumQ - y * c.2, blk := some k }
    if f.tone.len ≤ k then toneBlockEnd s n else (s, 0)

/-- One output at the upper comparator in RUN (R423); answers the trigger source that arises. -/
def thrUpper (s : State) (n : Nat) (v : Int) : State × Nat :=
  let hi := sext 32 (rd s (Reg.FILT.THR_HI_VALUE n))
  let arm := rdb s (Reg.FILT.STAT_UP_ARMED n)
  if rdb s (Reg.FILT.THR_CTL_UP_EN n) = true ∧ arm = true ∧ hi ≤ v then
    (raise (wrb s (Reg.FILT.STAT_UP_ARMED n) false) (Reg.FILT.evTHR_UPPER n), 4)
  else if v < hi - rd s (Reg.FILT.THR_HYST_VALUE n) then (wrb s (Reg.FILT.STAT_UP_ARMED n) true, 0)
  else (s, 0)

/-- One output at the lower comparator in RUN (R423). -/
def thrLower (s : State) (n : Nat) (v : Int) : State × Nat :=
  let lo := sext 32 (rd s (Reg.FILT.THR_LO_VALUE n))
  let arm := rdb s (Reg.FILT.STAT_LO_ARMED n)
  if rdb s (Reg.FILT.THR_CTL_LO_EN n) = true ∧ arm = true ∧ v ≤ lo then
    (raise (wrb s (Reg.FILT.STAT_LO_ARMED n) false) (Reg.FILT.evTHR_LOWER n), 8)
  else if lo + rd s (Reg.FILT.THR_HYST_VALUE n) < v then (wrb s (Reg.FILT.STAT_LO_ARMED n) true, 0)
  else (s, 0)

/-! ### Output (R413, R417) -/

/-- One final output: LAST_VAL and LAST_TS, its record, then in RUN the tone detector, the comparators and
the triggers they make. -/
def finalOutput (s : State) (n : Nat) (v : Int) (ts trust : Nat) (fade : Bool) (bads : Nat) : State :=
  let f := s.filt n
  let run : Bool := rd s (Reg.FILT.STAT_STATE n) == 2
  let w3 := b2n f.fOr + 2 * b2n f.fCover + 4 * b2n f.fLate + 8 * b2n f.fPre + 16 * b2n f.fGap
    + 32 * b2n (!run) + 64 * b2n fade + 128 * b2n f.fSat + n * 2 ^ 16 + trust % 2 * 2 ^ 31
  let rcd := [ts % 2 ^ 32, ts / 2 ^ 32, unsext 32 v, w3]
  let s := wrAll s [(Reg.FILT.LAST_VAL_VALUE n, unsext 32 v), (Reg.FILT.LAST_TS_LO_NS n, ts),
    (Reg.FILT.LAST_TS_HI_NS n, ts / 2 ^ 32)]
  let s := if rdb s (Reg.FILT.OUT_CTL_EN n) then s.onFilt n fun f => { f with outQ := f.outQ ++ [rcd] } else s
  let s := parRecord s n rcd fade f.fOr f.fGap bads
  let s := s.onFilt n fun f =>
    { f with fOr := false, fCover := false, fLate := false, fPre := false, fGap := false, fSat := false }
  let s := parCheck s n
  if run then
    let a := toneOutput s n v
    let b := thrUpper a.1 n v
    let c := thrLower b.1 n v
    let src := (a.2 + b.2 + c.2) &&& rd s (Reg.FILT.PAR_CTL_TRIG n)
    let s := c.1.onFilt n fun f => { f with m := f.m + 1 }
    if src = 0 then s else parTrigger s n src
  else s

/-- The end of a fade (R413): the new bank and its histories are in use; a pending request starts. -/
def fadeDoneFilt (s : State) (n : Nat) : State :=
  let s := swapFb (s.onFilt n fun f => { f with anneal := .none, hist := f.histN, histN := [] }) n
  fbStartPend (fadeFlag (raise (bump s (Reg.FILT.ANN_CNT_DONE n) 1) (Reg.FILT.evFADE_DONE n)) n) n

/-- Clamps of a stage are counted and mark the next record (R406). -/
def clampsSeen (s : State) (n k : Nat) : State :=
  if k = 0 then s
  else raise (bump (s.onFilt n fun f => { f with fSat := true }) (Reg.FILT.CNT_SAT n) k) (Reg.FILT.evSTAGE_SAT n)

/-- The anneal takes the same input: the new chain runs, priming counts, and from the first final output
after priming the fade mixes (R413).  Answers the final output and whether its record carries FADE and ends
the fade. -/
def annealInput (s : State) (n : Nat) (y : Int) (old : Option Int) (cnt : List Nat) :
    State × Option Int × Bool × Bool :=
  let f := s.filt n
  let b := fbStandby s n
  let is := List.range (nStages s n)
  match f.anneal with
  | .none => (s, old, false, false)
  | .prime taken =>
    let r := runChain b (decOf s n) cnt is f.histN y
    let taken := r.2.1.foldl incAt taken
    let s := clampsSeen s n r.2.2.2
    let primed := is.all (fun i => decide (b.taps i ≤ taken.getD i 0))
    match old, r.2.2.1 with
    | some a, some c =>
      if primed then
        let k := rd s (Reg.FILT.ANNEAL_BLK n)
        let s := s.onFilt n fun f => { f with histN := r.1, anneal := .fade k 1 }
        (fadeFlag s n, some (roundAway (((k : Int) - 1) * a + c) k), true, decide (k ≤ 1))
      else (s.onFilt n fun f => { f with histN := r.1, anneal := .prime taken }, some a, true, false)
    | o, _ => (s.onFilt n fun f => { f with histN := r.1, anneal := .prime taken }, o, true, false)
  | .fade k pos =>
    let r := runChain b (decOf s n) cnt is f.histN y
    let s := clampsSeen (s.onFilt n fun f => { f with histN := r.1 }) n r.2.2.2
    match old, r.2.2.1 with
    | some a, some c =>
      let p := pos + 1
      let s := fadeFlag (s.onFilt n fun f => { f with anneal := .fade k p }) n
      (s, some (roundAway (((k : Int) - p) * a + p * c) k), true, decide (k ≤ p))
    | o, _ => (s, o, true, false)

/-- The channel takes an input's flags, gap and value (R402 to R405). -/
def filtTake (s : State) (n : Nat) (r : Res) : State :=
  let gap : Bool := rd s (Reg.FILT.GAP_NS n) != 0 && (match (s.filt n).prevTs with
    | none => false
    | some t => decide (rd s (Reg.FILT.GAP_NS n) < r.ns - t))
  let s := if gap then raise (bump s (Reg.FILT.CNT_GAP n) 1) (Reg.FILT.evINPUT_GAP n) else s
  let x : Int := (r.result : Int) - rd s (Reg.FILT.IN_OFS_OFS n)
  s.onFilt n fun f =>
    { f with line := ((x, (r.ns, r.trust)) :: f.line).take 4097, taken := f.taken + 1, prevTs := some r.ns
             fOr := f.fOr || r.orf, fCover := f.fCover || r.cover, fLate := f.fLate || r.late
             fPre := f.fPre || r.preempt, fGap := f.fGap || gap }

/-- FILT_INPUT: the channel's oldest selected result passes through it (R400 to R406, R408, R413, R417,
R420 to R423, R426 to R428). -/
def filtInput (n : Fin 48) (bads : Fin 5) (s : State) : State :=
  match (s.filt n).inQ with
  | [] => s
  | r :: rest =>
    if blockRuns s (Reg.FILT.page n) = false ∨ rd s (Reg.FILT.STAT_STATE n) = 0 then s
    else
      let s := filtTake (s.onFilt n fun f => { f with inQ := rest }) n r
      let f := s.filt n
      let y := delayOut s (rd s (Reg.FILT.DELAY_INT n)) (rd s (Reg.FILT.DELAY_FRAC n)) f.line
      let c := runChain (fbUse s n) (decOf s n) f.cnt (List.range (nStages s n)) f.hist y.1
      let s := s.onFilt n fun f =>
        { f with hist := c.1, cnt := c.2.1.foldl incAt f.cnt, wcnt := c.2.1.foldl incAt f.wcnt }
      let s := clampsSeen s n c.2.2.2
      let a := annealInput s n y.1 c.2.2.1 f.cnt
      let s := if rd a.1 (Reg.FILT.STAT_STATE n) = 1 ∧ warmDone a.1 n = true then enterRun a.1 n else a.1
      match a.2.1 with
      | none => s
      | some v =>
        let s := finalOutput s n v y.2.1 y.2.2 a.2.2.1 bads
        if a.2.2.2 then fadeDoneFilt s n else s

def execFiltInput (n : Fin 48) (bads : Fin 5) (s : State) : Host.Outcome State Fault Refusal :=
  .next (filtInput n bads s)

/-- A class M result reaches the channels whose source it is (R383, R401). -/
def filtOffer (s : State) (r : Res) : State :=
  (List.range 48).foldl (fun s n =>
    let sel := rd s (Reg.FILT.CTL_SEL n)
    if rd s (Reg.FILT.STAT_STATE n) ≠ 0 ∧ rd s (Reg.FILT.CTL_PCV n) = r.named
        ∧ (sel = 0 ∨ (sel = 1 ∧ rd s (Reg.FILT.CTL_INPUT n) = r.input)
           ∨ (sel = 2 ∧ rd s (Reg.FILT.CTL_ENTRY n) = r.entry)) then
      s.onFilt n fun f => { f with inQ := f.inQ ++ [r] }
    else s) s

/-! ### Bank loads (R411, R412, R415) -/

/-- Reason 4 of R412: a header word is not as R411 gives it, for a channel of `ns` stages. -/
def fImageBad (ns : Nat) (ws : List Nat) : Bool :=
  ws.getD 0 0 != 2
    || bits (ws.getD 2 0) 5 3 != 0 || bits (ws.getD 2 0) 13 3 != 0 || bits (ws.getD 2 0) 21 3 != 0
    || bits (ws.getD 2 0) 29 3 != 0
    || (List.range 13).any (fun i => ws.getD (i + 3) 0 != 0)
    || (List.range ns).any (fun i => bits (ws.getD 1 0) (8 * i) 8 == 0 || decide (64 < bits (ws.getD 1 0) (8 * i) 8))

/-- The bank an image gives (R411). -/
def fImageBank (ws : List Nat) : FBank :=
  let nt := (List.range 4).map (fun i => bits (ws.getD 1 0) (8 * i) 8)
  { ntaps := nt
    shift := (List.range 4).map (fun i => bits (ws.getD 2 0) (8 * i) 5)
    coef := (List.range 4).map (fun i =>
      (List.range (min 64 (nt.getD i 0))).map (fun t => sext 18 (ws.getD (16 + 64 * i + t) 0)))
    empty := false }

/-- A refused load (R412): the standby bank is empty and the request ends; a pending one starts. -/
def fbRefused (s : State) (n reason : Nat) : State :=
  let s := setFbStandby s n { fbStandby s n with empty := true }
  let s := wr s (Reg.FILT.STAT_REFUSE n) reason
  let s := bump (raise s (Reg.FILT.evBANK_REFUSED n)) (Reg.FILT.ANN_CNT_REFUSED n) 1
  fbStartPend (fadeFlag s n) n

/-- A loaded bank: in RUN its chain begins to prime (R413); in WARM it is in use at once, and the WARM
counts restart (R415). -/
def fbLoaded (s : State) (n : Nat) (b : FBank) : State :=
  let s := setFbStandby s n b
  if rd s (Reg.FILT.STAT_STATE n) = 2 then
    fadeFlag (s.onFilt n fun f => { f with histN := [], anneal := .prime [] }) n
  else
    let s := swapFb (s.onFilt n fun f => { f with taken := 0, wcnt := [] }) n
    fbStartPend (fadeFlag s n) n

/-- FILT_LOAD_DONE (R412, R413, R415): the 17 lines are read under master 13. -/
def filtLoadDone (n : Fin 48) (bads : List (Fin 5)) (s : State) : State :=
  match (s.filt n).load with
  | none => s
  | some a =>
    if blockRuns s (Reg.FILT.page n) = false ∨ dmaLinesHeld s 13 a 17 = true then s
    else
    let r := dmaReadLines 13 (fun i => (bads.getD i 0).val) 17 0 a s
    let ws := packWords32 272 (r.2.flatMap (fun c => c.data))
    let s := r.1.onFilt n fun f => { f with load := none }
    let reason := lineReason r.2
    if reason ≠ 0 then fbRefused s n reason
    else if fImageBad (nStages s n) ws then fbRefused s n 4
    else fbLoaded s n (fImageBank ws)

def execFiltLoadDone (n : Fin 48) (bads : List (Fin 5)) (s : State) : Host.Outcome State Fault Refusal :=
  .next (filtLoadDone n bads s)

/-! ### The output ring (R418, R419) and the counts the host writes -/

/-- OUT_BASE, and the ring's records. -/
def outBase (s : State) (n : Nat) : Nat :=
  rd s (Reg.FILT.OUT_BASE_HI_ADDR n) * 2 ^ 32 + rd s (Reg.FILT.OUT_BASE_LO_ADDR n) * 65536

def outSize (s : State) (n : Nat) : Nat := 2 ^ rd s (Reg.FILT.OUT_CTL_SIZE_LOG2 n)

/-- OUT_RECORD_WRITE: the channel's oldest waiting record (R418, R419). -/
def outRecordWrite (n : Fin 48) (bads : Fin 5) (s : State) : State :=
  match (s.filt n).outQ with
  | [] => s
  | rcd :: rest =>
    if blockRuns s (Reg.FILT.page n) = false then s
    else
    let s := s.onFilt n fun f => { f with outQ := rest }
    let w := rd s (Reg.FILT.OUT_WR_COUNT n)
    if rdb s (Reg.FILT.STAT_OUT_BAD n) then bump s (Reg.FILT.OUT_DROP_COUNT n) 1
    else if rdb s (Reg.FILT.OUT_CTL_MODE n) = true
        ∧ (w + 2 ^ 32 - rd s (Reg.FILT.OUT_RD_COUNT n)) % 2 ^ 32 = outSize s n then
      raise (bump s (Reg.FILT.OUT_DROP_COUNT n) 1) (Reg.FILT.evOUT_FULL n)
    else
      let x := dmaWrite s 13 (outBase s n + 16 * (w % outSize s n)) (wordsLE rcd) bads
      raiseIf x.2.status.isErr (inc x.1 (Reg.FILT.OUT_WR_COUNT n) 1) (Reg.FILT.evOUT_ERR n)

def execOutRecordWrite (n : Fin 48) (bads : Fin 5) (s : State) : Host.Outcome State Fault Refusal :=
  .next (outRecordWrite n bads s)

/-- What a write of OUT_RD does (R418: the limit stands under MODE 1). -/
def outRdEffect (s : State) (n v : Nat) : State :=
  let w := rd s (Reg.FILT.OUT_WR_COUNT n)
  wr s (Reg.FILT.OUT_RD_COUNT n)
    (if rdb s (Reg.FILT.OUT_CTL_MODE n) = true ∧ outSize s n < (w + 2 ^ 32 - v % 2 ^ 32) % 2 ^ 32 then w else v)

/-- What a write of PAR_RD does (R426): a slot it frees lets the channel arm. -/
def parRdEffect (s : State) (n v : Nat) : State :=
  let w := rd s (Reg.FILT.PAR_WR_COUNT n)
  let s := wr s (Reg.FILT.PAR_RD_COUNT n) (if parSlots s n < (w + 2 ^ 32 - v % 2 ^ 32) % 2 ^ 32 then w else v)
  if rd s (Reg.FILT.STAT_PAR_STATE n) = 3 then parArm s n else s

/-! ### Commits -/

/-- The checks of a committed ring and area (R419, R425). -/
def filtAreas (s : State) (n : Nat) (old : Fld → Nat) : State :=
  let ob : Bool := outBase s n < 0x1000000000 || 0x1200000000 < outBase s n + 16 * outSize s n
  let same := old (Reg.FILT.OUT_BASE_LO_ADDR n) = rd s (Reg.FILT.OUT_BASE_LO_ADDR n)
    ∧ old (Reg.FILT.OUT_BASE_HI_ADDR n) = rd s (Reg.FILT.OUT_BASE_HI_ADDR n)
    ∧ old (Reg.FILT.OUT_CTL_SIZE_LOG2 n) = rd s (Reg.FILT.OUT_CTL_SIZE_LOG2 n)
  let s := if same then s else wr (wr s (Reg.FILT.OUT_WR_COUNT n) 0) (Reg.FILT.OUT_RD_COUNT n) 0
  let s := raiseIf ob (wrb s (Reg.FILT.STAT_OUT_BAD n) ob) (Reg.FILT.evOUT_ERR n)
  let pb := parAreaBad s n
  raiseIf pb (wrb s (Reg.FILT.STAT_PAR_BAD n) pb) (Reg.FILT.evPAR_ERR n)

/-- A commit of the page while the block runs (R409, R422, R424 to R426). -/
def filtCommit (s : State) (n : Nat) (old : Fld → Nat) : State :=
  let s := filtAreas s n old
  let s := if old (Reg.FILT.THR_CTL_UP_EN n) = 0 ∧ rd s (Reg.FILT.THR_CTL_UP_EN n) = 1 then
      wrb s (Reg.FILT.STAT_UP_ARMED n) true else s
  let s := if old (Reg.FILT.THR_CTL_LO_EN n) = 0 ∧ rd s (Reg.FILT.THR_CTL_LO_EN n) = 1 then
      wrb s (Reg.FILT.STAT_LO_ARMED n) true else s
  let s := if rdb s (Reg.FILT.TONE_CTL_EN n) then s
    else wrb (s.onFilt n fun f => { f with blk := none, onRun := 0, offRun := 0 })
      (Reg.FILT.STAT_TONE_PRESENT n) false
  let fs := [Reg.FILT.CTL_PCV n, Reg.FILT.CTL_SEL n, Reg.FILT.CTL_INPUT n, Reg.FILT.CTL_ENTRY n,
    Reg.FILT.STAGES_NSTAGES n, Reg.FILT.STAGES_DEC0 n, Reg.FILT.STAGES_DEC1 n, Reg.FILT.STAGES_DEC2 n,
    Reg.FILT.STAGES_DEC3 n]
  if rd s (Reg.FILT.STAT_STATE n) ≠ 0 ∧ fs.any (fun f => old f != rd s f) = true then filtStart s n
  else if (s.filt n).par.state = 2 ∧ rdb s (Reg.FILT.STAT_PAR_BAD n) = false then s
  else if (s.filt n).par.state = 1 ∧ rdb s (Reg.FILT.PAR_CTL_EN n) = true
      ∧ rdb s (Reg.FILT.STAT_PAR_BAD n) = false then s
  else parArm s n

/-- A page reset abandons everything in progress and returns the banks to their reset contents (R153,
R416, R429). -/
def filtPageReset (s : State) (n : Nat) : State := s.onFilt n fun _ => FiltH.reset

end Sys2Proof.Machine
end

