-- ==== Sys2Proof/Machine/Llr.lean ====
section
/-! DEFINITION. The LLR demapper (chapter 09, R303 to R308): noise variance, shaping distribution, level spacing and
quantised LLRs, the real formulas in fixed point of 48 bits below 1 (DEDUCED, log entry 58). -/

namespace Sys2Proof.Machine

/-- Round a quotient with a positive divisor, halves away from zero. -/
def roundDiv (a : Int) (b : Nat) : Int :=
  if 0 ≤ a then ((2 * a.toNat + b) / (2 * b) : Nat) else -((2 * (-a).toNat + b) / (2 * b) : Nat)

/-- `n` terms of the series of atanh y = y + y^3/3 + …, from the term of order `k` on; `t` is y^k and `y2` is y^2,
both in 2^-60. -/
def atanhTerms (y2 : Nat) : Nat → Nat → Nat → Nat
  | 0, _, _ => 0
  | n + 1, k, t => t / k + atanhTerms y2 n (k + 2) (t * y2 / 2 ^ 60)

/-- The natural logarithm of a positive number, in 2^-48: with 2^k the power of two below it, k ln 2 plus
twice atanh ((w - 2^k) / (w + 2^k)). -/
def lnFix (w : Nat) : Nat :=
  let k := Nat.log2 w
  let y := (w - 2 ^ k) * 2 ^ 60 / (w + 2 ^ k)
  (k * 799144290325165978 + 2 * atanhTerms (y * y / 2 ^ 60) 20 1 y) / 2 ^ 12

/-- The levels of a dimension in order, and the bits of level `i`'s label (R303): the binary reflected Gray code. -/
def levelOf (modu i : Nat) : Int := 2 * (i : Int) - (2 ^ (modu + 1) - 1 : Nat)

def labelBit (modu i b : Nat) : Bool := bit (i ^^^ (i / 2)) (modu - b)

/-- The weight of level `i` (R307); all weights in use 0 stand for the uniform distribution (R308), and QPSK uses
none. -/
def levelWeight (wts : List Nat) (modu i : Nat) : Nat :=
  let l := wts.take (2 ^ modu)
  if modu = 0 ∨ l.all (· == 0) = true then 1 else l.getD ((levelOf modu i).natAbs / 2) 0

/-- The level spacing u = 1,024 / sqrt (2 E), in 2^-48 (R307). -/
def levelSpacing (wts : List Nat) (modu : Nat) : Nat :=
  let ls := List.range (2 ^ (modu + 1))
  let w := ls.foldl (fun a i => a + levelWeight wts modu i) 0
  let e := ls.foldl (fun a i => a + levelWeight wts modu i * (levelOf modu i).natAbs ^ 2) 0
  isqrt 64 (1024 ^ 2 * w * 2 ^ 96 / (2 * e)) 0

/-- d(a) - ln P(a) of level `i`, in 2^-48, but for what every level has in common (R305); none for a level of
probability 0.  The noise variance is `q` over `n`, at least 64 (R304). -/
def levelCost (wts : List Nat) (modu q n : Nat) (y : Int) (i : Nat) : Option Int :=
  let u := levelSpacing wts modu
  let w := levelWeight wts modu i
  let d := (y * 2 ^ 48 - levelOf modu i * u).natAbs ^ 2
  if w = 0 then none
  else some ((if q < 64 * n then d / (64 * 2 ^ 48) else d * n / (q * 2 ^ 48) : Nat) - (lnFix w : Nat))

/-- The least cost of the levels whose bit `b` is `v`. -/
def leastCost (wts : List Nat) (modu q n : Nat) (y : Int) (b : Nat) (v : Bool) : Option Int :=
  (List.range (2 ^ (modu + 1))).foldl (fun a i =>
    if labelBit modu i b = v then
      match a, levelCost wts modu q n y i with
      | none, c => c
      | a, none => a
      | some x, some c => some (min x c)
    else a) none

/-- The 3-bit value of bit `b` of a dimension with value `y` (R305): with no level of one kind left the LLR has no
bound, and is held to 3. -/
def llrValue (wts : List Nat) (modu gain q n : Nat) (y : Int) (b : Nat) : Int :=
  match leastCost wts modu q n y b true, leastCost wts modu q n y b false with
  | some x1, some x0 => clampI (-3) 3 (roundDiv ((x1 - x0) * gain) (16 * 2 ^ 48))
  | none, some _ => 3
  | some _, none => -3
  | none, none => 0

/-- The values of a dimension in label order (R303, R312). -/
def llrDim (wts : List Nat) (modu gain q n : Nat) (y : Int) : List Int :=
  (List.range (modu + 1)).map fun b => llrValue wts modu gain q n y b

/-- The settings of one message's demapping: constellation, pilot period, LLR_GAIN, NV_LOG2, weights, seeds of X and
Y, and the offset and index of the message's first pilot. -/
structure Demap where
  modu   : Nat
  per    : Nat
  gain   : Nat
  nv     : Nat
  wts    : List Nat
  seedX  : Nat
  seedY  : Nat
  pfirst : Nat
  pidx   : Nat
deriving DecidableEq, Repr

/-- Squared errors of the last pilots of X and of Y, newest first (R304). -/
abbrev Noise := List Nat × List Nat

/-- |y - s|^2 of a pilot. -/
def pilotErr (y s : Cx) : Nat := cxAbs2 (cxAdd y (cxScale (-1) s))

/-- The estimate's sum and count over the last 2^NV_LOG2 pilots (R304). -/
def noiseOf (nv : Nat) (l : List Nat) : Nat × Nat :=
  let w := l.take (2 ^ nv)
  (w.foldl (· + ·) 0, w.length)

/-- The values of a symbol of one polarisation: 0 before the stream's first pilot (R306). -/
def llrSymbol (d : Demap) (noise : List Nat) (y : Cx) : List Int :=
  let q := noiseOf d.nv noise
  if q.2 = 0 then List.replicate (2 * (d.modu + 1)) 0
  else llrDim d.wts d.modu d.gain q.1 q.2 y.1 ++ llrDim d.wts d.modu d.gain q.1 q.2 y.2

/-- The LLR values of a message's symbol periods from period `i` on, in the order of R312, and the noise estimate
after them: a pilot carries no value and updates the estimate (R304, R306). -/
def demapFrom (d : Demap) : Nat → List (Cx × Cx) → Noise → List Int × Noise
  | _, [], z => ([], z)
  | i, (x, y) :: t, z =>
    if d.pfirst ≤ i ∧ (i - d.pfirst) % d.per = 0 then
      let j := (d.pidx + (i - d.pfirst) / d.per) % 32767
      demapFrom d (i + 1) t ((pilotErr x (pilotOf d.seedX j) :: z.1).take 4096,
        (pilotErr y (pilotOf d.seedY j) :: z.2).take 4096)
    else
      let r := demapFrom d (i + 1) t z
      (llrSymbol d z.1 x ++ llrSymbol d z.2 y ++ r.1, r.2)

/-- `n` symbol periods of a list of components X I, X Q, Y I, Y Q. -/
def symbolPeriods : Nat → List Int → List (Cx × Cx)
  | 0, _ => []
  | n + 1, l => ((l.getD 0 0, l.getD 1 0), (l.getD 2 0, l.getD 3 0)) :: symbolPeriods n (l.drop 4)

end Sys2Proof.Machine
end

