-- ==== Sys2Proof/Machine/Soft.lean ====
section
/-! DEFINITION. Soft output and STREAM messages (chapter 09). -/

namespace Sys2Proof.Machine

/-! ### Layout -/

/-- Values per symbol period's message and bits per value (R302, R303, R313): the payload's bit count
b x D, for a format, constellation and pilot period. -/
def payloadBits (fmt modu per : Nat) : Nat :=
  if fmt = 0 then 24 * 512 else 12 * (modu + 1) * (512 - 512 / 2 ^ per)

/-- W of a data message (R313). -/
def dataLen (fmt modu per : Nat) : Nat := 3 + (payloadBits fmt modu per + 63) / 64

/-- NEED rounded up to a whole Gb/s, and CAP (R320). -/
def needOf (rs w : Nat) : Nat := (rs * w + 7999) / 8000

def capOf (l : Nat) : Nat := l * 41454 / 100

/-- A soft-symbol value (R302). -/
def softValue (gain : Nat) (v : Int) : Int := clampI (-31) 31 (roundDiv (v * gain) 4096)

/-- Bits of values, each `w` bits, least significant first, as one number (R312). -/
def packBits (w : Nat) : List Int → Nat
  | [] => 0
  | v :: t => unsext w v + 2 ^ w * packBits w t

/-- `n` 64-bit words of a number. -/
def numWords : Nat → Nat → List Nat
  | 0, _ => []
  | n + 1, v => v % 2 ^ 64 :: numWords n (v / 2 ^ 64)

/-- The payload words of a message (R312), from the components of its symbol periods or from its LLR values. -/
def payload (fmt modu per gain : Nat) (vals llrs : List Int) : List Nat :=
  numWords (dataLen fmt modu per - 3)
    (if fmt = 0 then packBits 6 ((vals.take 2048).map (softValue gain)) else packBits 3 llrs)

/-- H1 without its check (R310). -/
def h1Bits (epoch : Nat) (sq nolock budget pv : Bool) (pidx : Nat) (hole : Bool)
    (pfirst perCode fmt modu : Nat) : Nat :=
  epoch % 4096 + b2n sq * 2 ^ 12 + b2n nolock * 2 ^ 13 + b2n budget * 2 ^ 14 + b2n pv * 2 ^ 15
    + pidx % 32768 * 2 ^ 16 + b2n hole * 2 ^ 31 + pfirst % 512 * 2 ^ 32 + perCode % 8 * 2 ^ 41
    + fmt % 2 * 2 ^ 44 + modu % 4 * 2 ^ 45

/-- HCRC over H0 and bytes 0 to 5 of H1 (R311). -/
def hcrc (h0 h1 : Nat) : Nat := crc 16 0x1021 0xFFFF (toLE 8 h0 ++ toLE 6 h1)

/-- H1 with its check. -/
def h1Word (h0 h1 : Nat) : Nat := h1 + hcrc h0 h1 * 2 ^ 48

/-! ### State -/

/-- SYMCNT of the page (R324). -/
def symcnt (s : State) (p : Nat) : Nat :=
  rd s (Reg.SOFT.SYMCNT_LO_COUNT p) + 2 ^ 32 * rd s (Reg.SOFT.SYMCNT_HI_COUNT p)

def setSymcnt (s : State) (p n : Nat) : State :=
  wr (wr s (Reg.SOFT.SYMCNT_LO_COUNT p) n) (Reg.SOFT.SYMCNT_HI_COUNT p) (n / 2 ^ 32)

/-- The herd discards a message (R322). -/
def herdDiscard (s : State) (p : Nat) : State :=
  let first := (s.soft p).carried
  let s := bump s (Reg.SOFT.DROP_CNT_COUNT p) 1
  let s := s.onSoft p fun t => { t with carried := false }
  raiseIf first s (Reg.SOFT.evHERD_DISCARD p)

/-- A mark message with every reason that holds (R310, R316). -/
def sendMark (s : State) (p : Nat) : State :=
  let t := s.soft p
  let h0 := symcnt s p
  let h1 := h1Bits (rd s (Reg.SOFT.STAT_EPOCH p)) (rdb s (Reg.SOFT.STAT_SQ_IN p) || t.sqWord)
    (rdb s (Reg.SOFT.STAT_NOLOCK_IN p)) (rdb s (Reg.SOFT.STAT_OVER_BUDGET p)) false 0 false 0
    (t.perLog2 - 4) t.fmt t.modu
  let s := inc s (Reg.SOFT.MARK_CNT_COUNT p) 1
  if herdCarries s p then
    sendStream (s.onSoft p fun t => { t with carried := true }) p [h0, h1Word h0 h1]
  else herdDiscard s p

/-- One budget check (R320): shown in BUDGET, and OVER_BUDGET set and raised, or cleared (R321);
answers whether it holds. -/
def budgetCheck (s : State) (p fmt modu per : Nat) : State × Bool :=
  let need := needOf (rd s (Reg.CNV.RATE_NOW_RS_MBD (4 * p))) (dataLen fmt modu per)
  let cap := capOf (rd s (Reg.HERD.STAT_L_ACTIVE p))
  let s := wr (wr s (Reg.SOFT.BUDGET_NEED p) need) (Reg.SOFT.BUDGET_CAP p) cap
  if need ≤ cap then (wrb s (Reg.SOFT.STAT_OVER_BUDGET p) false, true)
  else (raise (wrb s (Reg.SOFT.STAT_OVER_BUDGET p) true) (Reg.SOFT.evOVER_BUDGET p), false)

/-- The settings a stream would take now (R299). -/
def nextFmt (s : State) (p : Nat) : Nat := rd s (Reg.SOFT.CFG_FMT p)

def nextMod (s : State) (p : Nat) : Nat := bits (rd s (Reg.EQ.CFG_NOW_CFG p)) 16 3

def nextPer (s : State) (p : Nat) : Nat := bits (rd s (Reg.EQ.PILOT_NOW_PILOT p)) 0 4

/-- The check made whenever L changes (R320): a stream that no longer fits ends at its next message
boundary (R314). -/
def budgetOnLanes (s : State) (p : Nat) : State :=
  if rd s (Reg.SOFT.STAT_STATE p) = 2 then
    let t := s.soft p
    let r := budgetCheck s p t.fmt t.modu t.perLog2
    if r.2 then r.1 else r.1.onSoft p fun t => { t with overEnd := true }
  else if rd s (Reg.SOFT.STAT_STATE p) = 1 then (budgetCheck s p (nextFmt s p) (nextMod s p) (nextPer s p)).1
  else s

/-- A stream ends: SOFT[p] moves to MARKING (R314). -/
def streamEnd (s : State) (p : Nat) : State :=
  raise (wr (s.onSoft p fun t => { t with overEnd := false, fmtEnd := false, syms := [] })
    (Reg.SOFT.STAT_STATE p) 1) (Reg.SOFT.evSTREAM_END p)

/-- The settings taken for the next message (R300). -/
def takeGains (s : State) (p : Nat) : State :=
  let g := rd s (Reg.SOFT.CFG_SS_GAIN p)
  let l := rd s (Reg.SOFT.CFG_LLR_GAIN p)
  let n := rd s (Reg.SOFT.CFG_NV_LOG2 p)
  let w := [rd s (Reg.SOFT.SHAPE_A_W0 p), rd s (Reg.SOFT.SHAPE_A_W1 p), rd s (Reg.SOFT.SHAPE_B_W2 p),
    rd s (Reg.SOFT.SHAPE_B_W3 p)]
  s.onSoft p fun t => { t with gain := g, wts := w, llrGain := l, nvLog2 := n }

/-- A stream begins (R299): the noise estimate starts anew. -/
def streamBegin (s : State) (p pfirst pidx : Nat) : State :=
  let fmt := nextFmt s p
  let modu := nextMod s p
  let per := nextPer s p
  let s := s.onSoft p fun t =>
    { t with fmt := fmt, modu := modu, perLog2 := per, pfirst := pfirst % 2 ^ per
             pidx := pidx % 32767, index := 0, syms := [], nvX := [], nvY := [] }
  let s := wrAll s [(Reg.SOFT.STAT_STATE p, 2), (Reg.SOFT.STAT_FMT_NOW p, fmt),
    (Reg.SOFT.STAT_MOD_NOW p, modu)]
  raise (takeGains (setSymcnt (inc s (Reg.SOFT.STAT_EPOCH p) 1) p 0) p) (Reg.SOFT.evSTREAM_START p)

/-- SOFT[p]'s block runs (R83, R92). -/
def softRuns (s : State) (p : Nat) : Bool := blockRuns s (Reg.SOFT.page p)

/-- STREAM_START (R299, R320): an EQ word with SQ and NOLOCK at 0, the latter since EQ[p] is in TRACK (R260), and NSYM
above 0; its first symbol period is the stream's. -/
def streamStart (r : PortRun) (s : State) : State :=
  let p := r.port
  if rd s (Reg.SOFT.STAT_STATE p) ≠ 1 ∨ rdb s (Reg.SOFT.STAT_SQ_IN p) = true
      ∨ rd s (Reg.EQ.STAT_STATE p) ≠ 5 ∨ softRuns s p = false ∨ blockRuns s (Reg.EQ.page p) = false then s
  else
    let l := (eqRunNow s p r.run.toEqSpan).syms.reverse
    let pil := (s.eq p).pil
    let sq : Bool := l.any (·.sq)
    let s := wrb ((eqFeed s p r.run).onSoft p fun t => { t with sqWord := sq }) (Reg.SOFT.STAT_NOLOCK_IN p) false
    if l.isEmpty || sq then s
    else
      let c := budgetCheck s p (nextFmt s p) (nextMod s p) (nextPer s p)
      if c.2 then (streamBegin c.1 p pil.1 pil.2).onSoft p fun t => { t with syms := l } else c.1

def execStreamStart (r : PortRun) (s : State) : Host.Outcome State Fault Refusal := .next (streamStart r s)

/-- The weights in use are all 0 (R307, R308): W0 and W1 for 16QAM, all four for 64QAM. -/
def shapeUniform (fmt modu : Nat) (wts : List Nat) : Bool :=
  fmt == 1 && (modu == 1 && (wts.take 2).all (· == 0) || modu == 2 && wts.all (· == 0))

/-- Index of the first pilot of the message in progress (R310). -/
def firstPidx (t : SoftH) : Nat := (t.pidx + 512 / 2 ^ t.perLog2 * t.index) % 32767

/-- The demapping settings of the message in progress (R299, R300). -/
def demapOf (s : State) (p : Nat) : Demap :=
  let t := s.soft p
  { modu := t.modu, per := 2 ^ t.perLog2, gain := t.llrGain, nv := t.nvLog2, wts := t.wts, seedX := seedX s p
    seedY := seedY s p, pfirst := t.pfirst, pidx := firstPidx t }

/-- The LLR values of a message and the noise estimate after it (R303 to R306). -/
def demapMessage (s : State) (p : Nat) (vals : List Int) : List Int × Noise :=
  demapFrom (demapOf s p) 0 (symbolPeriods 512 vals) ((s.soft p).nvX, (s.soft p).nvY)

/-- The words of data message `m` of the stream after the header (R309, R310). -/
def dataWords (s : State) (p : Nat) (vals : List Int) (hole : Bool) : List Nat :=
  let t := s.soft p
  let h0 := 512 * t.index % 2 ^ 64
  let h1 := h1Bits (rd s (Reg.SOFT.STAT_EPOCH p)) false false false true (firstPidx t) hole t.pfirst
    (t.perLog2 - 4) t.fmt t.modu
  h0 :: h1Word h0 h1 :: payload t.fmt t.modu t.perLog2 t.gain vals
    (if t.fmt = 0 then [] else (demapMessage s p vals).1)

/-- The noise estimate after a message, which LLR format keeps (R301, R304). -/
def keepNoise (s : State) (p : Nat) (vals : List Int) : State :=
  if (s.soft p).fmt = 0 then s
  else
    let z := (demapMessage s p vals).2
    s.onSoft p fun t => { t with nvX := z.1, nvY := z.2 }

/-- The message boundary: a stream due to end does so (R314), with a first mark (R316), but a change
of format begins the next stream at once while R299 holds: EQ[p] in TRACK, its last word without NOLOCK and SQ, and the
budget. -/
def atBoundary (s : State) (p : Nat) : State :=
  let t := s.soft p
  if t.overEnd then sendMark (streamEnd s p) p
  else if t.fmtEnd then
    let r := budgetCheck (streamEnd s p) p (nextFmt s p) (nextMod s p) (nextPer s p)
    if r.2 && rd s (Reg.EQ.STAT_STATE p) == 5 && !rdb s (Reg.SOFT.STAT_NOLOCK_IN p) && !t.sqWord
        && !rdb s (Reg.SOFT.STAT_SQ_IN p) then r.1
    else sendMark r.1 p
  else s

/-- The components of symbol periods, X I, X Q, Y I, Y Q of each. -/
def symVals (l : List EqSym) : List Int := l.flatMap fun y => [y.x.1, y.x.2, y.y.1, y.y.2]

/-- A data message of 512 symbol periods is handed to the herd (R300, R303 to R313, R322). -/
def sendData (s : State) (p : Nat) : State :=
  let t := s.soft p
  let l := t.syms.take 512
  let vals := symVals l
  let ws := dataWords s p vals (l.any (·.hole))
  let s := raiseIf (shapeUniform t.fmt t.modu t.wts) (keepNoise s p vals) (Reg.SOFT.evSHAPE_UNIFORM p)
  let s := setSymcnt (inc s (Reg.SOFT.MSG_CNT_COUNT p) 1) p (symcnt s p + 512)
  let s := takeGains (s.onSoft p fun t => { t with index := t.index + 1, syms := t.syms.drop 512 }) p
  let s := if herdCarries s p then s.onSoft p fun t => { t with queue := t.queue ++ [ws] }
    else herdDiscard s p
  atBoundary s p

/-- STREAM_DATA_MESSAGE: the words up to the message's last symbol period go through EQ[p], and the message goes out. -/
def streamDataMessage (r : PortRun) (s : State) : State :=
  let p := r.port
  if rd s (Reg.SOFT.STAT_STATE p) ≠ 2 ∨ softRuns s p = false then s
  else
    let s := if rd s (Reg.EQ.STAT_STATE p) = 5 ∧ blockRuns s (Reg.EQ.page p) = true then eqFeed s p r.run else s
    if (s.soft p).syms.length < 512 then s else sendData s p

def execStreamDataMessage (r : PortRun) (s : State) : Host.Outcome State Fault Refusal := .next (streamDataMessage r s)

/-- MARK_MESSAGE (R316). -/
def markMessage (p : Fin 16) (s : State) : State :=
  if rd s (Reg.SOFT.STAT_STATE p) = 1 ∧ softRuns s p = true then sendMark s p else s

def execMarkMessage (p : Fin 16) (s : State) : Host.Outcome State Fault Refusal :=
  .next (markMessage p s)

/-- Queued messages not yet begun are discarded, and SYMCNT counts the symbol periods of those of the last stream as
not delivered (R310, R315 step 4). -/
def dropQueue (s : State) (p : Nat) : State :=
  let n := min (s.soft p).queue.length (s.soft p).index
  setSymcnt (s.onSoft p fun t => { t with queue := [] }) p (symcnt s p + 2 ^ 64 - 512 * n)

/-- SQUELCH_REQUEST (R315, R318, R319): the stream ends, queued data is discarded, and the mark goes
first. -/
def squelchRequest (p : Fin 16) (s : State) : State :=
  if rd s (Reg.SOFT.STAT_STATE p) = 0 ∨ rd s (Reg.PORT.SQ_NOW_CAUSE p) = 0 ∨ softRuns s p = false then s
  else
    let s := wrb (dropQueue s p) (Reg.SOFT.STAT_SQ_IN p) true
    let s := if rd s (Reg.SOFT.STAT_STATE p) = 2 then streamEnd s p else s
    sendMark s p

def execSquelchRequest (p : Fin 16) (s : State) : Host.Outcome State Fault Refusal :=
  .next (squelchRequest p s)

/-- EQ_WORD_WITH_NOLOCK (R250, R260, R314, R316): an EQ word reaches SOFT[p], with the SQ of its crossing word, and
NOLOCK at 1 while EQ[p] is not in TRACK; one with NOLOCK or SQ at 1 ends the stream. -/
def eqWordWithNolock (w : EqWord) (s : State) : State :=
  let p := w.port
  if rd s (Reg.SOFT.STAT_STATE p) = 0 ∨ rd s (Reg.EQ.STAT_STATE p) = 0 ∨ softRuns s p = false then s
  else
    let sq := sqAt s p w.up
    let nolock : Bool := rd s (Reg.EQ.STAT_STATE p) != 5
    let s := wrb (s.onSoft p fun t => { t with sqWord := sq }) (Reg.SOFT.STAT_NOLOCK_IN p) nolock
    if rd s (Reg.SOFT.STAT_STATE p) = 2 && (nolock || sq) then sendMark (streamEnd s p) p else s

def execEqWordWithNolock (w : EqWord) (s : State) : Host.Outcome State Fault Refusal := .next (eqWordWithNolock w s)

/-- The messages queued at the herd leave, oldest first (R476 item 4): the idle tick's part. -/
def softDrain (s : State) (p : Nat) : State :=
  if herdCarries s p then
    (s.soft p).queue.foldl (fun s ws =>
      sendStream (s.onSoft p fun t => { t with carried := true, queue := t.queue.drop 1 }) p ws) s
  else s

/-- HERD[p] carries no STREAM blocks any longer: it discards what is queued at it, and SOFT[p] counts each (R322). -/
def softDiscard (s : State) (p : Nat) : State :=
  if herdCarries s p then s
  else (s.soft p).queue.foldl (fun s _ => herdDiscard (s.onSoft p fun t => { t with queue := t.queue.drop 1 }) p) s

/-- SOFT[p] goes OFF: no STREAM block is carried, and so no queued message is kept (R298). -/
def softOff (s : State) (p : Nat) : State :=
  let s := dropQueue s p
  wr (if rd s (Reg.SOFT.STAT_STATE p) = 2 then streamEnd s p else s) (Reg.SOFT.STAT_STATE p) 0

/-- SOFT[p] comes on: MARKING, with a first mark that carries the squelch request and NOLOCK as they stand
(R316). -/
def softOn (s : State) (p : Nat) : State :=
  let sq : Bool := rd s (Reg.PORT.SQ_NOW_CAUSE p) != 0
  sendMark (nolockFollow (wrb (wr s (Reg.SOFT.STAT_STATE p) 1) (Reg.SOFT.STAT_SQ_IN p) sq) p) p

/-- SOFT[p] follows EN in effect and its gate (R298, R316). -/
def softFollow (s : State) (p : Nat) : State :=
  if treatedGated s (Reg.SOFT.page p) || !rdb s (Reg.HDR.PG_CTL_EN (Reg.SOFT.page p)) then
    (if rd s (Reg.SOFT.STAT_STATE p) = 0 then s else softOff s p)
  else if rd s (Reg.SOFT.STAT_STATE p) = 0 then (if softRuns s p then softOn s p else s)
  else s

/-- A commit of SOFT[p] that changes CFG.FMT in effect ends the stream at the next boundary (R314). -/
def softCommit (s : State) (p : Nat) (old : Fld → Nat) : State :=
  if rd s (Reg.SOFT.STAT_STATE p) = 2 ∧ old (Reg.SOFT.CFG_FMT p) ≠ rd s (Reg.SOFT.CFG_FMT p) then
    s.onSoft p fun t => { t with fmtEnd := true }
  else s

end Sys2Proof.Machine
end

