-- ==== Sys2Proof/Machine/Link.lean ====
section
/-! DEFINITION. The sending side of Bribin Link (chapter 14): sequence numbers, credits, the replay
buffer, the queues of a herd, and the end of a session. -/

namespace Sys2Proof.Machine

/-! ### Counters as registers -/

/-- Bytes of replay buffer in use (R484): every unreleased message, 8 bytes a word. -/
def bufBytes (l : LinkH) : Nat := l.buf.foldl (fun n m => n + 8 * m.body.len) 0

/-- HL_SEQ and HL_BUF follow the counters (R505). -/
def linkRegs (s : State) (h : Nat) : State :=
  let l := s.link h
  wrAll s [(Reg.LINK0.HL_SEQ_TX_NEXT h, l.txX), (Reg.LINK0.HL_SEQ_RX_EXP h, l.rxE),
    (Reg.LINK0.HL_BUF_RPL_USED h, (bufBytes l + 63) / 64)]

/-- The herd is UP: it carries sequenced messages. -/
def herdUp (s : State) (h : Nat) : Bool := rd s (Reg.HERD.STAT_STATE h) == 4 && s.bus.accepting && herdRuns s h

/-- The herd is in ALIGN or UP: it carries CREDIT (R467, R483). -/
def herdCredits (s : State) (h : Nat) : Bool :=
  3 ≤ rd s (Reg.HERD.STAT_STATE h) && s.bus.accepting && herdRuns s h

/-! ### CREDIT -/

/-- Word 1 of a CREDIT (R481): LIMIT is what has been processed and freed plus 256 credits (R482). -/
def creditWord (s : State) (h : Nat) : Nat :=
  (s.link h).rxE % 65536 + b2n (s.link h).nakDue * 2 ^ 16 + rd s (Reg.LINK0.HL_BUF_EPOCH h) * 2 ^ 24
    + ((s.link h).freed + 256) % 65536 * 2 ^ 32

/-- STREAM goes before everything else that waits for the herd (R476 items 3 and 4). -/
def streamFirst (s : State) (h : Nat) : State := if h < 16 then softDrain s h else s

/-- Send a CREDIT (R483); one with NAK counts (R505). -/
def sendCredit (s : State) (h : Nat) : State :=
  let s := streamFirst s h
  let w := creditWord s h
  let nak := (s.link h).nakDue
  let s := emit s (.message h [word0 7 2 false 0 false 0 w, w])
  let s := if nak then bump s (Reg.LINK0.HL_ERR_NAK_TX h) 1 else s
  s.onLink h fun l => { l with due := false, nakDue := false, nakSent := l.nakSent || nak }

/-- Send the CREDIT that is due, if the herd carries CREDIT; behind a transmit failover it waits (R459). -/
def flushCredit (s : State) (h : Nat) : State :=
  if (s.link h).due && herdCredits s h && !txHolds s h then sendCredit s h else s

/-- Make a CREDIT due. -/
def creditDue (s : State) (h : Nat) : State := s.onLink h fun l => { l with due := true }

/-- Make a CREDIT with NAK due, unless one has been sent for the present E (R479). -/
def nakDue (s : State) (h : Nat) : State :=
  if (s.link h).nakSent then s else s.onLink h fun l => { l with due := true, nakDue := true }

/-! ### New messages -/

/-- The peer's credit covers one more message of this cost (R482). -/
def creditOk (l : LinkH) (cost : Nat) : Bool :=
  (l.limit + 65536 - (l.sentCost + cost) % 65536) % 65536 < 32768

/-- The replay buffer has room for it (R484). -/
def spaceOk (l : LinkH) (b : Body) : Bool := bufBytes l + 8 * b.len ≤ 65536

/-- The herd sends sequenced messages: it is UP, and no transmit failover holds them (R459). -/
def herdSends (s : State) (h : Nat) : Bool := herdUp s h && !txHolds s h

/-- A new sequenced message can leave now: credit and space suffice, and no replay is in progress (R476). -/
def canSend (s : State) (h : Nat) (b : Body) : Bool :=
  herdSends s h && (s.link h).resend.isNone && creditOk (s.link h) b.cost && spaceOk (s.link h) b

/-- The message is an END (R497). -/
def Body.isEnd (b : Body) : Bool := b.kind == 8 && b.enc && b.words.headD 0 % 256 == 5

/-- The key a message of a slot goes out under: its session's, or the one kept for an END (R494, R502). -/
def sendKey (s : State) (h : Nat) (b : Body) : List Byte :=
  if b.isEnd then vget (s.link h).endKeys [] b.slot else (s.ses b.slot).keyOut

/-- Send a new sequenced message: it takes the next X and enters the replay buffer (R479, R484); an END's key is
erased. -/
def sendNew (s : State) (h : Nat) (b : Body) : State :=
  let s := streamFirst s h
  let x := (s.link h).txX
  let m : Sent := ⟨x, b, sealWords (sendKey s h b) h x b⟩
  let s := emit s (.message h (m.wire false))
  linkRegs (s.onLink h fun l =>
    { l with txX := l.txX + 1, buf := l.buf ++ [m], sentCost := l.sentCost + b.cost, stalled := false
             endKeys := if b.isEnd then vset l.endKeys b.slot [] else l.endKeys }) h

/-- RPL_STALL at the first wait of a message that does not fit (R484). -/
def stalls (s : State) (h : Nat) (b : Body) : State :=
  if spaceOk (s.link h) b || (s.link h).stalled then s
  else raise (s.onLink h fun l => { l with stalled := true }) Reg.LINK0.evRPL_STALL

/-- The first message of each slot waits for replay space if it does not fit. -/
def stallCheck (s : State) (h : Nat) : State :=
  ((s.link h).queues.toList.filterMap List.head?).foldl (fun s b => stalls s h b) s

/-- The slot served next: round-robin after the slot last served, among those whose first message can
leave (R476 item 7). -/
def nextSlot (s : State) (h : Nat) : Option Nat :=
  let l := s.link h
  ((List.range 8).map (fun i => (l.served + 1 + i) % 8)).find? (fun k =>
    match vget l.queues [] k with
    | [] => false
    | b :: _ => canSend s h b)

/-- Send what can be sent of a herd's queues; `fuel` is at least the number of messages waiting. -/
def pumpN : Nat → State → Nat → State
  | 0, s, _ => s
  | n + 1, s, h =>
    match nextSlot s h with
    | none => s
    | some k =>
      match vget (s.link h).queues [] k with
      | [] => s
      | b :: t =>
        pumpN n (sendNew (s.onLink h fun l => { l with queues := vset l.queues k t, served := k }) h b) h

/-- Messages waiting on a herd. -/
def waitingMsgs (l : LinkH) : Nat := l.queues.toList.foldl (fun n q => n + q.length) 0

/-- The next message of a replay in progress goes out again, with RPL at 1 (R485); after the last the replay has
ended. -/
def resendNext (s : State) (h : Nat) : State :=
  match (s.link h).resend with
  | none => s
  | some x =>
    if herdSends s h = false then s
    else match (s.link h).buf.filter (fun m => decide (x ≤ m.x)) with
      | [] => s.onLink h fun l => { l with resend := none }
      | m :: t =>
        let s := emit (streamFirst s h) (.message h (m.wire true))
        s.onLink h fun l => { l with resend := if t.isEmpty then none else some (m.x + 1) }

/-- Send what is next in the order of R476: the CREDIT that is due, the next message of a replay in progress, and
once none is, every new message that can leave; and note a first wait for replay space. -/
def pump (s : State) (h : Nat) : State :=
  let s := resendNext (flushCredit s h) h
  stallCheck (pumpN (waitingMsgs (s.link h)) s h) h

/-- Queue a message for a slot on a herd and send what can be sent. -/
def queueMsg (s : State) (h : Nat) (b : Body) : State :=
  pump (s.onLink h fun l => { l with queues := vset l.queues b.slot (vget l.queues [] b.slot ++ [b]) }) h

/-- Every herd sends what has waited while its domain delivered no edges (R83). -/
def herdsResume (s : State) : State := (List.range 17).foldl (fun s h => pump s h) s

/-- A herd goes on with the replay in progress: the idle tick's part (log entry 45). -/
def replayOn (s : State) (h : Nat) : State := if (s.link h).resend.isSome then pump s h else s

/-! ### Replay -/

/-- A replay begins, from the oldest unreleased message (R485, R486); it ends one in progress. -/
def replay (s : State) (h : Nat) : State :=
  let s := raise (bump s (Reg.LINK0.HL_CNT_REPLAY h) 1) (Reg.LINK0.evREPLAY h)
  pump (s.onLink h fun l => { l with resend := some 0 }) h

/-- An ACK releases every message before it (R483): X is rebuilt from the oldest unreleased one. -/
def ackRelease (s : State) (h ack : Nat) : State :=
  match (s.link h).buf with
  | [] => s
  | m :: _ =>
    let n := (ack + 65536 - m.x % 65536) % 65536
    if n ≤ (s.link h).buf.length then
      linkRegs (s.onLink h fun l => { l with buf := l.buf.drop n }) h
    else s

/-! ### Sessions -/

/-- Session `k` is established. -/
def sesUp (s : State) (k : Nat) : Bool := rd s (Reg.LINK1.SES_STAT_STATE k) == 2

/-- The herd a slot is bound to. -/
def sesHerd (s : State) (k : Nat) : Nat := rd s (Reg.LINK1.SES_STAT_HERD k)

/-- Clear the subscriptions of a slot (R186, R493). -/
def clearSubs (s : State) (k : Nat) : State :=
  wr ((List.range 32).foldl (fun s w => wr s (Reg.EVT2.SUBS_PAGES k w) 0) s)
    (Reg.LINK2.TEL_SUBS_PORTS k) 0

/-- The buffer space of requests not yet issued is freed with them (R482). -/
def backlogCost (l : List SesReq) : Nat := l.foldl (fun n r => n + r.cost) 0

/-- The END message with its reason (R497). -/
def endBody (k reason : Nat) : Body := ⟨8, k, true, [5 + reason * 2 ^ 8]⟩

/-- A session ends (R502): causes 2 to 4 send END while the herd is UP; keys, subscriptions, queued
responses, notices and reports go; the slot is FREE and SES_DOWN is raised. -/
def endSession (s : State) (k reason : Nat) : State :=
  if sesUp s k = false then s
  else
    let h := sesHerd s k
    let freed := backlogCost (s.ses k).backlog
    let s := s.onLink h fun l =>
      { l with queues := vset l.queues k [], freed := l.freed + freed, due := l.due || freed != 0 }
    let key := (s.ses k).keyOut
    let s := if 2 ≤ reason ∧ reason ≤ 4 ∧ herdUp s h = true then
        queueMsg (s.onLink h fun l => { l with endKeys := vset l.endKeys k key }) h (endBody k reason)
      else s
    let s := clearSubs s k
    let s := s.onSes k fun _ => SesH.reset
    let s := s.onEvt fun v => { v with notices := vset v.notices k [], dropSince := vset v.dropSince k 0 }
    let s := wrAll s [(Reg.LINK1.SES_STAT_STATE k, 0), (Reg.LINK1.SES_STAT_END_REASON k, reason)]
    pump (raise s (Reg.LINK1.evSES_DOWN k)) h

/-- Every session bound to a herd ends (R480, R502). -/
def endHerdSessions (s : State) (h reason : Nat) : State :=
  (List.range 8).foldl (fun s k => if sesUp s k && sesHerd s k == h then endSession s k reason else s) s

/-- Both counters to 0 and the replay buffer empty (R480), and with E or LIMIT so changed a CREDIT due (R483); an END
that still waits goes, since its key would meet a counter again. -/
def zeroLink (s : State) (h : Nat) : State :=
  linkRegs (s.onLink h fun l =>
    { l with txX := 0, rxE := 0, buf := [], queues := l.queues.map (·.filter (!·.enc)), endKeys := Vector.replicate 8 []
             sentCost := 0, procCost := 0, freed := 0, nakSent := false
             resend := none, nakDue := false, stalled := false, due := l.due || l.rxE != 0 || l.freed != 0 }) h

/-- A reset of herd `h`: sessions end with reason 5, the counters are 0, the buffer is empty, the epoch
advances, and no CREDIT has been received (R480). -/
def linkReset (s : State) (h : Nat) : State :=
  let s := zeroLink (endHerdSessions s h 5) h
  let s := inc s (Reg.LINK0.HL_BUF_EPOCH h) 1
  s.onLink h fun l => { l with peerSeen := false, limit := 0, seek := false }

/-- CREDIT_INTERVAL (R483): a CREDIT is due, and goes at once unless a transmit failover holds it (R459). -/
def creditInterval (h : Fin 17) (s : State) : State :=
  if herdCredits s h then flushCredit (creditDue s h) h else s

def execCreditInterval (h : Fin 17) (s : State) : Host.Outcome State Fault Refusal :=
  .next (creditInterval h s)

/-- REPLAY_TIMEOUT (R485): with unreleased messages. -/
def replayTimeout (h : Fin 17) (s : State) : State :=
  if (s.link h).buf.isEmpty || !herdUp s h then s else replay s h

def execReplayTimeout (h : Fin 17) (s : State) : Host.Outcome State Fault Refusal :=
  .next (replayTimeout h s)

/-! ### Headers (R469 to R471) -/

/-- Fields of word 0. -/
def hKind (w : Nat) : Nat := bits w 0 4
def hLen (w : Nat) : Nat := bits w 4 10
def hEnc (w : Nat) : Bool := bit w 14
def hSlot (w : Nat) : Nat := bits w 16 3
def hSeq (w : Nat) : Nat := bits w 24 16

/-- Least LEN of a kind (R481, R487, R492, R497). -/
def leastLen (kind : Nat) : Nat :=
  match kind with
  | 1 => 4 | 2 => 5 | 3 => 5 | 4 => 4 | 5 => 6 | 6 => 4 | _ => 2

/-- The header is correct (R471): HCHK, KIND, reserved bits, LEN. -/
def headerOk (w w1 : Nat) : Bool :=
  bits w 56 8 == hchk (w % 2 ^ 56) (hKind w) w1 && hKind w ≤ 9 && !bit w 15 && bits w 20 4 == 0
    && bits w 40 16 == 0 && leastLen (hKind w) ≤ hLen w

/-- A header failed (R471): it is counted. -/
def headerBad (s : State) (h : Nat) : State :=
  raise (bump s (Reg.LINK0.HL_CNT_HDR_ERR h) 1) Reg.LINK0.evHDR_ERR

end Sys2Proof.Machine
end

