-- ==== Sys2Proof/Machine/Lockstep.lean ====
section
/-! DEFINITION. Core pairs (chapter 17): lockstep mismatch, restart, caches; and the rejection of a key
exchange (R500), which a restart of pair B causes. -/

namespace Sys2Proof.Machine

/-- A key exchange is rejected (R500): KEYX_LAST, KEYX_REJECT, and a REJECT message on the herd. -/
def keyxReject (s : State) (h k reason : Nat) : State :=
  let s := wrAll s [(Reg.LINK1.KEYX_LAST_REASON, reason), (Reg.LINK1.KEYX_LAST_SLOT, k), (Reg.LINK1.KEYX_LAST_HERD, h)]
  queueMsg (raise s Reg.LINK1.evKEYX_REJECT) h ⟨8, k, false, [6 + reason * 2 ^ 8 + k * 2 ^ 16]⟩

/-- The exchange in slot `k` fails: the slot is FREE again (R500); SEC makes no signature for it. -/
def exchFail (s : State) (k reason : Nat) : State :=
  signNext (keyxReject (wr (s.onSes k fun _ => SesH.reset) (Reg.LINK1.SES_STAT_STATE k) 0) (sesHerd s k) k reason)

/-- Slot `k` is in KEYX. -/
def inExchange (s : State) (k : Nat) : Bool := rd s (Reg.LINK1.SES_STAT_STATE k) == 1

/-- A request of master `m` has its completion discarded (R155). -/
def discardReq (m : Nat) (r : Req) : Req := if r.master = m then { r with dead := true } else r

/-- The completions of the requests that master `m` has issued are discarded (R155). -/
def discardAll (s : State) (m : Nat) : State :=
  let s := s.onBus fun b => { b with waiting := b.waiting.map (discardReq m), commits := b.commits.map (discardReq m) }
  let s := s.onMemc fun x => { x with pending := x.pending.map (fun e => { e with req := discardReq m e.req }) }
  s.onSpf fun f => { f with
    work := f.work.map (fun w => match w with
      | .window r => .window (discardReq m r)
      | .refusal r t => .refusal (discardReq m r) t
      | w => w)
    op := match f.op with
      | some o => some { o with kind := match o.kind with
          | .program r => .program (discardReq m r)
          | k => k }
      | none => none }

/-- Pair `n` is held in reset: its caches are invalidated, its completions discarded, and pair B abandons
its key exchanges (R500, R606). -/
def pairStop (s : State) (n : Nat) : State :=
  let s := discardAll (s.onCore n fun c => c.drop fun _ => true) (n + 1)
  if n = 1 then
    (List.range 8).foldl (fun s k => if inExchange s k then exchFail s k 6 else s) s
  else s

/-- Pair `n` begins a restart for a cause (R606). -/
def pairRestart (s : State) (n cause : Nat) : State :=
  pairStop (wr (s.onCore n fun c => { c with cause := cause }) (Reg.CORE.STAT_STATE n) 2) n

/-- RUN at a mismatch (R607): the run goes on if the one before lies within 800,000,000 MGT cycles. -/
def runNext (s : State) (n : Nat) : Nat :=
  match (s.core n).lastMis with
  | none => 1
  | some m => if s.time.mgt - m ≤ 800000000 then satAdd 4 (rd s (Reg.CORE.STAT_RUN n)) 1 else 1

/-- LOCKSTEP_MISMATCH (R605 to R607): a running pair restarts, or is held once RUN reaches MAX_RUN. -/
def lockstepMismatch (n : Fin 2) (s : State) : State :=
  if rd s (Reg.CORE.STAT_STATE n) ≠ 1 then s
  else
    let r := runNext s n
    let s := bump (wr (raise s (Reg.CORE.evMISMATCH n)) (Reg.CORE.STAT_RUN n) r) (Reg.CORE.CNT_MISMATCH n) 1
    let s := s.onCore n fun c => { c with lastMis := some s.time.mgt }
    if rd s (Reg.CORE.CTL_MAX_RUN n) ≤ r then
      raise (pairStop (wr s (Reg.CORE.STAT_STATE n) 3) n) (Reg.CORE.evPAIR_HELD n)
    else pairRestart s n 1

def execLockstepMismatch (n : Fin 2) (s : State) : Host.Outcome State Fault Refusal :=
  .next (lockstepMismatch n s)

/-- CORE_RESTART_DONE (R606): both cores fetch their first instruction. -/
def coreRestartDone (n : Fin 2) (s : State) : State :=
  if rd s (Reg.CORE.STAT_STATE n) ≠ 2 then s
  else
    let s := wr (wr s (Reg.CORE.STAT_STATE n) 1) (Reg.CORE.STAT_CAUSE n) (s.core n).cause
    raise (bump s (Reg.CORE.CNT_RESTARTS n) 1) (Reg.CORE.evRESTART_DONE n)

def execCoreRestartDone (n : Fin 2) (s : State) : Host.Outcome State Fault Refusal := .next (coreRestartDone n s)

/-- What a write of CORE[n].CMD does (R608). -/
def coreCmdEffect (s : State) (n v : Nat) : State :=
  if bit v 0 then s.onCore n fun c => c.drop fun _ => true else s

/-- A page reset of CORE[n], once its registers are cleared; `started` tells whether the pair had been
started (R144, R606, R607). -/
def corePageReset (s : State) (n : Nat) (started : Bool) : State :=
  let s := s.onCore n fun c => { c with lastMis := none }
  if started then pairRestart s n 2 else s

end Sys2Proof.Machine
end

