-- ==== Sys2Proof/Machine/Estimate.lean ====
section
/-! DEFINITION. The arithmetic of a window's estimates (chapter 10, R333, R337): decibels, the bit error ratio under
Gaussian noise, angles and the moments of a converter's codes, in fixed point, to the nearest unit of the register
where the spec says no more (log entry 65). -/

namespace Sys2Proof.Machine

/-! ### Decibels -/

/-- The natural logarithm of 10, in 2^-48. -/
def ln10 : Nat := 648120085424803

/-- `k` times the decimal logarithm of a / b. -/
def logTen (k a b : Nat) : Int := roundDiv (((lnFix a : Int) - lnFix b) * k) ln10

/-! ### Gaussian noise -/

/-- `n` terms, from the `k`-th on, of the series of the integral of exp (-x^2 / 2) from 0 to z, in 2^-200: `t` is the
k-th power of -z^2 / 2, times z, over k factorial. -/
def gaussTerms (z2 : Int) : Nat → Nat → Int → Int
  | 0, _, _ => 0
  | n + 1, k, t => t / (2 * k + 1 : Nat) + gaussTerms z2 n (k + 1) (-(t * z2) / (2 ^ 201 * (k + 1 : Nat)))

/-- The probability that a normal value of variance 1 lies above z, which is in 2^-60, in 2^-200; above 12 none. -/
def gaussTail (z : Nat) : Nat :=
  if 12 * 2 ^ 60 ≤ z then 0
  else
    let x : Int := z * 2 ^ 140
    (2 ^ 199 - gaussTerms (x * x / 2 ^ 200) 400 0 x * 641075527840499933413004623679830672196624219171451520342208 / 2 ^ 200).toNat

/-- The probability that a normal value lies above `m` times g. -/
def tailAt (g : Nat) (m : Int) : Int :=
  if 0 ≤ m then gaussTail (m.toNat * g) else 2 ^ 200 - gaussTail ((-m).toNat * g)

/-- The probability that a decision of level `i` is level `j` of 2^(modu + 1), g being half a level's spacing over the
noise's deviation. -/
def decideProb (modu g i j : Nat) : Int :=
  let d := levelOf modu j - levelOf modu i
  (if j = 0 then 2 ^ 200 else tailAt g (d - 1)) - (if j + 1 = 2 ^ (modu + 1) then 0 else tailAt g (d + 1))

/-- The bits in which two labels differ. -/
def labelErrors (modu i j : Nat) : Nat :=
  ((List.range (modu + 1)).filter fun b => labelBit modu i b != labelBit modu j b).length

/-- The bit error ratio, in 2^-200, of a constellation with shaping weights at a ratio of signal to noise power
(R333). -/
def berOf (modu : Nat) (wts : List Nat) (sig noise : Nat) : Nat :=
  let ls := List.range (2 ^ (modu + 1))
  let w := ls.foldl (fun a i => a + levelWeight wts modu i) 0
  let e := ls.foldl (fun a i => a + levelWeight wts modu i * (levelOf modu i).natAbs ^ 2) 0
  let g := isqrt 100 (sig * w * 2 ^ 120 / (noise * e)) 0
  let n := ls.foldl (fun a i => ls.foldl (fun a j =>
    a + levelWeight wts modu i * labelErrors modu i j * decideProb modu g i j) a) (0 : Int)
  n.toNat / (w * (modu + 1))

/-- The largest of 2^n values from `q` on, in 2^-60, above which a normal value lies with at least a probability. -/
def tailInverse (b : Nat) : Nat → Nat → Nat
  | 0, q => q
  | n + 1, q => if b ≤ gaussTail (q + 2 ^ n) then tailInverse b n (q + 2 ^ n) else tailInverse b n q

/-- Q, in 0.01 dB, of a bit error ratio: 20 log10 of the value that a normal one exceeds so often (R333). -/
def qOf (b : Nat) : Int := logTen 2000 (max 1 (tailInverse b 64 0)) (2 ^ 60)

/-! ### I and Q -/

/-- The quadrature error of a polarisation, in 0.01 degrees: asin of the correlation coefficient of its codes. -/
def quadOf (x : IqSum) : Int :=
  let c := (x.n : Int) * x.iq - x.i * x.q
  let a := (x.n : Int) * x.ii - x.i * x.i
  let b := (x.n : Int) * x.qq - x.q * x.q
  let v := (angleSteps 72000 15 0 (isqrt 320 (4 ^ 32 * (a * b - c * c)).toNat 0) (2 ^ 32 * (c.natAbs : Int)) + 1) / 2
  if c < 0 then -(v : Int) else v

/-- The codes of a polarisation have a correlation coefficient. -/
def quadKnown (x : IqSum) : Bool :=
  decide (0 < (x.n : Int) * x.ii - x.i * x.i) && decide (0 < (x.n : Int) * x.qq - x.q * x.q)

/-- The timing error of a slot in 50 fs, rounded down, at a symbol rate in MBd (R337): what correlates its samples
with their neighbours' interpolation, over the slope's power, in sample intervals of 8 / 9 of a symbol. -/
def skewDev (x : SlotSum) (rs : Nat) : Int := x.corr * (8 * 10 ^ 9) / ((x.slope * (450 * rs) : Nat) : Int)

end Sys2Proof.Machine
end

