-- ==== Sys2Proof/Machine/Tstat.lean ====
section
/-! DEFINITION. Traffic statistics (chapter 10): measurement windows, the converters' and TSTAT's
results, and the reports that wait for a signature. -/

namespace Sys2Proof.Machine

/-! ### Windows (R327, R329, R331, R384) -/

/-- Window `k` of a schedule. -/
def Sched.win (c : Sched) (k : Nat) : Win :=
  { start := c.start + k * c.per, fin := c.start + (k + 1) * c.per, begun := false }

/-- The first window of a schedule whose start is at or after `t` (R329). -/
def Sched.firstFrom (c : Sched) (t : Nat) : Option Win :=
  if c.en then some (c.win (if t ≤ c.start then 0 else (t - c.start + c.per - 1) / c.per)) else none

/-- The window of a schedule that holds `t`, or its first. -/
def Sched.holding (c : Sched) (t : Nat) : Option Win :=
  if c.en then some (c.win ((t - c.start) / c.per)) else none

/-- Whole ns at or after a device time in 1/36 ns. -/
def ceilNs (u : Nat) : Nat := (u + 35) / 36

/-- The schedule and the window that follow the end of window `w`: a commit that waits takes effect (R329); after a
step over its end to `jump`, the windows jumped over are left out (R331). -/
def afterWin (c : Sched) (pend : Option Sched) (w : Win) (jump : Option Nat) : Sched × Option Win :=
  match pend, jump with
  | some d, some u => (d, d.firstFrom (ceilNs u))
  | some d, none => (d, d.firstFrom w.fin)
  | none, some u => (c, c.holding (u / 36))
  | none, none => (c, if c.en then some { start := w.fin, fin := w.fin + c.per, begun := false } else none)

/-- What a step of device time from `old` to `new`, in 1/36 ns, does to a window, its STEPPED flag and the jump
over its end (R331, R384): in progress, it is ended by a step over its end and lengthened by a backward step,
and both set STEPPED.  A window that has not begun is left as it is, or out if the step jumps over it. -/
def stepWin (c : Sched) (w : Option Win) (st : Bool) (jump : Option Nat) (old new : Nat) :
    Option Win × Bool × Option Nat :=
  match w with
  | none => (none, st, none)
  | some w =>
    if w.begun ∨ 36 * w.start ≤ old then
      let w := { w with begun := true }
      if new < old then (some w, true, none)
      else if 36 * w.fin ≤ new then (some w, true, some new)
      else (some w, st, jump)
    else if 36 * w.fin ≤ new then (c.holding (new / 36), false, none)
    else (some w, false, none)

/-- The schedule that TSTAT[p]'s registers give. -/
def tstatSched (s : State) (p : Nat) : Sched :=
  { en := rdb s (Reg.TSTAT.WIN_CTL_EN p)
    start := rd s (Reg.TSTAT.WIN_START_HI_NS p) * 2 ^ 32 + rd s (Reg.TSTAT.WIN_START_LO_NS p)
    per := rd s (Reg.TSTAT.WIN_PER_PER_US p) * 1000 }

/-- Clear what a window keeps of its port. -/
def clearMarks (s : State) (p : Nat) : State :=
  let m := fun (c : CnvH) => { c with winSq := false, winPart := false, winDegr := false, stride := none }
  ((((s.onTstat p fun t => { t with sq := false, notrack := false, guard := false, fade := false, dark := false
                                    est := EstAcc.zero, back := false, jump := none }).onCnv
    (4 * p) m).onCnv (4 * p + 1) m).onCnv (4 * p + 2) m).onCnv (4 * p + 3) m

/-- A window of the port has ended in the present FAB cycle (R329). -/
def justClosed (s : State) (p : Nat) : Bool :=
  match (s.tstat p).closed with
  | none => false
  | some (c, _) => c == s.time.cycle

/-- The moment from which the first window of a new schedule may begin: now, or the end of the window that has
just ended, by its nominal end or by a step over it (R329, R331). -/
def takeFrom (s : State) (p : Nat) : Nat :=
  match (s.tstat p).closed with
  | some (c, f) => if c = s.time.cycle then f else ceilNs s.time.units
  | none => ceilNs s.time.units

/-- A commit of the window fields, or the opening of the gate (R329, R330): it waits for the end of a window in
progress, but not of one that has begun in this very FAB cycle. -/
def tstatCommit (s : State) (p : Nat) : State :=
  let c := tstatSched s p
  let t := s.tstat p
  if c = t.sched ∧ t.pend.isNone then s
  else if winOn s t.win && !justClosed s p then s.onTstat p fun t => { t with pend := some c }
  else
    let at0 := takeFrom s p
    markWindows (clearMarks (s.onTstat p fun t =>
      { t with sched := c, pend := none, win := c.firstFrom at0, stepped := false }) p) p

/-- While the page is gated no window is in progress (R330). -/
def tstatFollow (s : State) (p : Nat) : State :=
  if treatedGated s (Reg.TSTAT.page p) then
    s.onTstat p fun t => { t with sched := Sched.off, pend := none, win := none }
  else if blockRuns s (Reg.TSTAT.page p) then tstatCommit s p
  else s

/-- A step of device time, in 1/36 ns (R331). -/
def tstatStep (s : State) (p old new : Nat) : State :=
  s.onTstat p fun t =>
    let r := stepWin t.sched t.win t.stepped t.jump old new
    let on : Bool := match t.win with
      | none => false
      | some w => w.begun || decide (36 * w.start ≤ old)
    { t with win := r.1, stepped := r.2.1, jump := r.2.2, back := t.back || (on && decide (new < old)) }

/-! ### Reports (R338 to R341) -/

/-- The ring of reports: base and size in bytes. -/
def repBase (s : State) (p : Nat) : Nat :=
  rd s (Reg.TSTAT.REP_BASE_HI_ADDR p) * 2 ^ 32 + rd s (Reg.TSTAT.REP_BASE_LO_ADDR p) * 65536

def repSize (s : State) (p : Nat) : Nat := 384 * 2 ^ rd s (Reg.TSTAT.WIN_CTL_REP_LOG2 p)

/-- The committed ring fails R341. -/
def repRingBad (s : State) (p : Nat) : Bool :=
  repBase s p < 0x1000000000 || 0x1200000000 < repBase s p + repSize s p

/-- KEY_ID (R338); without a key the spec gives it no value (log entry 8). -/
def keyId (s : State) : List Byte × State :=
  if s.sec.key.isSome then
    ((sha384 ((wordsLE ((List.range 25).map (fun k => rd s (Reg.SEC.ID_PUB_DATA k)))).take 97)).take 8, s)
  else freeBytes s 8

/-- Bytes 32 + 48l to 79 + 48l of a report (R338). -/
def laneBytes (s : State) (n : Nat) : List Byte :=
  toLE 4 (rd s (Reg.CNV.NSAMP_LO_COUNT n)) ++ toLE 4 (rd s (Reg.CNV.NSAMP_HI_COUNT n))
    ++ toLE 4 (rd s (Reg.CNV.SUM_LO_SUM n)) ++ toLE 4 (rd s (Reg.CNV.SUM_HI_SUM n))
    ++ toLE 4 (rd s (Reg.CNV.SUMSQ_LO_SUMSQ n)) ++ toLE 4 (rd s (Reg.CNV.SUMSQ_HI_SUMSQ n))
    ++ toLE 4 (rd s (Reg.CNV.OR_LO_COUNT n)) ++ toLE 4 (rd s (Reg.CNV.OR_HI_COUNT n))
    ++ toLE 1 (rd s (Reg.CNV.MINMAX_MIN n)) ++ toLE 1 (rd s (Reg.CNV.MINMAX_MAX n))
    ++ toLE 1 (rd s (Reg.CNV.WIN_FLAGS_SQ n) + 2 * rd s (Reg.CNV.WIN_FLAGS_SAT n)
        + 4 * rd s (Reg.CNV.WIN_FLAGS_PARTIAL n) + 8 * rd s (Reg.CNV.WIN_FLAGS_DEGR n))
    ++ zeros 1 ++ toLE 4 (rd s (Reg.CNV.HIST_OR_COUNT n)) ++ zeros 8

/-- A register of the page as a word. -/
def regWord (s : State) (pg off : Nat) : Nat :=
  match rowAt pg off with
  | none => 0
  | some r => rawWord s pg off r.fields

/-- Bytes 0 to 287 of the report of a window with the given flags (R338). -/
def reportBytes (s : State) (p : Nat) (w : Win) (flags : Nat) : List Byte × State :=
  let k := keyId s
  (toLE 2 1 ++ toLE 1 p ++ toLE 1 (flags % 64 + 64 * b2n s.sec.key.isNone)
    ++ toLE 4 (rd s (Reg.TSTAT.WIN_SEQ_SEQ p)) ++ toLE 8 w.start ++ toLE 8 w.fin ++ k.1
    ++ (List.range 4).flatMap (fun l => laneBytes s (4 * p + l))
    ++ (List.range 16).flatMap (fun i => toLE 4 (regWord s (Reg.TSTAT.page p) (152 + 4 * i))), k.2)

/-- A report joins the queue: reports of one FAB cycle stand in port order (R339). -/
def insertReport (r : Report) : List Report → List Report
  | [] => [r]
  | a :: t => if a.cycle = r.cycle ∧ r.port < a.port then r :: a :: t else a :: insertReport r t

/-- A window's report is queued for signing (R338, R339): not with a ring that fails R341, and not when the
queue is full. -/
def queueReport (s : State) (p : Nat) (w : Win) (flags : Nat) : State :=
  if repRingBad s p then raise s (Reg.TSTAT.evREPORT_ERR p)
  else if 32 ≤ s.sec.reports.length then
    raise (bump s (Reg.TSTAT.REP_SKIP_COUNT p) 1) (Reg.TSTAT.evREPORT_SKIP p)
  else
    let b := reportBytes s p w flags
    signNext (b.2.onSec fun k => { k with reports := insertReport ⟨p, b.1, s.time.cycle⟩ k.reports })

/-- A report of 384 bytes is written to its ring (R341). -/
def reportWrite (s : State) (p : Nat) (b : List Byte) : State :=
  if repRingBad s p then raise s (Reg.TSTAT.evREPORT_ERR p)
  else
    let n := rd s (Reg.TSTAT.REP_WR_COUNT p)
    let w := dmaWriteLines 14 6 (repBase s p + 384 * (n % 2 ^ rd s (Reg.TSTAT.WIN_CTL_REP_LOG2 p))) b s
    raiseIf w.2 (inc w.1 (Reg.TSTAT.REP_WR_COUNT p) 1) (Reg.TSTAT.evREPORT_ERR p)

/-! ### Results -/

/-- WIN_FLAGS of the window in progress (R331, R335, R336). -/
def winFlags (s : State) (p : Nat) : Nat :=
  let t := s.tstat p
  b2n t.sq + 2 * b2n t.notrack + 4 * b2n t.guard + 8 * b2n t.stepped + 16 * b2n t.fade
    + 32 * rd s Reg.TIME.STAT_TRUST

/-- A converter's counts of the ended window: the phase of its histogram in the window is a free value (R253). -/
def cnvCount (s : State) (n : Nat) (w : Win) (xs : List Samp) : State :=
  cnvWinDone (free s).2 n (laneStats s n w (free s).1 xs)

/-- TSTAT_WINDOW_END (R328, R329, R331, R332 steps 1 and 2). -/
def tstatWindowEnd (p : Fin 16) (xi xq yi yq : List Samp) (s : State) : State :=
  match (s.tstat p).win with
  | none => s
  | some w =>
    if blockRuns s (Reg.TSTAT.page p) = false then s
    else
      let s := advNs s w.fin
      if s.time.units < 36 * w.fin then s
      else
        let fl := winFlags s p
        let slots := [slotSums s (4 * p) w xi, slotSums s (4 * p + 1) w xq, slotSums s (4 * p + 2) w yi,
          slotSums s (4 * p + 3) w yq]
        let iqX := iqSums s (4 * p) w xi xq
        let iqY := iqSums s (4 * p + 2) w yi yq
        let s := cnvCount (cnvCount (cnvCount (cnvCount s (4 * p) w xi) (4 * p + 1) w xq) (4 * p + 2) w yi)
          (4 * p + 3) w yq
        let c := s.time.cycle
        let s := s.onTstat p fun t =>
          let n := afterWin t.sched t.pend w t.jump
          { t with sched := n.1, pend := none, win := n.2, stepped := false
                   closed := some (c, match t.jump with | some u => ceilNs u | none => w.fin)
                   ended := t.ended ++ [⟨w, t.back, fl, slots, iqX, iqY, t.dark, t.est⟩] }
        markWindows (clearMarks s p) p

def execTstatWindowEnd (p : Fin 16) (xi xq yi yq : List Samp) (s : State) :
    Host.Outcome State Fault Refusal := .next (tstatWindowEnd p xi xq yi yq s)

/-- In-range samples of a lane. -/
def laneN (l : List SlotSum) : Nat := l.foldl (fun a x => a + x.n) 0

/-- EST_VALID (R333). -/
def estValid (d : Ended) : Nat :=
  let a : Bool := decide (4096 ≤ d.est.pilots)
  let b : Bool := decide (512 ≤ d.est.clear)
  let c : Bool := d.slots.all (fun x => decide (2 ^ 20 ≤ laneN x)) && !d.dark
  b2n a + 30 * b2n b + 32 * b2n (decide (1 ≤ d.est.track)) + 64 * b2n (decide (1 ≤ d.est.pilots)) + 128 * b2n a
    + 768 * b2n c

/-- CD_COMP: the mean of CD_NOW over the window's blocks but those made while the guard held or with a HOLE, to the
nearest ps/nm (R333). -/
def cdComp (d : Ended) : Int := (2 * d.est.cdSum + (d.est.cdN : Int)) / (2 * (d.est.cdN : Int))

/-- An estimate as a field of `w` bits, saturated, or a free value where the spec's formula has none. -/
def estField (s : State) (w : Nat) (signed known : Bool) (v : Int) : Nat × State :=
  if known then
    ((if signed then unsext w (clampI (-(2 ^ (w - 1))) (2 ^ (w - 1) - 1) v) else (clampI 0 (2 ^ w - 1) v).toNat), s)
  else free s

/-- Twice the power of a pilot of a polarisation at the scale of R260 times the pilots, for both (R270). -/
def pilotPower (d : Ended) : Nat := d.est.pilots * 4 * 724 ^ 2

/-- Pilot SNR in 0.01 dB: the known pilots' power over that of the errors (R333). -/
def snrOf (d : Ended) : Int := logTen 1000 (pilotPower d) d.est.dist

/-- BER and Q of the constellation in use and the shaping in effect (R333). -/
def windowBer (s : State) (p : Nat) (d : Ended) : Nat :=
  berOf (bits (rd s (Reg.EQ.CFG_NOW_CFG p)) 16 3) [rd s (Reg.SOFT.SHAPE_A_W0 p), rd s (Reg.SOFT.SHAPE_A_W1 p),
    rd s (Reg.SOFT.SHAPE_B_W2 p), rd s (Reg.SOFT.SHAPE_B_W3 p)] (pilotPower d) d.est.dist

/-- The estimates by pilots; one whose bit is 0 holds 0 (R333). -/
def estPilots (s : State) (p : Nat) (d : Ended) (e : Estimates) : State :=
  let a := bit (estValid d) 0
  let noise : Bool := d.est.dist != 0
  let ber := windowBer s p d
  let snr := if a then estField s 16 true noise (snrOf d) else (0, s)
  let osnr := if a then estField snr.2 16 false noise
      (snrOf d + logTen 1000 (max 1 (rd s (Reg.CNV.RATE_NOW_RS_MBD (4 * p)))) 12500 + e.ownNoise) else (0, snr.2)
  let nlog := if a then estField osnr.2 16 false (noise && ber != 0) (logTen 1000 (2 ^ 200) ber) else (0, osnr.2)
  let q := if a then estField nlog.2 16 true (noise && ber != 0) (qOf ber) else (0, nlog.2)
  let k := fun (n : Nat) => if bit (estValid d) 6 then satN 32 n else 0
  wrAll q.2 [(Reg.TSTAT.OSNR_OSNR p, osnr.1), (Reg.TSTAT.OSNR_SNR p, snr.1), (Reg.TSTAT.BER_NLOG p, nlog.1),
    (Reg.TSTAT.BER_Q p, q.1), (Reg.TSTAT.PERR_X_COUNT p, k d.est.errX), (Reg.TSTAT.PERR_Y_COUNT p, k d.est.errY),
    (Reg.TSTAT.PCNT_COUNT p, k d.est.pilots)]

/-- The estimates by the converters' codes. -/
def estCodes (s : State) (p : Nat) (d : Ended) : State :=
  let a := bit (estValid d) 8
  let amp := fun (x : IqSum) => logTen 1000 x.ii x.qq
  let known := fun (x : IqSum) => x.ii != 0 && x.qq != 0
  let qx := if a then estField s 16 true (quadKnown d.iqX) (quadOf d.iqX) else (0, s)
  let qy := if a then estField qx.2 16 true (quadKnown d.iqY) (quadOf d.iqY) else (0, qx.2)
  let ax := if a then estField qy.2 16 true (known d.iqX) (amp d.iqX) else (0, qy.2)
  let ay := if a then estField ax.2 16 true (known d.iqY) (amp d.iqY) else (0, ax.2)
  wrAll ay.2 [(Reg.TSTAT.QUAD_X p, qx.1), (Reg.TSTAT.QUAD_Y p, qy.1), (Reg.TSTAT.IQ_AMP_X p, ax.1),
    (Reg.TSTAT.IQ_AMP_Y p, ay.1)]

/-- The estimates by dispersion blocks. -/
def estBlocks (s : State) (p : Nat) (d : Ended) (e : Estimates) : State :=
  let v := estValid d
  let k := fun (i n : Nat) => if bit v i then n else 0
  let fMean := clampI (-32768) 32767 (roundDiv d.est.fSum (1000 * d.est.track))
  let fSpan := satN 16 (roundDiv (d.est.fMax - d.est.fMin) 1000).toNat
  wrAll s [(Reg.TSTAT.EST_VALID_VALID p, v),
    (Reg.TSTAT.CD_COMP_PSNM p, k 1 (unsext 22 (cdComp d))), (Reg.TSTAT.CD_RES_PSNM p, k 1 e.cdRes.toNat),
    (Reg.TSTAT.DGD_PDL_DGD p, k 2 (satN 12 e.dgd)), (Reg.TSTAT.DGD_PDL_PDL p, k 3 (satN 8 e.pdl)),
    (Reg.TSTAT.SOP_MAX_KRADS p, k 4 (satN 16 e.sopMax)), (Reg.TSTAT.SOP_MEAN_KRADS p, k 4 (satN 16 e.sopMean)),
    (Reg.TSTAT.FOFS_MEAN_MHZ p, k 5 (unsext 16 fMean)), (Reg.TSTAT.FOFS_SPAN_MHZ p, k 5 fSpan)]

/-- The estimates of a window (R333). -/
def estWrite (s : State) (p : Nat) (d : Ended) (e : Estimates) : State :=
  estCodes (estPilots (estBlocks s p d e) p d e) p d

/-- OFS_DEV: the slot's mean code minus the lane's, in 1/16 LSB, rounded down (R337). -/
def ofsDev (x : SlotSum) (sum : Int) (n : Nat) : Int :=
  16 * (x.sum * n - sum * x.n) / ((x.n * n : Nat) : Int)

/-- GAIN_DEV: the ratio of the slot's RMS to the lane's minus 1, in 2^-10, rounded down (R337): the largest `g`
up to 127 with ((1,024 + g) / 1,024)^2 at most the ratio of the mean squares, and -127 if there is none. -/
def gainDev (x : SlotSum) (sumsq n : Nat) : Int :=
  let k : Nat := (List.range 255).foldl (fun a g =>
    if (1024 - 127 + g) ^ 2 * (sumsq * x.n) ≤ 1024 ^ 2 * (x.sumsq * n) then g else a) 0
  (k : Int) - 127

/-- The sums of a lane. -/
def laneSum (l : List SlotSum) : SlotSum :=
  l.foldl (fun a x => ⟨a.n + x.n, a.sum + x.sum, a.sumsq + x.sumsq, a.corr + x.corr, a.slope + x.slope⟩) SlotSum.zero

/-- A figure in 8 bits, saturated at ±127 (R337). -/
def dev8 (x : Int) : Nat := unsext 8 (clampI (-127) 127 x)

/-- A slot's figure, or a free value where the spec's ratio has none. -/
def devField (s : State) (known : Bool) (v : Int) : Nat × State := if known then (dev8 v, s) else free s

/-- One slot's figures (R337). -/
def slotWrite (s : State) (p l i : Nat) (x t : SlotSum) (sq : Bool) : State :=
  let rs := rd s (Reg.CNV.RATE_NOW_RS_MBD (4 * p))
  let o := devField s (x.n != 0) (ofsDev x t.sum t.n)
  let g := devField o.2 (x.n != 0 && t.sumsq != 0) (gainDev x t.sumsq t.n)
  let k := devField g.2 (x.slope != 0 && rs != 0) (skewDev x rs)
  wrAll k.2 [(Reg.TSTAT.SLICE_OFS_DEV p l i, o.1), (Reg.TSTAT.SLICE_GAIN_DEV p l i, g.1),
    (Reg.TSTAT.SLICE_SKEW_DEV p l i, k.1), (Reg.TSTAT.SLICE_VALID p l i, b2n (decide (65536 ≤ x.n) && !sq))]

/-- The figures of every slot, lane by lane. -/
def slotsWrite (s : State) (p : Nat) (d : Ended) : State :=
  (List.range 256).foldl (fun s i =>
    let l := d.slots.getD (i / 64) []
    slotWrite s p (i / 64) (i % 64) (l.getD (i % 64) SlotSum.zero) (laneSum l) (bit d.flags 0)) s

/-- TSTAT_WIN_DONE (R332 steps 3 and 4, R333, R337, R338). -/
def tstatWinDone (p : Fin 16) (est : Estimates) (s : State) : State :=
  match (s.tstat p).ended with
  | [] => s
  | d :: rest =>
    if blockRuns s (Reg.TSTAT.page p) = false then s
    else
      let fl := d.flags
      let w := d.win
      let s := s.onTstat p fun t => { t with ended := rest }
      let s := wrAll s [(Reg.TSTAT.WIN_FLAGS_SQ p, bits fl 0 1), (Reg.TSTAT.WIN_FLAGS_NOTRACK p, bits fl 1 1),
        (Reg.TSTAT.WIN_FLAGS_GUARD p, bits fl 2 1), (Reg.TSTAT.WIN_FLAGS_STEPPED p, bits fl 3 1),
        (Reg.TSTAT.WIN_FLAGS_FADE p, bits fl 4 1), (Reg.TSTAT.WIN_FLAGS_TRUST p, bits fl 5 1),
        (Reg.TSTAT.LAST_START_LO_NS p, w.start), (Reg.TSTAT.LAST_START_HI_NS p, w.start / 2 ^ 32),
        (Reg.TSTAT.LAST_END_LO_NS p, w.fin), (Reg.TSTAT.LAST_END_HI_NS p, w.fin / 2 ^ 32)]
      let s := slotsWrite (estWrite s p d est) p d
      let s := raise (inc s (Reg.TSTAT.WIN_SEQ_SEQ p) 1) (Reg.TSTAT.evWIN_DONE p)
      let s := raiseIf (bit fl 3) s (Reg.TSTAT.evWIN_STEPPED p)
      if rdb s (Reg.TSTAT.WIN_CTL_REP_EN p) then queueReport s p w fl else s

def execTstatWinDone (p : Fin 16) (est : Estimates) (s : State) :
    Host.Outcome State Fault Refusal := .next (tstatWinDone p est s)

end Sys2Proof.Machine
end

