-- ==== Sys2Proof/Machine/Rings.lean ====
section
/-! DEFINITION. The two result paths of the precision monitor (chapter 11): rings of class M results, and
accumulators of class T results. -/

namespace Sys2Proof.Machine

/-! ### Rings (R379 to R382) -/

/-- BASE of a ring, and its records. -/
def ringBase (s : State) (r : Nat) : Nat :=
  rd s (Reg.RING.BASE_HI_ADDR r) * 2 ^ 32 + rd s (Reg.RING.BASE_LO_ADDR r) * 65536

def ringSize (s : State) (r : Nat) : Nat := 2 ^ rd s (Reg.RING.RCTL_SIZE_LOG2 r)

/-- A ring record (R379). -/
def ringRecord (x : Res) : List Nat :=
  [x.ns % 2 ^ 32, x.ns / 2 ^ 32,
   x.result % 2 ^ 26 + 2 ^ 26 * b2n x.orf + 2 ^ 27 * b2n x.late + 2 ^ 28 * b2n x.preempt
     + 2 ^ 29 * b2n x.cover + 2 ^ 30 * (x.chk % 4),
   x.entry % 65536 + 2 ^ 16 * x.input + 2 ^ 25 * x.conv + 2 ^ 31 * (x.trust % 2)]

/-- RING_RECORD_WRITE: the oldest result on its way (R380 to R382); a ring with EN 0 takes none. -/
def ringRecordWrite (bads : Fin 5) (s : State) : State :=
  match s.ringQ with
  | [] => s
  | x :: rest =>
    if blockRuns s Reg.RING.page = false then s
    else
      let s := { s with ringQ := rest }
      let r := x.dest
      let w := rd s (Reg.RING.WR_COUNT r)
      if rdb s (Reg.RING.RCTL_EN r) = false then s
      else if rdb s (Reg.RING.RSTAT_BAD r) then bump s (Reg.RING.DROP_COUNT r) 1
      else if rdb s (Reg.RING.RCTL_MODE r) = true
          ∧ (w + 2 ^ 32 - rd s (Reg.RING.RD_COUNT r)) % 2 ^ 32 = ringSize s r then
        raise (wrb (bump s (Reg.RING.DROP_COUNT r) 1) (Reg.RING.RSTAT_FULL r) true) (Reg.RING.evRING_FULL r)
      else
        let d := dmaWrite s 12 (ringBase s r + 16 * (w % ringSize s r)) (wordsLE (ringRecord x)) bads
        let s := inc d.1 (Reg.RING.WR_COUNT r) 1
        if d.2.status.isErr then raise s (Reg.RING.evRING_ERR r) else wrb s (Reg.RING.RSTAT_FULL r) false

def execRingRecordWrite (bads : Fin 5) (s : State) : Host.Outcome State Fault Refusal :=
  .next (ringRecordWrite bads s)

/-- What a write of RD[r] does (R381). -/
def ringRdEffect (s : State) (r v : Nat) : State :=
  let w := rd s (Reg.RING.WR_COUNT r)
  wr s (Reg.RING.RD_COUNT r) (if ringSize s r < (w + 2 ^ 32 - v % 2 ^ 32) % 2 ^ 32 then w else v)

/-- A commit of the page, ring by ring (R382). -/
def ringCommit1 (old : Fld → Nat) (s : State) (r : Nat) : State :=
  let same := old (Reg.RING.BASE_LO_ADDR r) = rd s (Reg.RING.BASE_LO_ADDR r)
    ∧ old (Reg.RING.BASE_HI_ADDR r) = rd s (Reg.RING.BASE_HI_ADDR r)
    ∧ old (Reg.RING.RCTL_SIZE_LOG2 r) = rd s (Reg.RING.RCTL_SIZE_LOG2 r)
  let s := if same then s else wr (wr s (Reg.RING.WR_COUNT r) 0) (Reg.RING.RD_COUNT r) 0
  let bad : Bool := ringBase s r < 0x1000000000 || 0x1200000000 < ringBase s r + 16 * ringSize s r
  raiseIf bad (wrb s (Reg.RING.RSTAT_BAD r) bad) (Reg.RING.evRING_ERR r)

def ringCommit (s : State) (old : Fld → Nat) : State := (List.range 16).foldl (ringCommit1 old) s

/-! ### Accumulators (R384 to R386) -/

/-- The schedule that ACCU's registers give. -/
def accuSched (s : State) : Sched :=
  { en := rdb s Reg.ACCU.WIN_CTL_EN
    start := rd s Reg.ACCU.WIN_START_HI_NS * 2 ^ 32 + rd s Reg.ACCU.WIN_START_LO_NS
    per := rd s Reg.ACCU.WIN_PER_PER_US * 1000 }

/-- Sums of nothing in every accumulator. -/
def accuClear (s : State) : State :=
  s.onAccu fun a => { a with recs := Vector.replicate 64 AccuRec.zero }

/-- A commit of the window fields, or the opening of the gate (R384). -/
def accuCommit (s : State) : State :=
  let c := accuSched s
  if c = s.accu.sched ∧ s.accu.pend.isNone then s
  else if winOn s s.accu.win then s.onAccu fun a => { a with pend := some c }
  else
    let at0 := ceilNs s.time.units
    accuClear (s.onAccu fun a =>
      { a with sched := c, pend := none, win := c.firstFrom at0, stepped := false, jump := none, backAt := none })

/-- A step of device time, in 1/36 ns (R384). -/
def accuStep (s : State) (old new : Nat) : State :=
  s.onAccu fun a =>
    let r := stepWin a.sched a.win a.stepped a.jump old new
    let back : Bool := decide (new < old) && (match a.win with | some w => w.begun || decide (36 * w.start ≤ old) | none => false)
    { a with win := r.1, stepped := r.2.1, jump := r.2.2, backAt := if back then some s.time.tick else a.backAt }

/-- One result added to an accumulator's sums (R385). -/
def accuRecAdd (q : AccuRec) (x : Res) : AccuRec :=
  { n := q.n + 1, sum := q.sum + x.result, sumsq := q.sumsq + x.result * x.result
    mn := if q.n = 0 then x.result else min q.mn x.result
    mx := if q.n = 0 then x.result else max q.mx x.result
    orN := q.orN + b2n x.orf, cover := q.cover || x.cover, late := q.late || x.late }

/-- A result belongs to the window in progress `w`: its stamp does, or its last sample has started after a backward step
lengthened the window, which then began earlier in device time (R384). -/
def accuHere (s : State) (w : Win) (x : Res) : Bool :=
  decide (w.start ≤ x.ns) || (match s.accu.backAt with | none => false | some t => decide (t + 100 ≤ x.tick))

/-- A class T result goes to accumulator `a` in the window that holds its stamp (R384, R385): the window in
progress, or one that has ended and is not out yet; a block that does not run takes none (R83, R92). -/
def accuAdd (s : State) (a : Nat) (x : Res) : State :=
  let add := fun (v : Vector AccuRec 64) => vset v a (accuRecAdd (vget v AccuRec.zero a) x)
  if blockRuns s Reg.ACCU.page = false then s
  else
  let here : Bool := winOn s s.accu.win && (match s.accu.win with
    | none => false
    | some w => accuHere s w x)
  if here then s.onAccu fun u => { u with recs := add u.recs }
  else
    s.onAccu fun u => { u with ended := u.ended.map fun e =>
      if e.1.start ≤ x.ns ∧ x.ns < e.1.fin then (e.1, e.2.1, add e.2.2) else e }

/-- ACCU_WINDOW_END (R384). -/
def accuWindowEnd (s : State) : State :=
  match s.accu.win with
  | none => s
  | some w =>
    if blockRuns s Reg.ACCU.page = false then s
    else
      let s := advNs s w.fin
      if s.time.units < 36 * w.fin then s
      else
        let fl := b2n s.accu.stepped + 2 * rd s Reg.TIME.STAT_TRUST
        accuClear (s.onAccu fun a =>
          let n := afterWin a.sched a.pend w a.jump
          { a with sched := n.1, pend := none, win := n.2, stepped := false, jump := none, backAt := none
                   ended := a.ended ++ [(w, fl, a.recs)] })

def execAccuWindowEnd (s : State) : Host.Outcome State Fault Refusal := .next (accuWindowEnd s)

/-- The registers of one accumulator (R385, R397). -/
def accuWrite (s : State) (a : Nat) (q : AccuRec) : State :=
  let sparse : Bool := decide (q.n < 16)
  let k := fun (v : Nat) => if sparse then 0 else v
  let sum := k (min q.sum (2 ^ 64 - 1))
  let sq := k (min q.sumsq (2 ^ 64 - 1))
  wrAll s [(Reg.ACCU.N_COUNT a, satN 32 q.n), (Reg.ACCU.SUM_LO_SUM a, sum), (Reg.ACCU.SUM_HI_SUM a, sum / 2 ^ 32),
    (Reg.ACCU.SUMSQ_LO_SUMSQ a, sq), (Reg.ACCU.SUMSQ_HI_SUMSQ a, sq / 2 ^ 32), (Reg.ACCU.MIN_VALUE a, k q.mn),
    (Reg.ACCU.MAX_VALUE a, k q.mx), (Reg.ACCU.FLAGS_OR a, satN 16 q.orN), (Reg.ACCU.FLAGS_SPARSE a, b2n sparse),
    (Reg.ACCU.FLAGS_SAT a, b2n (decide (2 ^ 64 ≤ q.sum) || decide (2 ^ 64 ≤ q.sumsq))),
    (Reg.ACCU.FLAGS_COVER a, b2n q.cover), (Reg.ACCU.FLAGS_LATE a, b2n q.late)]

/-- ACCU_WIN_DONE (R386). -/
def accuWinDone (s : State) : State :=
  match s.accu.ended with
  | [] => s
  | (w, fl, v) :: rest =>
    if blockRuns s Reg.ACCU.page = false then s
    else
    let s := s.onAccu fun a => { a with ended := rest }
    let s := (List.range 64).foldl (fun s a => accuWrite s a (vget v AccuRec.zero a)) s
    let s := wrAll s [(Reg.ACCU.WIN_FLAGS_STEPPED, bits fl 0 1), (Reg.ACCU.WIN_FLAGS_TRUST, bits fl 1 1),
      (Reg.ACCU.LAST_END_LO_NS, w.fin), (Reg.ACCU.LAST_END_HI_NS, w.fin / 2 ^ 32)]
    let s := raise (inc s Reg.ACCU.WIN_SEQ_SEQ 1) Reg.ACCU.evWIN_DONE
    raiseIf ((List.range 64).any (fun a => rdb s (Reg.ACCU.FLAGS_SAT a))) s Reg.ACCU.evACCU_SAT

def execAccuWinDone (s : State) : Host.Outcome State Fault Refusal := .next (accuWinDone s)

end Sys2Proof.Machine
end

