-- ==== Sys2Proof/Machine/Monitor.lean ====
section
/-! DEFINITION. The precision monitor (chapter 11): converters and check pairs, the sequencer, timers and
heater drives. -/

namespace Sys2Proof.Machine

/-! ### Entries (R351, R352) -/

/-- The fields of an entry. -/
def Work.pcv (w : Work) : Nat := bits w.lo 0 5
def Work.loc (w : Work) : Nat := bits w.lo 5 5
def Work.gain (w : Work) : Nat := bits w.lo 10 3
def Work.avg (w : Work) : Nat := bits w.lo 13 3
def Work.shift (w : Work) : Nat := bits w.lo 16 4
def Work.clsT (w : Work) : Bool := bit w.lo 20
def Work.wantChk (w : Work) : Bool := bit w.lo 21
def Work.each (w : Work) : Bool := bit w.lo 22
def Work.last (w : Work) : Bool := bit w.lo 23
def Work.dest (w : Work) : Nat := bits w.lo 24 6
def Work.delay (w : Work) : Nat := bits w.hi 0 16
def Work.trig (w : Work) : Nat := bits w.hi 16 8

/-- Input number of an entry (R348). -/
def Work.input (w : Work) : Nat := 32 * (w.pcv / 2) + w.loc

/-- A trigger code that R351 lists. -/
def trigListed (t : Nat) : Bool := t ≤ 0x10 || (0x40 ≤ t && t ≤ 0x7F) || (0x80 ≤ t && t ≤ 0xBF)

/-- A bad entry (R352); an injected one ignores TRIG (R367). -/
def Work.bad (w : Work) (inj : Bool) : Bool :=
  23 < w.pcv || 4 < w.gain || (!w.clsT && 16 ≤ w.dest && w.dest ≤ 62) || (!inj && !trigListed w.trig)

/-- Input `n` has class T (R349): a signal tap, or marked in OTP record MON_CLASS. -/
def inputT (s : State) (n : Nat) : Bool :=
  (n / 32 < 8 && (n % 32 == 8 || n % 32 == 19)) || bit (recWord s 6 (n / 32) 0) (n % 32)

/-- An entry with nothing taken, awaited from TICK `t`. -/
def Work.fresh (lo hi idx t : Nat) : Work :=
  { lo := lo, hi := hi, idx := idx, taken := 0, sum := 0, psum := 0, orf := false, late := false
    preempt := false, cover := false, chk := false, trigAt := none, more := [], since := t }

/-! ### Converters and pairs (R345, R370, R375, R376) -/

/-- STATE of a converter: 0 OFF, 1 CAL, 2 READY, 3 FAILED. -/
def pst (s : State) (c : Nat) : Nat := rd s (Reg.PCV.STAT_STATE c)

/-- The partner of a converter. -/
def mate (c : Nat) : Nat := if c % 2 = 0 then c + 1 else c - 1

/-- The converter that work naming `c` runs on now (R376); none while it waits or is dead. -/
def serve (s : State) (c : Nat) : Option Nat :=
  if pst s c = 2 then some c else if pst s (mate c) = 2 then some (mate c) else none

/-- Work naming `c` cannot be converted: `c` is FAILED, OFF or calibrating and its partner is FAILED or OFF
(R376); while `c` calibrates beside a FAILED partner it waits instead (R370). -/
def pairDead (s : State) (c : Nat) : Bool :=
  pst s c != 2 && (pst s (mate c) == 0 || (pst s (mate c) == 3 && pst s c != 1))

/-- Set the entry in progress, and the conversion, of a converter. -/
def setWork (s : State) (c : Nat) (w : Option Work) : State := s.onPcv c fun p => { p with work := w }

def setConv (s : State) (c : Nat) (k : Option Conv) : State := s.onPcv c fun p => { p with conv := k }

/-- A READY converter begins to cover its failed partner (R375). -/
def coverCheck (s : State) (c : Nat) : State :=
  if pst s c = 2 ∧ pst s (mate c) = 3 ∧ rdb s (Reg.PCV.STAT_COVERING c) = false then
    raise (wrb s (Reg.PCV.STAT_COVERING c) true) (Reg.PCV.evTAKEOVER c)
  else s

/-- An entry that cannot be converted is counted (R376). -/
def entryDead (s : State) : State := raise (bump s Reg.SEQ.ERR_CNT_DEAD 1) Reg.SEQ.evENTRY_DEAD

/-- An entry that starts again on the partner (R377). -/
def Work.again (w : Work) (t : Nat) : Work :=
  { w with taken := 0, sum := 0, psum := 0, orf := false, chk := false, cover := true, since := t
           more := [], trigAt := if w.trig = 0 then some t else none }

/-! ### The sequencer (R354, R355, R360) -/

/-- The sequencer stops; a pass that EN at 0 cuts short counts with its late entries (R358). -/
def seqStop (s : State) : State :=
  wrb (s.onSeq fun q => { q with cur := none, lateLast := q.lateLast || q.late, late := false }) Reg.SEQ.STAT_RUN false

/-- A pass begins at START (R354, R360). -/
def passBegin (s : State) : State :=
  let st := rd s Reg.SEQ.CTL_START
  let md := rdb s Reg.SEQ.CTL_MODE
  wrb (s.onSeq fun q => { q with cur := none, pos := st, visited := 0, single := md }) Reg.SEQ.STAT_RUN true

/-- A pass ends (R354): the next begins in the next SLO cycle, or a single pass stops the sequencer. -/
def passEnd (s : State) : State :=
  let s := raise (inc s Reg.SEQ.PASS_CNT_COUNT 1) Reg.SEQ.evPASS_DONE
  let s := s.onSeq fun q => { q with lateLast := q.late, late := false }
  if s.seq.single then raise (seqStop s) Reg.SEQ.evSEQ_STOP
  else if rdb s Reg.SEQ.CTL_EN = false then seqStop s
  else passBegin (advTick s (s.time.tick + 1))

/-- The entry reached leaves the sequencer, which moves on (R354, R355, R360). -/
def seqNext (s : State) (w : Work) : State :=
  let s := wrb (s.onSeq fun q => { q with cur := none }) Reg.SEQ.STAT_WAIT_TRIG false
  if w.last ∨ 65536 ≤ s.seq.visited then passEnd s
  else if rdb s Reg.SEQ.CTL_EN = false then seqStop s
  else s.onSeq fun q => { q with pos := (q.pos + 1) % 65536 }

/-- A word of the sequencer table. -/
def seqtWord (s : State) (i : Nat) : Nat := Store.read 0 s.mems.seqt i

/-- An event of source `code` has come in this very cycle (R356, R361, R363). -/
def eventNow (s : State) (code : Nat) : Bool :=
  let t := s.time.tick
  if 1 ≤ code ∧ code ≤ 16 then vget s.seq.timerAt none (code - 1) == some t
  else if 0x40 ≤ code ∧ code ≤ 0x7F then
    let p := s.pwm (code - 0x40)
    p.start == some t && decide (0 < p.on)
  else if 0x80 ≤ code ∧ code ≤ 0xBF then
    let p := s.pwm (code - 0x80)
    !p.high && decide (0 < p.on) && decide (p.on < p.per) && p.start.map (· + p.on) == some t
  else false

/-- SEQ_ENTRY_CURRENT (R352, R355, R356, R376). -/
def seqEntryCurrent (s : State) : State :=
  if blockRuns s Reg.SEQ.page = false ∨ rdb s Reg.SEQ.STAT_RUN = false ∨ s.seq.cur.isSome then s
  else
    let i := s.seq.pos
    let w := Work.fresh (seqtWord s (2 * i)) (seqtWord s (2 * i + 1)) i s.time.tick
    let s := wr (s.onSeq fun q => { q with visited := q.visited + 1 }) Reg.SEQ.STAT_CUR i
    if bit w.lo 30 then seqNext (advTick s (s.time.tick + 1)) w
    else if w.bad false then
      let s := raise (bump s Reg.SEQ.ERR_CNT_BAD 1) Reg.SEQ.evENTRY_BAD
      seqNext (advTick s (s.time.tick + 1)) w
    else if pairDead s w.pcv then seqNext (entryDead s) w
    else
      let w := { w with trigAt := if w.trig = 0 || eventNow s w.trig then some (w.since + w.delay) else none }
      wrb (s.onSeq fun q => { q with cur := some w }) Reg.SEQ.STAT_WAIT_TRIG w.trigAt.isNone

def execSeqEntryCurrent (s : State) : Host.Outcome State Fault Refusal := .next (seqEntryCurrent s)

/-- A commit of the page (R360). -/
def seqCommit (s : State) (old : Fld → Nat) : State :=
  let en := rdb s Reg.SEQ.CTL_EN
  if en = true ∧ old Reg.SEQ.CTL_EN = 0 then passBegin (wrb s Reg.SEQ.STAT_WAIT_TRIG false)
  else if en = false ∧ s.seq.cur.isNone then seqStop s
  else s

/-! ### The end of an injected conversion (R368) -/

/-- An injected conversion ends without a result. -/
def injNone (s : State) (code : Nat) : State :=
  let s := s.onSeq fun q => { q with inj := none, injAt := none }
  raise (wrAll s [(Reg.SEQ.INJ_RES_RESULT, 0), (Reg.SEQ.INJ_RES_OR, 0), (Reg.SEQ.INJ_RES_COVER, 0),
    (Reg.SEQ.INJ_RES_CLASS_T, 0), (Reg.SEQ.INJ_RES_CHK, 0), (Reg.SEQ.STAT_INJ_END, code),
    (Reg.SEQ.STAT_INJ_BUSY, 0)]) Reg.SEQ.evINJ_DONE

/-- The class of a result (R350): class T goes to its accumulator, unless its entry has CLASS 0, which is
counted; answers the state and whether the result is class T. -/
def routeT (s : State) (w : Work) (x : Res) : State × Bool :=
  if w.clsT then (accuAdd s w.dest x, true)
  else if inputT s w.input then (raise (bump s Reg.SEQ.ERR_CNT_CLASS 1) Reg.SEQ.evCLASS_FORCE, true)
  else (s, false)

/-- An injected conversion ends with a result. -/
def injResult (s : State) (w : Work) (x : Res) : State :=
  let r := routeT s w x
  let s := r.1.onSeq fun q => { q with inj := none, injAt := none }
  raise (wrAll s [(Reg.SEQ.INJ_RES_RESULT, if r.2 then 0 else x.result), (Reg.SEQ.INJ_RES_OR, if r.2 then 0 else b2n x.orf),
    (Reg.SEQ.INJ_RES_COVER, b2n x.cover), (Reg.SEQ.INJ_RES_CLASS_T, b2n r.2), (Reg.SEQ.INJ_RES_CHK, x.chk),
    (Reg.SEQ.INJ_TS_LO_NS, x.ns), (Reg.SEQ.INJ_TS_HI_NS, x.ns / 2 ^ 32),
    (Reg.SEQ.STAT_INJ_END, 1), (Reg.SEQ.STAT_INJ_BUSY, 0)]) Reg.SEQ.evINJ_DONE

/-- What a write of 1 to INJ_CMD.GO does (R367, R368). -/
def injGoEffect (s : State) : State :=
  if rdb s Reg.SEQ.STAT_INJ_BUSY then
    raise (bump s Reg.SEQ.ERR_CNT_INJREF 1) Reg.SEQ.evINJ_REFUSED
  else
    let w := Work.fresh (rd s Reg.SEQ.INJ_LO_ENTRY) (rd s Reg.SEQ.INJ_HI_ENTRY) 0 s.time.tick
    let s := wrb (s.onSeq fun q => { q with inj := some w }) Reg.SEQ.STAT_INJ_BUSY true
    if w.bad true then injNone s 3 else if pairDead s w.pcv then injNone s 2 else s

/-! ### Loss of a converter (R375 to R377) -/

/-- A conversion of the injected entry runs on `c`. -/
def injRuns (s : State) (c : Nat) : Bool := match (s.pcv c).conv with | some k => k.kind == .inj | none => false

/-- The injected entry occupies `c`, by its own conversion or as the helper of its check (R367, R372). -/
def injOn (s : State) (c : Nat) : Bool :=
  match (s.pcv c).conv with
  | some k => k.kind == .inj || (k.kind == .helper && injRuns s (mate c))
  | none => false

/-- Work of pair `c / 2` that can no longer be converted (R376). -/
def Work.deadIn (w : Work) (s : State) (c : Nat) : Bool := w.pcv / 2 == c / 2 && pairDead s w.pcv

/-- The entry in progress on `k` ends, not converted, if neither converter is left for it (R376). -/
def dropDead (s : State) (k : Nat) : State :=
  match (s.pcv k).work with
  | some w => if w.deadIn s k then entryDead (setWork s k none) else s
  | none => s

/-- An entry in progress on `a`, which is not READY, goes to a READY and free `b` (R376, R377). -/
def moveWork (s : State) (a b : Nat) : State :=
  match (s.pcv a).work with
  | none => s
  | some w =>
    if pst s a ≠ 2 ∧ pst s b = 2 ∧ (s.pcv b).work.isNone then
      setWork (setWork s a none) b (some (w.again s.time.tick))
    else s

/-- What pair work becomes when a converter's state has changed: with no converter left for it, it is not
converted; an entry left on a converter that is not READY goes to a READY partner that is free.  A sequencer that does
not run takes this up once it runs (R83, R92). -/
def pairSettle (s : State) (c : Nat) : State :=
  if blockRuns s Reg.SEQ.page = false then s else
  let s := dropDead (dropDead s c) (mate c)
  let s := match s.seq.cur with
    | some w => if w.deadIn s c then seqNext (entryDead s) w else s
    | none => s
  let s := match s.seq.inj with
    | some w => if w.deadIn s c then injNone s 2 else s
    | none => s
  moveWork (moveWork s c (mate c)) (mate c) c

/-- Every pair's work is taken up, when the sequencer runs again (R83, R92). -/
def seqFollow (s : State) : State := (List.range 12).foldl (fun s k => pairSettle s (2 * k)) s

/-- A converter stops converting: its conversion is lost; an entry it had in progress starts again from its
first sample (R377); a check it helped with is not made. -/
def pcvLost (s : State) (c : Nat) : State :=
  let t := s.time.tick
  let m := mate c
  let helping : Bool := match (s.pcv c).conv with | some k => k.kind == .helper | none => false
  let hadHelp : Bool := match (s.pcv m).conv with | some k => k.kind == .helper | none => false
  let s := if helping then s.onPcv m fun p => { p with work := p.work.map (fun w => { w with chk := false }) } else s
  let s := if hadHelp then setConv s m none else s
  let s := if injRuns s c || s.seq.injAt == some c then
      s.onSeq fun q => { q with inj := q.inj.map (fun w => w.again t), injAt := none }
    else s
  let s := if injRuns s m && helping then s.onSeq fun q => { q with inj := q.inj.map (fun w => { w with chk := false }) } else s
  let s := s.onPcv c fun p => { p with conv := none, work := p.work.map (fun w => w.again t) }
  pairSettle (s.onSeq fun q => { q with referee := q.referee.filter (fun k => k != c / 2) }) c

/-- A converter fails (R375). -/
def pcvFail (s : State) (c cause : Nat) : State :=
  let s := wrAll s [(Reg.PCV.STAT_STATE c, 3), (Reg.PCV.STAT_FAIL_CAUSE c, cause), (Reg.PCV.STAT_CAL_PEND c, 0),
    (Reg.PCV.STAT_COVERING c, 0)]
  coverCheck (pcvLost (raise s (Reg.PCV.evPCV_FAIL c)) c) (mate c)

/-- STATE follows the gate (R369, R376, R378): a converter that leaves OFF is to calibrate. -/
def pcvFollow (s : State) (c : Nat) : State :=
  let st := pst s c
  if treatedGated s (Reg.PCV.page c) then
    if st = 3 then s
    else pcvLost (wrAll s [(Reg.PCV.STAT_STATE c, 0), (Reg.PCV.STAT_CAL_PEND c, 0), (Reg.PCV.STAT_COVERING c, 0)]) c
  else if st = 0 ∧ blockRuns s (Reg.PCV.page c) = true then
    wrb (s.onPcv c fun p => { p with first := true }) (Reg.PCV.STAT_CAL_PEND c) true
  else s

/-! ### Samples (R355 to R358, R366, R367, R372) -/

/-- An entry is late (R358). -/
def lateMark (s : State) (w : Work) : State × Work :=
  if w.late then (s, w)
  else
    let s := bump s Reg.SEQ.LATE_CNT_COUNT 1
    let s := raiseIf (!s.seq.late && !s.seq.lateLast) s Reg.SEQ.evLATE
    (s.onSeq fun q => { q with late := true }, { w with late := true })

/-- The sample's source is a timer or PWM edge; else it follows the entry itself or the boundary before. -/
def Work.waitsEdge (w : Work) : Bool := w.trig != 0 && (w.each || w.taken == 0)

/-- A check conversion needs the partner of `c` too (R372). -/
def needsMate (s : State) (c : Nat) (w : Work) : Bool :=
  w.wantChk && (w.chk || w.taken == 0) && pst s (mate c) == 2 && w.pcv == c

/-- Converter `c` runs no conversion, and 100 SLO cycles have passed since its last start, which a conversion
dropped on the way does not shorten (R346). -/
def pcvFree (s : State) (c : Nat) : Bool :=
  (s.pcv c).conv.isNone && (match (s.pcv c).last with | none => true | some l => decide (l + 100 ≤ s.time.tick))

/-- The converter that the injected entry runs on, or is to run on (R367, R376): the one that holds its samples. -/
def injHost (s : State) (w : Work) : Option Nat :=
  match s.seq.injAt with
  | some h => if pst s h = 2 then some h else none
  | none => serve s w.pcv

/-- The injected conversion that waits to start on `c`. -/
def injWaits (s : State) (c : Nat) : Option Work :=
  match s.seq.inj with
  | none => none
  | some w => if injHost s w = some c ∧ injRuns s c = false then some w else none

/-- The next sample of the entry in progress on `c` is due (R366 order 2). -/
def sampleDue (s : State) (c : Nat) : Bool :=
  match (s.pcv c).work with
  | some w => (match w.trigAt with | some t => decide (t ≤ s.time.tick) | none => false)
  | none => false

/-- A calibration of `c` could begin (R370, R371): no injected conversion is pending for `c` or runs on it, be it as
the partner of a check. -/
def calReady (s : State) (c : Nat) : Bool :=
  rdb s (Reg.PCV.STAT_CAL_PEND c) && (s.pcv c).work.isNone && (s.pcv c).conv.isNone
    && pst s (mate c) != 1 && pst s c != 3 && !s.seq.referee.contains (c / 2)
    && (match s.seq.inj with
        | none => true
        | some w => w.pcv != c && injHost s w != some c && !(w.pcv == mate c && needsMate s w.pcv w))

/-- What the partner of `c` would start before a check conversion of `c` (R366): an injected conversion and its own
next sample, and before a current entry's first sample also its calibration. -/
def mateBusy (s : State) (c : Nat) (k : ConvFor) (first : Bool) : Bool :=
  k != .inj && ((injWaits s (mate c)).isSome || sampleDue s (mate c) || (first && calReady s (mate c)))

/-- Converter `c`, and in a check its partner, can start a conversion of `w` now. -/
def canStart (s : State) (c : Nat) (k : ConvFor) (first : Bool) (w : Work) : Bool :=
  pcvFree s c && (!needsMate s c w || (pcvFree s (mate c) && !mateBusy s c k first))

/-- Start a conversion of `w` on `c` (R346, R372); answers the work as it goes on. -/
def convStart (s : State) (c : Nat) (k : ConvFor) (w : Work) : State × Work :=
  let two := needsMate s c w
  let v : Conv := ⟨k, s.time.tick, nowNs s, rd s Reg.TIME.STAT_TRUST⟩
  let run := fun (s : State) (c : Nat) (v : Conv) => s.onPcv c fun p => { p with conv := some v, last := some v.tick }
  let s := run s c v
  let s := if two then run s (mate c) { v with kind := .helper } else s
  let cov : Bool := w.pcv != c
  (s, { w with trigAt := none, more := [], since := s.time.tick, chk := two, cover := w.cover || cov })

/-- A late sample waits for the next trigger instant of its source (R358). -/
def Work.nextInstant (w : Work) : Work := { w with trigAt := w.more.head?, more := w.more.tail }

/-- The injected entry keeps `w` from converter `c`, or from the partner that a check of it needs (R367). -/
def injKeeps (s : State) (c : Nat) (w : Work) : Bool := injOn s c || (needsMate s c w && injOn s (mate c))

/-- A sample whose trigger instant `t` has come: it starts if the converter can start it; else it is late
(R358), and an entry in progress is preempted if an injected conversion has displaced it (R367).  `first` tells a
current entry's first sample.  Answers whether it started. -/
def trySample (s : State) (c : Nat) (first : Bool) (w : Work) (t : Nat) : State × Work × Bool :=
  let s := advTick s t
  let ok := canStart s c .entry first w
  if ok = true ∧ s.time.tick = t then
    let x := convStart s c .entry w
    (x.1, x.2, true)
  else
    let l := lateMark s w
    let w := { l.2 with preempt := w.preempt || (!first && injKeeps s c w) }
    if w.waitsEdge then (l.1, w.nextInstant, false)
    else if ok then
      let x := convStart l.1 c .entry w
      (x.1, x.2, true)
    else
      let free := match (s.pcv c).last with | some l => max (s.time.tick + 1) (l + 100) | none => s.time.tick + 100
      (l.1, { w with trigAt := some free }, false)

/-- The entry in progress on `c` is displaced by an injected conversion that starts now (R367). -/
def displaced (s : State) (c : Nat) : State :=
  match (s.pcv c).work with
  | none => s
  | some w =>
    match w.trigAt with
    | none => s
    | some t =>
      if s.time.tick < t then s
      else
        let l := lateMark s w
        let v := if w.waitsEdge then l.2.nextInstant else { l.2 with trigAt := some (s.time.tick + 100) }
        setWork l.1 c (some { v with preempt := true })

/-- The sample that an injected conversion of `w` starting on `c` keeps from the partner: one that runs there,
if `w` is a check, or a check that needs `c` (R367, R372). -/
def displacedMate (s : State) (c : Nat) (w : Work) : State :=
  match (s.pcv (mate c)).work with
  | none => s
  | some v => if needsMate s c w || needsMate s (mate c) v then displaced s (mate c) else s

/-- The current entry, when `c` is to take its first sample (R355, R366 order 5). -/
def curSample (s : State) (c : Nat) : State :=
  match s.seq.cur with
  | none => s
  | some w =>
    if serve s w.pcv ≠ some c ∨ s.seq.referee.contains (c / 2) = true ∨ calReady s c = true then s
    else
      match w.trigAt with
      | none => s
      | some t =>
        let x := trySample s c true w t
        if x.2.2 then seqNext (setWork x.1 c (some x.2.1)) x.2.1
        else wrb (x.1.onSeq fun q => { q with cur := some x.2.1 }) Reg.SEQ.STAT_WAIT_TRIG x.2.1.trigAt.isNone

/-- SAMPLE_START of converter `c`, in the order of R366. -/
def sampleStart (c : Fin 24) (s : State) : State :=
  if blockRuns s (Reg.PCV.page c) = false ∨ blockRuns s Reg.SEQ.page = false ∨ pst s c ≠ 2 then s
  else
    match injWaits s c with
    | some w =>
      if canStart s c .inj false w then
        let s := displacedMate (displaced s c) c w
        let x := convStart s c .inj w
        x.1.onSeq fun q => { q with inj := some x.2, injAt := some c.val }
      else s
    | none =>
      match (s.pcv c).work with
      | some w =>
        (match w.trigAt with
         | none => s
         | some t =>
           let x := trySample s c false w t
           setWork x.1 c (some x.2.1))
      | none => curSample s c

def execSampleStart (c : Fin 24) (s : State) : Host.Outcome State Fault Refusal := .next (sampleStart c s)

/-! ### Conversion boundaries (R346, R347, R350, R357, R372, R373) -/

/-- VFS of a converter in nV, within the bounds of R632. -/
def vfs (c : Nat) : Nat := 2497500000 + Config.vfs c % 5000001

/-- The reading floor(V x G x 262,144 / VFS) of `v` nV on converter `c` at gain code `g` (R347). -/
def reading (c g : Nat) (v : Int) : Int := v * 2 ^ g * 262144 / vfs c

/-- The code of a reading, and its over-range flag (R347). -/
def codeOf (raw : Int) : Nat × Bool :=
  if raw < 0 then (0, true) else if 0x3FFFF < raw then (0x3FFFF, true) else (raw.toNat, false)

/-- A sample's codes, on the serving converter and on the check partner, enter the sums. -/
def Work.sample (w : Work) (a : Nat × Bool) (p : Nat) : Work :=
  { w with taken := w.taken + 1, sum := w.sum + a.1, psum := w.psum + p, orf := w.orf || a.2 }

/-- All samples of the entry are taken. -/
def Work.full (w : Work) : Bool := 2 ^ (w.avg + 1) ≤ w.taken

/-- The pair's count of consecutive mismatches, which both pages show (R373). -/
def setMismatch (s : State) (c n : Nat) : State :=
  wr (wr s (Reg.PCV.STAT_MISMATCH c) (min n 15)) (Reg.PCV.STAT_MISMATCH (mate c)) (min n 15)

/-- A check conversion is complete on named converter `c` (R372 to R374); answers CHK (R379). -/
def checkDone (s : State) (c r p : Nat) : State × Nat :=
  let d := if r ≤ p then p - r else r - p
  if d ≤ rd s (Reg.PCV.CHK_CTL_TOL c) then
    let s := bump (bump s (Reg.PCV.CHK_CNT_PASS c) 1) (Reg.PCV.CHK_CNT_PASS (mate c)) 1
    (setMismatch (wrb (wrb s (Reg.PCV.STAT_SUSPECT c) false) (Reg.PCV.STAT_SUSPECT (mate c)) false) c 0, 1)
  else
    let s := bump (bump s (Reg.PCV.CHK_CNT_MISMATCH c) 1) (Reg.PCV.CHK_CNT_MISMATCH (mate c)) 1
    let s := raise s (Reg.PCV.evCHK_MISMATCH c)
    let n := rd s (Reg.PCV.STAT_MISMATCH c) + 1
    if rd s (Reg.PCV.CHK_CTL_MISMATCH_N c) ≤ n then
      (setMismatch (s.onSeq fun q => { q with referee := if q.referee.contains (c / 2) then q.referee
        else q.referee ++ [c / 2] }) c 0, 2)
    else (setMismatch s c n, 2)

/-- The result of a complete entry or injected conversion on `c` (R357, R372, R379). -/
def workResult (s : State) (c : Nat) (w : Work) (k : Conv) : State × Res :=
  let r := w.sum / 2 ^ w.shift % 2 ^ 26
  let p := w.psum / 2 ^ w.shift % 2 ^ 26
  let chk := if w.wantChk = false then (s, 0) else if w.chk then checkDone s w.pcv r p else (s, 3)
  (chk.1, { ns := k.stamp, trust := k.trust, result := r, orf := w.orf, late := w.late, preempt := w.preempt
            cover := w.cover, chk := chk.2, entry := w.idx, input := w.input, conv := c, named := w.pcv, tick := s.time.tick
            dest := w.dest })

/-- A result joins those on their way to rings, after those that left before it or in the same SLO cycle from a
converter of a lower number (R380). -/
def insertRes (x : Res) : List Res → List Res
  | [] => [x]
  | y :: t => if y.tick = x.tick ∧ x.conv < y.conv then x :: y :: t else y :: insertRes x t

/-- The result of an entry leaves the converter (R350, R379, R383). -/
def entryResult (s : State) (w : Work) (x : Res) : State :=
  let r := routeT s w x
  if r.2 then r.1
  else
    let s := if x.dest < 16 then { r.1 with ringQ := insertRes x r.1.ringQ } else r.1
    filtOffer s x

/-- The trigger instant of an entry's next sample (R356), after a sample that started at TICK `t` and has
ended. -/
def Work.nextTrig (w : Work) (t : Nat) : Work :=
  if w.each = false then { w with trigAt := some (t + 100) }
  else if w.trig = 0 then { w with trigAt := some (t + 100 + w.delay) }
  else w

/-- CONVERSION_BOUNDARY (R346, R347, R350, R357, R368, R372, R373).  A sequencer that does not run takes no code: the
converter delivers once it runs again (R83, R92; DESIGN CHOICE, log entry 63). -/
def conversionBoundary (c : Fin 24) (v partner : Int) (s : State) : State :=
  match (s.pcv c).conv with
  | none => s
  | some k =>
    if k.kind = .helper ∨ blockRuns s (Reg.PCV.page c) = false ∨ blockRuns s Reg.SEQ.page = false then s
    else
      let m := mate c
      let s := advTick s (k.tick + 100)
      let two : Bool := match (s.pcv m).conv with | some h => h.kind == .helper | none => false
      let s := inc (setConv s c none) (Reg.PCV.CONV_CNT_COUNT c) 1
      let s := if two then inc (setConv s m none) (Reg.PCV.CONV_CNT_COUNT m) 1 else s
      let take := fun (w : Work) =>
        w.sample (codeOf (reading c w.gain v)) (codeOf (reading m w.gain partner)).1
      if k.kind = .inj then
        match s.seq.inj with
        | none => s
        | some w =>
          let w := take w
          if w.full then
            let x := workResult s c w k
            injResult x.1 w x.2
          else s.onSeq fun q => { q with inj := some w }
      else
        match (s.pcv c).work with
        | none => s
        | some w =>
          let w := take w
          if w.full then
            let x := workResult (setWork s c none) c w k
            pairSettle (entryResult x.1 w x.2) c
          else setWork s c (some (w.nextTrig k.tick))

def execConversionBoundary (c : Fin 24) (v partner : Int) (s : State) : Host.Outcome State Fault Refusal :=
  .next (conversionBoundary c v partner s)

/-! ### Triggers (R356, R359, R361 to R365) -/

/-- An event of source `code` at TICK `e` reaches an entry that waits for it (R356); the first sample takes
one at `e` or later, a later sample one after the sample before it.  An event that comes while the instant of one
before it is still ahead is kept, for a sample that is late at that instant (R358). -/
def Work.event (w : Work) (code e : Nat) : Work :=
  if w.trig = code ∧ w.waitsEdge = true ∧ (w.since < e ∨ (w.taken = 0 ∧ w.since = e)) then
    (match w.trigAt with
     | none => { w with trigAt := some (e + w.delay) }
     | some _ => { w with more := w.more ++ [e + w.delay] })
  else w

/-- A trigger event; a sequencer that does not run holds its state (R83, R92). -/
def fireTrigger (s : State) (code e : Nat) : State :=
  let s := (List.range 24).foldl (fun s c =>
    match (s.pcv c).work with
    | none => s
    | some w => setWork s c (some (w.event code e))) s
  match s.seq.cur, blockRuns s Reg.SEQ.page with
  | none, _ | _, false => s
  | some w, true =>
    let w := w.event code e
    wrb (s.onSeq fun q => { q with cur := some w }) Reg.SEQ.STAT_WAIT_TRIG w.trigAt.isNone

/-- The first tick of a series of a phase and a period, at or after `lo` and after `last`. -/
def seriesNext (lo : Nat) (last : Option Nat) (ph per : Nat) : Nat :=
  let lo := match last with | none => lo | some l => max lo (l + 1)
  if lo ≤ ph then ph else ph + (lo - ph + per - 1) / per * per

/-- TIMER_EVENT (R361). -/
def timerEvent (t : Fin 16) (s : State) : State :=
  if blockRuns s Reg.TMR.page = false ∨ bit (rd s Reg.TMR.CTL_EN) t = false then s
  else
    let e := seriesNext s.time.tick (vget s.seq.timerAt none t) (rd s (Reg.TMR.PHASE_CYC t)) (rd s (Reg.TMR.PER_CYC t))
    let s := advTick s e
    fireTrigger (s.onSeq fun q => { q with timerAt := vset q.timerAt t (some e) }) (t + 1) e

def execTimerEvent (t : Fin 16) (s : State) : Host.Outcome State Fault Refusal := .next (timerEvent t s)

/-- PORT[o / 4].HTR_LIM field o mod 4 (R203, R364). -/
def htrLim (s : State) (o : Nat) : Nat :=
  rd s (match o % 4 with
    | 0 => Reg.PORT.HTR_LIM_LIM0 (o / 4)
    | 1 => Reg.PORT.HTR_LIM_LIM1 (o / 4)
    | 2 => Reg.PORT.HTR_LIM_LIM2 (o / 4)
    | _ => Reg.PORT.HTR_LIM_LIM3 (o / 4))

/-- The limit of output `o`'s duty, and its target (R364). -/
def pwmLim (s : State) (o : Nat) : Nat := (htrLim s o + 1) * 256

def pwmTarget (s : State) (o : Nat) : Nat := min (s.pwm o).duty (pwmLim s o)

/-- The limit of output `o` acts (R364). -/
def pwmClamps (s : State) (o : Nat) : Bool := decide (pwmLim s o < (s.pwm o).duty)

/-- CLAMPED and RAMPING of output `o` follow its limit and its target (R364, R392). -/
def pwmFlags (s : State) (o : Nat) : State :=
  wrAll s [(Reg.PWM.DUTY_NOW_CLAMPED o, b2n (pwmClamps s o)),
    (Reg.PWM.DUTY_NOW_RAMPING o, b2n (rd s (Reg.PWM.DUTY_NOW_NOW o) != pwmTarget s o))]

/-- They follow for every output, while the block runs. -/
def pwmFollow (s : State) : State :=
  if blockRuns s Reg.PWM.page then (List.range 64).foldl pwmFlags s else s

/-- The duty of output `o` moves toward its target (R203, R364, R365). -/
def pwmSlew (s : State) (o per : Nat) : State :=
  let tgt := pwmTarget s o
  let now := rd s (Reg.PWM.DUTY_NOW_NOW o)
  let st := per * 409 / 10000
  let nx := if now ≤ tgt then min tgt (now + st) else max tgt (now - st)
  raiseIf (pwmClamps s o) (pwmFlags (wr s (Reg.PWM.DUTY_NOW_NOW o) nx) o) (Reg.PORT.evHTR_CLAMP (o / 4))

/-- The drive of output `o` runs: its block does, or its duty falls to 0 after a page reset, which has closed the
gate (R364). -/
def pwmRuns (s : State) (o : Nat) : Bool :=
  blockRuns s Reg.PWM.page || ((s.pwm o).fall && domRunning s 5 && !domSwitching s 5)

/-- PWM_PERIOD_START (R362 to R365): at the next period start under the settings in use, new settings take
over, or the drive begins a period. -/
def pwmPeriodStart (o : Fin 64) (s : State) : State :=
  if pwmRuns s o = false then s
  else
    let p := s.pwm o
    let e := seriesNext s.time.tick p.start p.phase p.per
    let s := advTick s e
    let per := rd s (Reg.PWM.CFG_PERIOD o)
    let ph := rd s (Reg.PWM.CFG_PHASE o)
    let s := s.onPwm o fun p => { p with duty := rd s (Reg.PWM.DUTY_DUTY o) }
    if per ≠ p.per ∨ ph ≠ p.phase then
      pwmFlags (s.onPwm o fun p =>
        { p with carry := 0, on := 0, high := false, per := per, phase := ph, start := none }) o
    else
      let s := pwmSlew s o per
      let t := p.carry + rd s (Reg.PWM.DUTY_NOW_NOW o) * per
      let n := t / 65536
      let s := s.onPwm o fun p =>
        { p with carry := t % 65536, on := n, high := decide (0 < n), start := some e
                 fall := p.fall && rd s (Reg.PWM.DUTY_NOW_NOW o) != 0 }
      if 0 < n then fireTrigger s (0x40 + o) e else s

def execPwmPeriodStart (o : Fin 64) (s : State) : Host.Outcome State Fault Refusal := .next (pwmPeriodStart o s)

/-- PWM_FALL_TRIGGER (R362, R363). -/
def pwmFallTrigger (o : Fin 64) (s : State) : State :=
  let p := s.pwm o
  match p.start with
  | none => s
  | some e =>
    if pwmRuns s o = false ∨ p.high = false ∨ p.per ≤ p.on then s
    else
      let s := advTick s (e + p.on)
      fireTrigger (s.onPwm o fun p => { p with high := false }) (0x80 + o) (e + p.on)

def execPwmFallTrigger (o : Fin 64) (s : State) : Host.Outcome State Fault Refusal := .next (pwmFallTrigger o s)

/-- A missed trigger is counted (R359). -/
def trigMiss (s : State) : State := raise (bump s Reg.SEQ.ERR_CNT_MISS 1) Reg.SEQ.evTRIG_MISS

/-- The TICK from which R359 counts the wait of `w`'s next sample, if it waits for an event of R356: where its
event is first looked for, or with TRIG 0 that event itself.  A later sample with EACH 0 follows the boundary
before it and has no event (log entry 59). -/
def Work.waitsFrom (w : Work) : Option Nat :=
  if w.taken = 0 then some w.since
  else if w.each = false then none
  else some (if w.trig = 0 then w.since + 100 else w.since)

/-- TRIG_TIMEOUT (R359). -/
def trigTimeout (c : Option (Fin 24)) (s : State) : State :=
  if blockRuns s Reg.SEQ.page = false then s
  else
    let tmo := rd s Reg.SEQ.TRIG_TMO_CYC
    match c with
    | none =>
      (match s.seq.cur with
       | none => s
       | some w =>
         seqNext (trigMiss (advTick s (w.since + tmo))) w)
    | some c =>
      match (s.pcv c).work with
      | none => s
      | some w =>
        let busy : Bool := match (s.pcv c).conv with | some k => k.kind == .entry | none => false
        match w.waitsFrom with
        | none => s
        | some e =>
          if busy then s else pairSettle (setWork (trigMiss (advTick s (e + tmo))) c none) c

def execTrigTimeout (c : Option (Fin 24)) (s : State) : Host.Outcome State Fault Refusal :=
  .next (trigTimeout c s)

/-! ### Calibration, failures, referees (R369 to R375) -/

/-- What a write of 1 to PCV[c].CMD.CAL does (R369). -/
def pcvCalEffect (s : State) (c : Nat) : State :=
  if pst s c = 1 ∨ pst s c = 2 then wrb s (Reg.PCV.STAT_CAL_PEND c) true else s

/-- PCV_CAL_PERIODIC (R369). -/
def pcvCalPeriodic (c : Fin 24) (s : State) : State :=
  let per := rd s (Reg.PCV.CTL_CAL_PER_S c)
  if per = 0 ∨ blockRuns s (Reg.PCV.page c) = false then s
  else pcvCalEffect (advTick s (seriesNext s.time.tick none (c * 1000000) (per * 100000000))) c

def execPcvCalPeriodic (c : Fin 24) (s : State) : Host.Outcome State Fault Refusal := .next (pcvCalPeriodic c s)

/-- PCV_CAL_START (R370, R371): what waits for the pair moves to the partner, or is not converted (R376). -/
def pcvCalStart (c : Fin 24) (s : State) : State :=
  if blockRuns s (Reg.PCV.page c) = true ∧ calReady s c = true then
    let t := s.time.tick
    pairSettle (wrAll (s.onPcv c fun p => { p with calAt := t })
      [(Reg.PCV.STAT_STATE c, 1), (Reg.PCV.STAT_CAL_PEND c, 0)]) c
  else s

def execPcvCalStart (c : Fin 24) (s : State) : Host.Outcome State Fault Refusal := .next (pcvCalStart c s)

/-- A calibration's findings break a limit of R369. -/
def calBreaks (found : List (Int × Int)) : Bool := found.any (fun e => 8192 < e.1.natAbs || 8192 < e.2.natAbs)

/-- PCV_CAL_END (R369, R375). -/
def pcvCalEnd (c : Fin 24) (found : List (Int × Int)) (s : State) : State :=
  if pst s c ≠ 1 ∨ blockRuns s (Reg.PCV.page c) = false then s
  else
    let s := advTick s ((s.pcv c).calAt + 200000)
    let g := found.headD (0, 0)
    let s := wr (wr s (Reg.PCV.CAL_RES_OFS c) (unsext 16 g.1)) (Reg.PCV.CAL_RES_GAIN c) (unsext 16 g.2)
    if calBreaks found then pcvFail s c 1
    else
      let fst := (s.pcv c).first
      let s := raise (wr s (Reg.PCV.STAT_STATE c) 2) (Reg.PCV.evCAL_DONE c)
      let s := raiseIf fst s (Reg.PCV.evREADY c)
      pairSettle (coverCheck (s.onPcv c fun p => { p with first := false }) c) c

def execPcvCalEnd (c : Fin 24) (found : List (Int × Int)) (s : State) : Host.Outcome State Fault Refusal :=
  .next (pcvCalEnd c found s)

/-- CONV_TIMEOUT: the conversion on `c` has not delivered within 200 SLO cycles (R375, R377); with none of an entry's, it is
one of the referee that the pair runs (R374). -/
def convTimeout (c : Fin 24) (s : State) : State :=
  match (s.pcv c).conv with
  | none => if s.seq.referee.contains (c / 2) && pst s c == 2 && blockRuns s (Reg.PCV.page c) then pcvFail s c 2 else s
  | some k => if blockRuns s (Reg.PCV.page c) then pcvFail (advTick s (k.tick + 200)) c 2 else s

def execConvTimeout (c : Fin 24) (s : State) : Host.Outcome State Fault Refusal := .next (convTimeout c s)

/-- The sum of the codes of a referee's 16 conversions at gain 1 on converter `c`, of which `v` gives the voltages in nV
(R347, R374). -/
def refereeSum (c : Nat) (v : List Int) : Nat :=
  (List.range 16).foldl (fun n i => n + (codeOf (reading c 0 (v.getD i 0))).1) 0

/-- The mean of 16 codes deviates from its stored value by more than 128 LSB (R374). -/
def deviates (sum stored : Nat) : Bool := 16 * 128 < ((sum : Int) - 16 * stored).natAbs

/-- A converter of a referee disagrees with OTP record MON_REF (R374); no one does without the record. -/
def disagrees (s : State) (c ref gnd : Nat) : Bool :=
  (loadedData s 7).isSome
    && (deviates ref (bits (recWord s 7 c 0) 0 18) || deviates gnd (bits (recWord s 7 c 0) 18 14))

/-- REFEREE_DONE (R374). -/
def refereeDone (k : Fin 12) (ref0 gnd0 ref1 gnd1 : List Int) (s : State) : State :=
  if s.seq.referee.contains k.val = false ∨ pst s (2 * k) ≠ 2 ∨ pst s (2 * k + 1) ≠ 2
      ∨ blockRuns s (Reg.PCV.page (2 * k)) = false ∨ blockRuns s (Reg.PCV.page (2 * k + 1)) = false then s
  else
    let a := 2 * k.val
    let b := 2 * k.val + 1
    let s := s.onSeq fun q => { q with referee := q.referee.filter (fun j => j != k.val) }
    let s := inc (inc s (Reg.PCV.CONV_CNT_COUNT a) 32) (Reg.PCV.CONV_CNT_COUNT b) 32
    let da := disagrees s a (refereeSum a ref0) (refereeSum a gnd0)
    let db := disagrees s b (refereeSum b ref1) (refereeSum b gnd1)
    if da && !db then pcvFail s a 3
    else if db && !da then pcvFail s b 3
    else
      let s := if da then wrb (wrb s (Reg.PCV.STAT_SUSPECT a) true) (Reg.PCV.STAT_SUSPECT b) true else s
      raise (raise s (Reg.PCV.evCHK_UNRESOLVED a)) (Reg.PCV.evCHK_UNRESOLVED b)

def execRefereeDone (k : Fin 12) (ref0 gnd0 ref1 gnd1 : List Int) (s : State) :
    Host.Outcome State Fault Refusal := .next (refereeDone k ref0 gnd0 ref1 gnd1 s)

/-! ### Page resets (R153, R360, R361, R364, R373, R378) -/

/-- A page reset of PCV[c], once its registers are cleared: its partner covers no failed converter any more
(R375). -/
def pcvPageReset (s : State) (c : Nat) : State :=
  let s := wrb (pcvLost s c) (Reg.PCV.STAT_COVERING (mate c)) false
  setMismatch (s.onPcv c fun p => { PcvH.reset with work := p.work, last := p.last }) c 0

/-- A page reset of SEQ: the pass, every entry in progress and the injected conversion are abandoned. -/
def seqPageReset (s : State) : State :=
  let s := (List.range 24).foldl (fun s c => s.onPcv c fun p => { p with work := none, conv := none }) s
  s.onSeq fun q => { SeqH.reset with timerAt := q.timerAt, referee := q.referee }

/-- A page reset of PWM: the targets fall to 0, and DUTY_NOW follows by the slew of R364. -/
def pwmPageReset (s old : State) : State :=
  (List.range 64).foldl (fun s o =>
    let d := rd old (Reg.PWM.DUTY_NOW_NOW o)
    pwmFlags (wr (s.onPwm o fun p => { p with fall := decide (0 < d), duty := 0 }) (Reg.PWM.DUTY_NOW_NOW o) d) o) s

end Sys2Proof.Machine
end

