-- ==== Sys2Proof/Machine/Herd.lean ====
section
/-! DEFINITION. Lanes and herds (chapter 13): lane roles and maps, training, alignment, receivers, eye
scan, failover and lane tests. -/

namespace Sys2Proof.Machine

/-! ### The lanes of a herd (R433) -/

def nTx (h : Nat) : Nat := if h = 16 then 4 else 19

def nRx (h : Nat) : Nat := if h = 16 then 4 else 2

/-- Nominal active counts. -/
def nomTx (h : Nat) : Nat := if h = 16 then 3 else 18

def nomRx (h : Nat) : Nat := if h = 16 then 3 else 1

/-- Roles (R434): 0 OFF, 1 TRAINING, 2 ACTIVE, 3 SPARE, 4 FAILED. -/
def txRole (s : State) (h i : Nat) : Nat := rd s (Reg.HERD.LANE_TX_ROLE h i)

def rxRole (s : State) (h j : Nat) : Nat := rd s (Reg.HERD.LANE_RX_ROLE h j)

def setTxRole (s : State) (h i r : Nat) : State := wr s (Reg.HERD.LANE_TX_ROLE h i) r

def setRxRole (s : State) (h j r : Nat) : State := wr s (Reg.HERD.LANE_RX_ROLE h j) r

def setTxRoles (s : State) (h r : Nat) (l : List Nat) : State := l.foldl (fun s i => setTxRole s h i r) s

def setRxRoles (s : State) (h r : Nat) (l : List Nat) : State := l.foldl (fun s j => setRxRole s h j r) s

/-- Lanes with a role, ascending. -/
def txWith (s : State) (h r : Nat) : List Nat := (List.range (nTx h)).filter (fun i => txRole s h i == r)

def rxWith (s : State) (h r : Nat) : List Nat := (List.range (nRx h)).filter (fun j => rxRole s h j == r)

/-- Position of a lane in a map: its logical number (R435). -/
def logicalOf (m : List Nat) (i : Nat) : Nat := (m.filter (· < i)).length

/-- LOGICAL and the counts of STAT follow the roles and the maps (R435, R466). -/
def herdRegs (s : State) (h : Nat) : State :=
  let t := s.herd h
  let s := (List.range (nTx h)).foldl (fun s i => wr s (Reg.HERD.LANE_TX_LOGICAL h i)
    (if txRole s h i = 2 then logicalOf t.txMap i else 0)) s
  let s := (List.range (nRx h)).foldl (fun s j => wr s (Reg.HERD.LANE_RX_LOGICAL h j)
    (if rxRole s h j = 2 then logicalOf t.rxMap j else 0)) s
  wrAll s [(Reg.HERD.STAT_TX_SPARES h, (txWith s h 3).length),
    (Reg.HERD.STAT_RX_SPARES h, (rxWith s h 3).length), (Reg.HERD.STAT_RX_ACTIVE h, t.rxMap.length),
    (Reg.HERD.STAT_FAILOVER h, b2n (t.newTx.isSome || t.newRx.isSome))]

/-- Lowest `n` of an ascending list. -/
def lowest (n : Nat) (l : List Nat) : List Nat := l.take n

/-- Insert into an ascending list without repeats. -/
def insertAsc (i : Nat) : List Nat → List Nat
  | [] => [i]
  | a :: t => if i < a then i :: a :: t else if i = a then a :: t else a :: insertAsc i t

def herdState (s : State) (h : Nat) : Nat := rd s (Reg.HERD.STAT_STATE h)

def setHerdState (s : State) (h v : Nat) : State := wr s (Reg.HERD.STAT_STATE h) v

/-! ### Words -/

/-- A MAP word for one direction (R439). -/
def mapWord (ret : Bool) (m : List Nat) : Nat := b2n ret * 2 ^ 5 + 3 * 2 ^ 6 + listMask m * 2 ^ 8

/-- Side taps packed as TX_PRESET (R444, R466). -/
def packTaps (a b c d : Int) : Nat :=
  unsext 8 a + unsext 8 b * 2 ^ 8 + unsext 8 c * 2 ^ 16 + unsext 8 d * 2 ^ 24

/-- C0 of R444. -/
def c0 (a b c d : Int) : Int := 64 - (a.natAbs + b.natAbs + c.natAbs + d.natAbs : Nat)

/-- Preset 2: TX_PRESET in effect, limited; preset 1 where C0 would be below 32 (R444). -/
def preset2 (s : State) (h : Nat) : Nat :=
  let a := clampI (-8) 8 (sext 8 (rd s (Reg.HERD.TX_PRESET_CM2 h)))
  let b := clampI (-24) 0 (sext 8 (rd s (Reg.HERD.TX_PRESET_CM1 h)))
  let c := clampI (-24) 0 (sext 8 (rd s (Reg.HERD.TX_PRESET_CP1 h)))
  let d := clampI (-8) 8 (sext 8 (rd s (Reg.HERD.TX_PRESET_CP2 h)))
  if c0 a b c d < 32 then 0 else packTaps a b c d

/-- One tap command (R439, R444): the tap afterwards and its status. `k` is the tap, 0 to 3 in the
order CM2, CM1, CP1, CP2; `t` the taps packed. -/
def tapCmd (t k cmd : Nat) : Nat × Nat :=
  let v := sext 8 (bits t (8 * k) 8)
  if cmd = 1 ∨ cmd = 2 then
    let v' := if cmd = 1 then v + 1 else v - 1
    let t' := t - bits t (8 * k) 8 * 2 ^ (8 * k) + unsext 8 v' * 2 ^ (8 * k)
    let lo : Int := if k = 0 ∨ k = 3 then -8 else -24
    let hi : Int := if k = 0 ∨ k = 3 then 8 else 0
    let tap := fun n => sext 8 (bits t' (8 * n) 8)
    if v' < lo ∨ hi < v' ∨ c0 (tap 0) (tap 1) (tap 2) (tap 3) < 32 then (t, if cmd = 1 then 3 else 2)
    else (t', 1)
  else (t, 0)

/-- The commands of a REQUEST in turn (R443): taps afterwards, and the four statuses. -/
def tapCmds (t w : Nat) : Nat × Nat :=
  let a := tapCmd t 0 (bits w 8 2)
  let b := tapCmd a.1 1 (bits w 10 2)
  let c := tapCmd b.1 2 (bits w 12 2)
  let d := tapCmd c.1 3 (bits w 14 2)
  (d.1, a.2 + b.2 * 4 + c.2 * 16 + d.2 * 64)

/-- A RESPONSE word (R439). -/
def responseWord (lane stat seq taps : Nat) : Nat :=
  lane + 2 ^ 6 + stat * 2 ^ 8 + seq * 2 ^ 24 + taps * 2 ^ 32

/-- A STATE word (R439): RX_ALIGNED once the return lanes are deskewed; RX_LOCK of a return lane. -/
def stateWord (s : State) (h lane : Nat) (ret : Bool) : Nat :=
  lane + b2n ret * 2 ^ 5 + 2 * 2 ^ 6 + herdState s h * 2 ^ 8 + b2n (s.herd h).deskewed * 2 ^ 11
    + b2n (ret && rdb s (Reg.HERD.LANE_RX_BLK h lane)) * 2 ^ 12

/-- The transmit lanes that send STATE words (R440): those in TRAINING, and in ALIGN those of the map (log entry
61). -/
def stateLanes (s : State) (h : Nat) : List Nat :=
  (List.range (nTx h)).filter (fun i => txRole s h i == 1 || herdState s h == 3 && txRole s h i == 2)

/-- The STATE words of a herd (R439 to R441): on each lane its own, and on the lowest those of the return lanes that
are neither OFF nor FAILED (log entry 61). -/
def sendStates (s : State) (h : Nat) : State :=
  if herdRuns s h = false then s
  else
    let t := (stateLanes s h).foldl (fun t i => sendTrain t h i (stateWord s h i false)) s
    match stateLanes s h with
    | [] => t
    | i :: _ => ((List.range (nRx h)).filter (fun j => rxRole s h j != 0 && rxRole s h j != 4)).foldl
        (fun t j => sendTrain t h i (stateWord s h j true)) t

/-! ### Entering RX_ACQ, TX_TRAIN, ALIGN and UP -/

/-- Lane `i`'s record and role as RX_ACQ begins: causes 2 to 5 are cleared; a lane that is not FAILED
trains (R441, R464). -/
def txIntoAcq (s : State) (h i : Nat) : State :=
  if txRole s h i = 4 ∧ rd s (Reg.HERD.LANE_TX_CAUSE h i) = 1 then s
  else wrAll s [(Reg.HERD.LANE_TX_ROLE h i, 1), (Reg.HERD.LANE_TX_CAUSE h i, 0),
    (Reg.HERD.LANE_TX_DONE h i, 0)]

/-- A return lane acquires anew: clock recovery and block lock are to come (R442). -/
def rxIntoAcq (s : State) (h j : Nat) : State :=
  wrAll s [(Reg.HERD.LANE_RX_ROLE h j, 1), (Reg.HERD.LANE_RX_CAUSE h j, 0), (Reg.HERD.LANE_RX_CDR h j, 0),
    (Reg.HERD.LANE_RX_BLK h j, 0)]

/-- Enter RX_ACQ (R441, R464). -/
def enterAcq (s : State) (h : Nat) : State :=
  let s := (List.range (nTx h)).foldl (fun s i => txIntoAcq s h i) s
  let s := (List.range (nRx h)).foldl (fun s j => rxIntoAcq s h j) s
  let s := s.onHerd h fun t =>
    { t with rxMap := [], newTx := none, newRx := none, mapTx := false, mapRx := false, lateTx := [], lateRx := []
             ready := [], deskewed := false, aligned := false, testTx := [], testRx := [] }
  herdRegs (setHerdState s h 1) h

/-- Return to RX_ACQ, counting a retry (R445, R446, R450, R466). -/
def retryAcq (s : State) (h : Nat) : State := enterAcq (bump s (Reg.HERD.CNT_RETRY h) 1) h

/-- SOFT[h] of a traffic herd that has stopped carrying STREAM blocks (R322). -/
def herdStopped (s : State) (h : Nat) : State := if h < 16 then softDiscard s h else s

/-- Leave UP for RX_ACQ (R447); CNT.RETRY counts every return to RX_ACQ (R466). -/
def leaveUp (s : State) (h : Nat) : State := herdStopped (retryAcq (raise s (Reg.HERD.evHERD_DOWN h)) h) h

/-- The herd may leave RX_ACQ (R448). -/
def acqAllowed (s : State) (h : Nat) : Bool :=
  rd s Reg.CLK.ROOT_STAT_STATE == 2 && (h == 16 || !rdb s Reg.CLK.MON_STAT_SQUELCH)

/-- A transmit lane starts from preset 2 (R443). -/
def startPreset2 (s : State) (h i : Nat) : State :=
  wr (wr s (Reg.HERD.LANE_COEF_TAPS h i) (preset2 s h)) (Reg.HERD.LANE_TX_DONE h i) 0

/-- RX_ACQ ends once the nominal count of return lanes is ready (R442): the lowest are the return map,
every other ready lane is a spare, and TX_TRAIN begins from preset 2. -/
def tryTrain (s : State) (h : Nat) : State :=
  let r := (s.herd h).ready
  if herdRuns s h = true ∧ herdState s h = 1 ∧ nomRx h ≤ r.length ∧ acqAllowed s h = true then
    let m := lowest (nomRx h) r
    let s := setRxRoles (setRxRoles s h 3 r) h 2 m
    let s := (txWith s h 1).foldl (fun s i => startPreset2 s h i) s
    herdRegs (setHerdState (s.onHerd h fun t => { t with rxMap := m }) h 2) h
  else s

/-- Every herd that waits for the clock (R448: after ROOT_LOCK or LOSS_ACK). -/
def herdsTryTrain (s : State) : State := (List.range 17).foldl tryTrain s

/-- A new transmit map is in effect: L_ACTIVE takes its count, and SOFT[h] checks its budget when L
changes (R320, R435). -/
def setTxMap (s : State) (h : Nat) (m : List Nat) : State :=
  let old := rd s (Reg.HERD.STAT_L_ACTIVE h)
  let s := wr (s.onHerd h fun t => { t with txMap := m }) (Reg.HERD.STAT_L_ACTIVE h) m.length
  if old ≠ m.length ∧ h < 16 then budgetOnLanes s h else s

/-- A lane becomes FAILED (R457, R465). -/
def failTx (s : State) (h cause i : Nat) : State :=
  raise (wrAll (s.onLine h fun l => l.quiet [i]) [(Reg.HERD.LANE_TX_ROLE h i, 4), (Reg.HERD.LANE_TX_CAUSE h i, cause),
    (Reg.HERD.LANE_TX_DONE h i, 0)]) (Reg.HERD.evLANE_FAIL h)

def failRx (s : State) (h cause j : Nat) : State :=
  raise (wrAll s [(Reg.HERD.LANE_RX_ROLE h j, 4), (Reg.HERD.LANE_RX_CAUSE h j, cause)])
    (Reg.HERD.evLANE_FAIL h)

/-- Send the MAP words of both directions on every lane of the transmit map (R446). -/
def sendMaps (s : State) (h : Nat) : State :=
  let t := s.herd h
  sendTrains (sendTrains s h t.txMap (mapWord false t.txMap)) h t.txMap (mapWord true t.rxMap)

/-- The end of TX_TRAIN (R445). -/
def trainEnd (s : State) (h : Nat) : State :=
  let done := (txWith s h 1).filter (fun i => rdb s (Reg.HERD.LANE_TX_DONE h i))
  let undone := (txWith s h 1).filter (fun i => !rdb s (Reg.HERD.LANE_TX_DONE h i))
  if done.length < rd s (Reg.HERD.CTL_MIN_L h) then
    retryAcq (raise s (Reg.HERD.evTRAIN_FAIL h)) h
  else
    let m := lowest (nomTx h) done
    let s := setTxRoles (setTxRoles s h 3 done) h 2 m
    let s := undone.foldl (fun s i => failTx s h 2 i) s
    let s := herdRegs (setHerdState (setTxMap s h m) h 3) h
    pump (sendMarkers (sendMaps s h) h false) h

/-- TX_TRAIN ends when every transmit lane in TRAINING is done (R445). -/
def trainCheck (s : State) (h : Nat) : State :=
  if herdState s h = 2 ∧ (txWith s h 1).all (fun i => rdb s (Reg.HERD.LANE_TX_DONE h i)) = true then
    trainEnd s h
  else s

/-- ALIGN ends in UP once the device has deskewed and the partner shows RX_ALIGNED (R446); a replay
starts if anything is unreleased (R485). -/
def tryUp (s : State) (h : Nat) : State :=
  if herdState s h = 3 ∧ (s.herd h).deskewed = true ∧ (s.herd h).aligned = true then
    let s := raise (setHerdState s h 4) (Reg.HERD.evHERD_UP h)
    if (s.link h).buf.isEmpty then pump s h else replay s h
  else s

/-! ### Failover -/

/-- Take failed lanes out of a map and draw the lowest spares in turn, each once: the new map, and
whether a spare was wanting (R458, R461). -/
def drawMap (m failed spares : List Nat) : List Nat × Bool :=
  let kept := m.filter (fun i => !failed.contains i)
  let want := m.length - kept.length
  ((spares.take want).foldl (fun l i => insertAsc i l) kept, decide (spares.length < want))

/-- The lanes on which a failover's MAP words go: every working lane of the old and new transmit maps
(R458). -/
def mapLanes (s : State) (h : Nat) : List Nat :=
  let t := s.herd h
  (List.range (nTx h)).filter (fun i => (t.txMap.contains i || (t.newTx.getD []).contains i)
    && txRole s h i != 4)

/-- Spares of a direction that no pending map has taken. -/
def freeSpares (spares : List Nat) (new : Option (List Nat)) : List Nat :=
  spares.filter (fun i => !(new.getD []).contains i)

/-- Failed transmit lanes of the map in UP begin a failover, or join the one whose MAP words have not been sent (R457
to R462); or the herd leaves UP, if the map would fall below MIN_L (R447). -/
def txFailover (s : State) (h : Nat) (failed : List Nat) : State :=
  let t := s.herd h
  let d := drawMap (t.newTx.getD t.txMap) failed (freeSpares (txWith s h 3) t.newTx)
  if d.1.length < rd s (Reg.HERD.CTL_MIN_L h) then leaveUp s h
  else
    let s := (raiseIf d.2 s (Reg.HERD.evNO_SPARE h)).onHerd h fun t => { t with newTx := some d.1, mapTx := true }
    herdStopped (herdRegs s h) h

/-- Failed return lanes of the map in UP (R453, R460 to R462), or leave UP when none is left (R447). -/
def rxFailover (s : State) (h : Nat) (failed : List Nat) : State :=
  let t := s.herd h
  let d := drawMap (t.newRx.getD t.rxMap) failed (freeSpares (rxWith s h 3) t.newRx)
  if d.1 = [] then leaveUp s h
  else
    let s := (raiseIf d.2 s (Reg.HERD.evNO_SPARE h)).onHerd h fun t => { t with newRx := some d.1, mapRx := true }
    herdRegs s h

/-- The MAP words of a failover leave (R458): one for each direction that has a new map, on every working lane of the
old and the new transmit map. They leave with the idle tick, or at the latest before the switch marker (log entry
67). -/
def mapsDue (s : State) (h : Nat) : State :=
  let t := s.herd h
  if (t.mapTx || t.mapRx) && herdRuns s h then
    let s := if t.mapTx then sendTrains s h (mapLanes s h) (mapWord false (t.newTx.getD [])) else s
    let s := if t.mapRx then sendTrains s h (mapLanes s h) (mapWord true (t.newRx.getD [])) else s
    (s.onHerd h fun t => { t with mapTx := false, mapRx := false }).onLine h fun l => { l with after := 0 }
  else s

/-- A failover is in progress. -/
def inFailover (s : State) (h : Nat) : Bool := (s.herd h).newTx.isSome || (s.herd h).newRx.isSome

/-- A failure declared now starts a new failover at the switch marker: the MAP words of one have been sent (R462). -/
def failsLate (s : State) (h : Nat) : Bool := inFailover s h && !(s.herd h).mapTx && !(s.herd h).mapRx

/-- Transmit lanes have failed in ALIGN: the map is formed again at once, or the herd goes back to
RX_ACQ (R463). -/
def txAlignFail (s : State) (h : Nat) (failed : List Nat) : State :=
  let d := drawMap (s.herd h).txMap failed (txWith s h 3)
  if d.1.length < rd s (Reg.HERD.CTL_MIN_L h) then
    retryAcq (raise s (Reg.HERD.evALIGN_FAIL h)) h
  else
    let s := raiseIf d.2 s (Reg.HERD.evNO_SPARE h)
    let s := herdRegs (setTxMap (setTxRoles s h 2 d.1) h d.1) h
    sendTrains s h d.1 (mapWord false d.1)

def rxAlignFail (s : State) (h : Nat) (failed : List Nat) : State :=
  let d := drawMap (s.herd h).rxMap failed (rxWith s h 3)
  if d.1 = [] then retryAcq (raise s (Reg.HERD.evALIGN_FAIL h)) h
  else
    let s := setRxRoles (raiseIf d.2 s (Reg.HERD.evNO_SPARE h)) h 2 d.1
    let s := herdRegs (s.onHerd h fun t => { t with rxMap := d.1, deskewed := false }) h
    sendTrains s h (s.herd h).txMap (mapWord true d.1)

/-- Transmit lanes fail with a cause, in the herd's present state (R457, R458, R462, R463). -/
def txLanesFail (s : State) (h cause : Nat) (lanes : List Nat) : State :=
  let lanes := lanes.filter (fun i => i < nTx h && txRole s h i != 0 && txRole s h i != 4)
  let hit := lanes.filter (fun i => (s.herd h).txMap.contains i && txRole s h i == 2
    || ((s.herd h).newTx.getD []).contains i)
  let s := herdRegs ((lanes.foldl (fun s i => failTx s h cause i) s).onHerd h fun t =>
    { t with testTx := t.testTx.filter (fun i => !lanes.contains i) }) h
  if herdState s h = 4 then
    if hit = [] then s
    else if failsLate s h then herdStopped (s.onHerd h fun t => { t with lateTx := t.lateTx ++ hit }) h
    else txFailover s h hit
  else if herdState s h = 3 then (if hit = [] then s else txAlignFail s h hit)
  else trainCheck s h

/-- Return lanes fail with a cause (R453, R460, R462, R463). -/
def rxLanesFail (s : State) (h cause : Nat) (lanes : List Nat) : State :=
  let hit := lanes.filter (fun j => (s.herd h).rxMap.contains j || ((s.herd h).newRx.getD []).contains j)
  let s := herdRegs ((lanes.foldl (fun s j => failRx s h cause j) s).onHerd h fun t =>
    { t with ready := t.ready.filter (fun j => !lanes.contains j) }) h
  if hit = [] then s
  else if herdState s h = 4 then
    if failsLate s h then s.onHerd h fun t => { t with lateRx := t.lateRx ++ hit }
    else rxFailover s h hit
  else if herdState s h = 3 then rxAlignFail s h hit
  else
    let r := (s.herd h).ready
    let m := lowest (nomRx h) r
    herdRegs ((setRxRoles s h 2 m).onHerd h fun t => { t with rxMap := m }) h

/-! ### Commands: training -/

/-- A TRAIN message has arrived on return lane `j`: a locked lane in TRAINING becomes ready; in
RX_ACQ it may start TX_TRAIN, later it joins as a spare, and a tested lane ends its test (R442, R449,
R464). -/
def trainArrive (s : State) (h j : Nat) : State :=
  if rxRole s h j ≠ 1 ∨ rdb s (Reg.HERD.LANE_RX_BLK h j) = false then s
  else
    let test := (s.herd h).testRx.contains j
    let s := s.onHerd h fun t =>
      { t with ready := insertAsc j t.ready, testRx := t.testRx.filter (· != j) }
    let s := wrb s (Reg.HERD.STAT_ABSENT h) false
    if herdState s h = 1 then tryTrain s h
    else herdRegs (raiseIf test (setRxRole s h j 3) (Reg.HERD.evLANE_READY h)) h

/-- A word is received on a lane that has block lock and is not FAILED or OFF. -/
def hears (s : State) (h j : Nat) : Bool :=
  herdRuns s h && j < nRx h && herdState s h != 0 && rxRole s h j != 0 && rxRole s h j != 4
    && rdb s (Reg.HERD.LANE_RX_BLK h j)

/-- RX_BLOCK_LOCK (R442): clock recovery and block lock hold; none can while LNK coasts (R101). -/
def rxBlockLock (h : Fin 17) (j : Fin 4) (s : State) : State :=
  if herdRuns s h = false ∨ rd s Reg.CLK.ROOT_STAT_STATE = 3 ∨ nRx h ≤ j.val ∨ herdState s h = 0 ∨ rxRole s h j = 4 ∨ rxRole s h j = 0 then s
  else wrAll s [(Reg.HERD.LANE_RX_SIG h j, 1), (Reg.HERD.LANE_RX_CDR h j, 1), (Reg.HERD.LANE_RX_BLK h j, 1)]

def execRxBlockLock (h : Fin 17) (j : Fin 4) (s : State) : Host.Outcome State Fault Refusal :=
  .next (rxBlockLock h j s)

/-- Remember and send a RESPONSE on the lane it concerns (R440, R443). -/
def answer (s : State) (h i w : Nat) (keep : Bool) : State :=
  sendTrain (if keep then s.onHerd h fun t => { t with resp := vset t.resp i (some w) } else s) h i w

/-- A REQUEST that is applied to a lane in TRAINING (R443, R464). -/
def applyRequest (s : State) (h i w : Nat) : State :=
  let t0 := if bits w 16 2 = 1 then 0 else if bits w 16 2 = 2 then preset2 s h
    else rd s (Reg.HERD.LANE_COEF_TAPS h i)
  let r := tapCmds t0 w
  let seq := bits w 24 8
  let s := wr (wr s (Reg.HERD.LANE_COEF_TAPS h i) r.1) (Reg.HERD.LANE_TX_SEQ h i) seq
  let s := answer s h i (responseWord i r.2 seq r.1) true
  if bit w 18 = false then s
  else
    let s := wrb s (Reg.HERD.LANE_TX_DONE h i) true
    if (s.herd h).testTx.contains i then
      let s := s.onHerd h fun t => { t with testTx := t.testTx.filter (· != i) }
      herdRegs (raise (setTxRole s h i 3) (Reg.HERD.evLANE_READY h)) h
    else trainCheck s h

/-- What a REQUEST for transmit lane `i` does (R443, R451, R457). -/
def requestFor (s : State) (h i w : Nat) : State :=
  let r := txRole s h i
  if r = 0 ∨ r = 4 then s
  else if bit w 19 then txLanesFail s h 3 [i]
  else if r = 2 ∨ r = 3 then
    let s := answer s h i (responseWord i 0 (bits w 24 8) (rd s (Reg.HERD.LANE_COEF_TAPS h i))) false
    raise (bump s (Reg.HERD.CNT_REQ_REF h) 1) (Reg.HERD.evREQ_REFUSED h)
  else if herdState s h ≠ 2 ∧ (s.herd h).testTx.contains i = false then s
  else match vget (s.herd h).resp none i with
    | some old => if bits old 24 8 = bits w 24 8 then answer s h i old false else applyRequest s h i w
    | none => applyRequest s h i w

/-- A TRAIN message arrives on return lane `j` (R439, R471): a header that fails is counted, and what follows on the
lane is discarded up to an idle block; of a word of the kind wanted, `f` is what it does. -/
def trainTake (s : State) (h j hdr w : Nat) (gap : Bool) (kind : Nat) (f : State → State) : State :=
  if hears s h j = false then s
  else
    let s := if gap then s.onHerd h fun t => { t with seek := vset t.seek j false } else s
    if vget (s.herd h).seek false j then s
    else if headerOk hdr w = false then headerBad (s.onHerd h fun t => { t with seek := vset t.seek j true }) h
    else if hKind hdr ≠ 9 ∨ bits w 6 2 ≠ kind then s
    else f (trainArrive s h j)

/-- TRAIN_REQUEST (R439, R443, R451, R457). -/
def trainRequest (h : Fin 17) (j : Fin 4) (hdr w : Word64) (gap : Bool) (s : State) : State :=
  trainTake s h j hdr.toNat w.toNat gap 0 fun s =>
    if bit w.toNat 5 ∨ nTx h ≤ bits w.toNat 0 5 then s else requestFor s h (bits w.toNat 0 5) w.toNat

def execTrainRequest (h : Fin 17) (j : Fin 4) (hdr w : Word64) (gap : Bool) (s : State) :
    Host.Outcome State Fault Refusal := .next (trainRequest h j hdr w gap s)

/-- TRAIN_STATE (R439, R446, R447). -/
def trainState (h : Fin 17) (j : Fin 4) (hdr w : Word64) (gap : Bool) (s : State) : State :=
  trainTake s h j hdr.toNat w.toNat gap 2 fun s =>
    if herdState s h = 4 then (if bits w.toNat 8 3 ≠ 4 then leaveUp s h else s)
    else if herdState s h = 3 ∧ bit w.toNat 11 = true ∧ rxRole s h j = 2 then
      tryUp (s.onHerd h fun t => { t with aligned := true }) h
    else s

def execTrainState (h : Fin 17) (j : Fin 4) (hdr w : Word64) (gap : Bool) (s : State) :
    Host.Outcome State Fault Refusal := .next (trainState h j hdr w gap s)

/-- TRAIN_MAP (R439, R442): the announcement makes a locked lane ready; the return map itself is the
device's own (R442). -/
def trainMap (h : Fin 17) (j : Fin 4) (hdr w : Word64) (gap : Bool) (s : State) : State :=
  trainTake s h j hdr.toNat w.toNat gap 3 fun s => s

def execTrainMap (h : Fin 17) (j : Fin 4) (hdr w : Word64) (gap : Bool) (s : State) :
    Host.Outcome State Fault Refusal := .next (trainMap h j hdr w gap s)

/-- TRAIN_TIMEOUT (R445). -/
def trainTimeout (h : Fin 17) (s : State) : State := if herdRuns s h = true ∧ herdState s h = 2 then trainEnd s h else s

def execTrainTimeout (h : Fin 17) (s : State) : Host.Outcome State Fault Refusal :=
  .next (trainTimeout h s)

/-- ALIGN_TIMEOUT (R446). -/
def alignTimeout (h : Fin 17) (s : State) : State :=
  if herdRuns s h = true ∧ herdState s h = 3 then retryAcq (raise s (Reg.HERD.evALIGN_FAIL h)) h else s

def execAlignTimeout (h : Fin 17) (s : State) : Host.Outcome State Fault Refusal :=
  .next (alignTimeout h s)

/-- PARTNER_ABSENT (R449). -/
def partnerAbsent (h : Fin 17) (s : State) : State :=
  if herdRuns s h = true ∧ herdState s h = 1
      ∧ (List.range (nRx h)).all (fun j => !rdb s (Reg.HERD.LANE_RX_BLK h j)) = true then
    raise (bump (wrb s (Reg.HERD.STAT_ABSENT h) true) (Reg.HERD.CNT_RETRY h) 1)
      (Reg.HERD.evPARTNER_ABSENT h)
  else s

def execPartnerAbsent (h : Fin 17) (s : State) : Host.Outcome State Fault Refusal :=
  .next (partnerAbsent h s)

/-- PARTNER_SILENT (R450). -/
def partnerSilent (h : Fin 17) (s : State) : State :=
  if herdRuns s h = true ∧ (herdState s h = 2 ∨ herdState s h = 3) then
    retryAcq (raise s (Reg.HERD.evPARTNER_SILENT h)) h
  else s

def execPartnerSilent (h : Fin 17) (s : State) : Host.Outcome State Fault Refusal :=
  .next (partnerSilent h s)

/-- The block is an alignment marker of physical lane `j` (R474). -/
def markerOf (j : Nat) (b : RxBlock) : Bool :=
  b.sync == 2 && bits b.payload.toNat 0 8 == 0x4B && bits b.payload.toNat 32 4 == 0xF && bits b.payload.toNat 8 5 == j

/-- The return lanes of a map can be deskewed by these blocks, one of each lane (R446, R474): they are markers of one
count, and no two places differ by more than 64. -/
def deskews (map : List Nat) (blocks : List RxBlock) : Bool :=
  let at' := fun j => blocks.getD j ⟨0, 0, 0⟩
  map.all fun j => markerOf j (at' j) && map.all fun i =>
    bits (at' i).payload.toNat 16 8 == bits (at' j).payload.toNat 16 8 && decide ((at' i).place ≤ (at' j).place + 64)

/-- RETURN_LANES_DESKEWED (R446, R474). -/
def returnLanesDeskewed (h : Fin 17) (blocks : List RxBlock) (s : State) : State :=
  if herdRuns s h = true ∧ herdState s h = 3 ∧ deskews (s.herd h).rxMap blocks = true then
    tryUp (s.onHerd h fun t => { t with deskewed := true }) h
  else s

def execReturnLanesDeskewed (h : Fin 17) (blocks : List RxBlock) (s : State) : Host.Outcome State Fault Refusal :=
  .next (returnLanesDeskewed h blocks s)

/-! ### Commands: receivers -/

/-- The return lanes of a mask that are not OFF. -/
def rxOf (s : State) (h lanes : Nat) : List Nat :=
  (maskList (nRx h) lanes).filter (fun j => rxRole s h j != 0)

/-- A training lane that loses signal or lock is no longer ready. -/
def rxUnready (s : State) (h : Nat) (l : List Nat) : State :=
  s.onHerd h fun t => { t with ready := t.ready.filter (fun j => !l.contains j) }

/-- RX_LOS (R452, R453). -/
def rxLos (h : Fin 17) (lanes : Nat) (s : State) : State :=
  let l := rxOf s h lanes
  if herdRuns s h = false ∨ l = [] then s
  else
    let f := l.filter (fun j => rxRole s h j == 2 || rxRole s h j == 3)
    let s := l.foldl (fun s j => wr s (Reg.HERD.LANE_RX_SIG h j) 0) s
    rxLanesFail (raise (rxUnready s h l) (Reg.HERD.evRX_LOS h)) h 4 f

def execRxLos (h : Fin 17) (lanes : Nat) (s : State) : Host.Outcome State Fault Refusal :=
  .next (rxLos h lanes s)

/-- RX_SIGNAL_RETURN (R452). -/
def rxSignalReturn (h : Fin 17) (j : Fin 4) (s : State) : State :=
  if herdRuns s h = false ∨ nRx h ≤ j.val ∨ herdState s h = 0 then s else wr s (Reg.HERD.LANE_RX_SIG h j) 1

def execRxSignalReturn (h : Fin 17) (j : Fin 4) (s : State) : Host.Outcome State Fault Refusal :=
  .next (rxSignalReturn h j s)

/-- Return lanes lose lock: block lock, and clock recovery too if that is the reason (R453). -/
def lolOn (s : State) (h lanes : Nat) (cdr : Bool) : State :=
  let l := rxOf s h lanes
  if l = [] then s
  else
    let f := l.filter (fun j => rxRole s h j == 2 || rxRole s h j == 3)
    let s := l.foldl (fun s j => wr (if cdr then wr s (Reg.HERD.LANE_RX_CDR h j) 0 else s)
      (Reg.HERD.LANE_RX_BLK h j) 0) s
    rxLanesFail (raise (rxUnready s h l) (Reg.HERD.evRX_LOL h)) h 5 f

/-- RX_LOL (R453). -/
def rxLol (h : Fin 17) (lanes : Nat) (cdr : Bool) (s : State) : State :=
  if herdRuns s h then lolOn s h lanes cdr else s

/-- A herd loses its partner while LNK coasts (R101): every return lane is out of lock, and a herd in UP leaves it
(DEDUCED, log entry 60). -/
def partnerLost (s : State) (h : Nat) : State :=
  if herdState s h = 0 then s
  else
    let s := lolOn s h (2 ^ nRx h - 1) true
    if herdState s h = 4 then leaveUp s h else s

def execRxLol (h : Fin 17) (lanes : Nat) (cdr : Bool) (s : State) : Host.Outcome State Fault Refusal :=
  .next (rxLol h lanes cdr s)

/-- Every level's share of a window of 2^16 symbols lies from 1/8 to 3/8 (R454). -/
def levelsInside (levels : List Nat) : Bool :=
  (List.range 4).all fun i => decide (8192 ≤ levels.getD i 0) && decide (levels.getD i 0 ≤ 24576)

/-- A received block is discarded and counted (R436): its sync header is invalid, or it is a control block of another
type than idle and ordered set. The type alone decides (log entry 67). -/
def blockBad (b : RxBlock) : Bool :=
  !(b.sync == 1 || b.sync == 2 && (bits b.payload.toNat 0 8 == 0x1E || bits b.payload.toNat 0 8 == 0x4B))

/-- The equaliser of return lane `j` at a window's end (R454): a window inside the limits while nothing holds leaves taps
that the spec gives no arithmetic for, a free value; otherwise they stay as at the window's start. -/
def adaptTaps (s : State) (h j : Nat) (adapts : Bool) : State :=
  if adapts then
    let f := free s
    f.2.onHerd h fun t => { t with taps := vset t.taps j f.1 }
  else s

/-- ADAPT_WINDOW (R436, R454). -/
def adaptWindow (h : Fin 17) (j : Fin 4) (levels : List Nat) (blocks : List RxBlock) (s : State) : State :=
  let inside := levelsInside levels
  if herdRuns s h = false ∨ nRx h ≤ j.val ∨ rdb s (Reg.HERD.LANE_RX_BLK h j) = false then s
  else
    let s := bump s (Reg.HERD.LANE_RX_BLK_ERR h j) (blocks.countP blockBad)
    let hold := rdb s (Reg.HERD.LANE_RX_ADAPT_HOLD h j)
    let n := if inside && hold then vget (s.herd h).goodWin 0 j + 1 else 0
    let s := adaptTaps (s.onHerd h fun t => { t with goodWin := vset t.goodWin j n }) h j (inside && !hold)
    if inside = false then
      raiseIf (!hold) (wrb s (Reg.HERD.LANE_RX_ADAPT_HOLD h j) true) (Reg.HERD.evADAPT_HOLD h)
    else if 4 ≤ n then wrb s (Reg.HERD.LANE_RX_ADAPT_HOLD h j) false
    else s

def execAdaptWindow (h : Fin 17) (j : Fin 4) (levels : List Nat) (blocks : List RxBlock) (s : State) :
    Host.Outcome State Fault Refusal := .next (adaptWindow h j levels blocks s)

/-- One eye's result (R455). -/
def eyeRes (s : State) (h j e : Nat) (r : Nat × Nat) : State :=
  inc (wrAll s [(Reg.HERD.EYE_RES_HEIGHT h j e, min r.1 4095), (Reg.HERD.EYE_RES_WIDTH h j e, min r.2 63),
    (Reg.HERD.EYE_RES_VALID h j e, 1)]) (Reg.HERD.EYE_RES_SCANS h j e) 1

/-- Height and width of an eye (R455): the steps outward from the centre before the first closed point, in either
direction. -/
def eyeOf (thr : Nat) (e : EyeScan) : Nat × Nat :=
  let run := fun (l : List Nat) => (l.takeWhile (· ≤ thr)).length
  (run e.up + run e.down, run e.left + run e.right)

/-- The return lane whose scan is under way (R455): the next with block lock, in ascending number and round again. -/
def scanLane (s : State) (h : Nat) : Option Nat :=
  ((List.range (nRx h)).map (fun i => ((s.herd h).scan + i) % nRx h)).find? (fun j => rdb s (Reg.HERD.LANE_RX_BLK h j))

/-- EYE_SCAN_DONE (R455). -/
def eyeScanDone (h : Fin 17) (j : Fin 4) (x0 x1 x2 : EyeScan) (s : State) : State :=
  let eye := eyeOf (rd s (Reg.HERD.EYE_CTL_THR h))
  let e0 := eye x0
  let e1 := eye x1
  let e2 := eye x2
  if herdRuns s h = false ∨ scanLane s h ≠ some j.val ∨ rdb s (Reg.HERD.CTL_SCAN_EN h) = false then s
  else
    let s := s.onHerd h fun t => { t with scan := j + 1 }
    let s := eyeRes (eyeRes (eyeRes s h j 0 e0) h j 1 e1) h j 2 e2
    let low := fun (r : Nat × Nat) =>
      decide (r.1 < rd s (Reg.HERD.EYE_CTL_MIN_H h)) || decide (r.2 < rd s (Reg.HERD.EYE_CTL_MIN_W h))
    raiseIf (rxRole s h j == 2 && (low e0 || low e1 || low e2)) s (Reg.HERD.evMARGIN_LOW h)

def execEyeScanDone (h : Fin 17) (j : Fin 4) (e0 e1 e2 : EyeScan) (s : State) :
    Host.Outcome State Fault Refusal := .next (eyeScanDone h j e0 e1 e2 s)

/-! ### Commands: failover and lane tests -/

/-- TX_LANE_FAULT (R457, R459). -/
def txLaneFault (h : Fin 17) (lanes : Nat) (s : State) : State :=
  if herdRuns s h = false ∨ herdState s h = 0 then s else txLanesFail s h 1 (maskList (nTx h) lanes)

def execTxLaneFault (h : Fin 17) (lanes : Nat) (s : State) : Host.Outcome State Fault Refusal :=
  .next (txLaneFault h lanes s)

/-- The failures declared after the MAP words start a new failover (R462). -/
def lateFailover (s : State) (h : Nat) : State :=
  let t := s.herd h
  let tx := t.lateTx.filter (fun i => t.txMap.contains i)
  let rx := t.lateRx.filter (fun j => t.rxMap.contains j)
  let s := s.onHerd h fun t => { t with lateTx := [], lateRx := [] }
  let s := if tx = [] then s else txFailover s h tx
  if rx = [] ∨ herdState s h ≠ 4 then s else rxFailover s h rx

/-- A waiting map takes effect (R458): its spares become ACTIVE, but for one that has failed since. -/
def takeMaps (s : State) (h : Nat) : State :=
  let t := s.herd h
  let tx := t.newTx.getD t.txMap
  let rx := t.newRx.getD t.rxMap
  let s := s.onHerd h fun t => { t with newTx := none, newRx := none, rxMap := rx }
  let s := setTxRoles s h 2 (tx.filter (fun i => txRole s h i == 3 && !t.lateTx.contains i))
  let s := setRxRoles s h 2 (rx.filter (fun j => rxRole s h j == 3 && !t.lateRx.contains j))
  let s := s.onLink h fun l => { l with seek := l.seek || t.newRx.isSome }
  herdRegs (setTxMap s h tx) h

/-- SWITCH_MARKER (R458, R459, R461, R475, R485): after the MAP words, idle blocks up to the marker, which goes out over
the old map; then the new map is in effect, a replay begins, and a late failure starts its failover (R462). -/
def switchMarker (h : Fin 17) (s : State) : State :=
  if herdRuns s h = false ∨ herdState s h ≠ 4 ∨ inFailover s h = false then s
  else
    let s := takeMaps (sendSwitch (mapsDue s h) h) h
    let s := raise (bump s (Reg.HERD.CNT_FAILOVER h) 1) (Reg.HERD.evFAILOVER_DONE h)
    lateFailover (replay s h) h

def execSwitchMarker (h : Fin 17) (s : State) : Host.Outcome State Fault Refusal :=
  .next (switchMarker h s)

/-- What a write of HERD[h].CMD does (R447, R464), unless THERM_CRIT has stopped the block (R68). -/
def herdCmdEffect (s : State) (h v : Nat) : State :=
  if herdRuns s h = false then s else
  let s := if bit v 0 ∧ herdState s h = 4 then leaveUp s h else s
  let i := bits v 8 5
  if bit v 1 = false ∨ herdState s h ≠ 4 then s
  else if bit v 13 then
    if nRx h ≤ i ∨ rxRole s h i ≠ 4 then s
    else
      let s := wrAll s [(Reg.HERD.LANE_RX_ROLE h i, 1), (Reg.HERD.LANE_RX_CAUSE h i, 0),
        (Reg.HERD.LANE_RX_CDR h i, 0), (Reg.HERD.LANE_RX_BLK h i, 0)]
      s.onHerd h fun t => { t with testRx := insertAsc i t.testRx }
  else if nTx h ≤ i ∨ txRole s h i ≠ 4 then s
  else
    let s := startPreset2 (wrAll s [(Reg.HERD.LANE_TX_ROLE h i, 1), (Reg.HERD.LANE_TX_CAUSE h i, 0)]) h i
    s.onHerd h fun t => { t with testTx := insertAsc i t.testTx }

/-- LANE_TEST_TIMEOUT (R464). -/
def laneTestTimeout (h : Fin 17) (lane : Fin 19) (ret : Bool) (s : State) : State :=
  if herdRuns s h = false then s
  else if ret then
    if (s.herd h).testRx.contains lane.val = false then s
    else failRx (s.onHerd h fun t => { t with testRx := t.testRx.filter (· != lane.val) }) h 2 lane
  else if (s.herd h).testTx.contains lane.val = false then s
  else failTx (s.onHerd h fun t => { t with testTx := t.testTx.filter (· != lane.val) }) h 2 lane

def execLaneTestTimeout (h : Fin 17) (lane : Fin 19) (ret : Bool) (s : State) :
    Host.Outcome State Fault Refusal := .next (laneTestTimeout h lane ret s)

/-! ### Gate and reset -/

/-- The herd follows its gate (R441, R464): gated, it is OFF with every lane idle and its records kept;
running, it enters RX_ACQ. -/
def herdFollow (s : State) (h : Nat) : State :=
  if treatedGated s (Reg.HERD.page h) then
    if herdState s h = 0 then s
    else
      let off := (List.range (nTx h)).filter (fun i => txRole s h i != 4)
      let s := (setTxRoles s h 0 off).onLine h fun l => l.off off
      let s := setRxRoles s h 0 ((List.range (nRx h)).filter (fun j => rxRole s h j != 4))
      let s := s.onHerd h fun t =>
        { t with rxMap := [], newTx := none, newRx := none, mapTx := false, mapRx := false, lateTx := [], lateRx := []
                 ready := [], deskewed := false, aligned := false, testTx := [], testRx := [] }
      herdStopped (herdRegs (setHerdState s h 0) h) h
  else if herdState s h = 0 ∧ blockRuns s (Reg.HERD.page h) = true then enterAcq s h
  else s

end Sys2Proof.Machine
end

