-- ==== Sys2Proof/Machine/Clock.lean ====
section
/-! DEFINITION. Clocks (chapter 03): what a commit of the CLK page starts, loss and return of CLKIN,
the root loop, and the monitors. -/

namespace Sys2Proof.Machine

/-! ### Domains -/

/-- Nominal periods of the domains in 1/36 ns (R78). -/
def nominalPeriod (d : Nat) : Nat := vget #v[18, 24, 30, 144, 45, 360] 360 d

/-- The clock that CLK.DOM_CTL[d] in effect asks for (R82, R122). -/
def committedSource (s : State) (d : Nat) : Source :=
  match rd s (Reg.CLK.DOM_CTL_SRC d) with
  | 1 => .root (rd s (Reg.CLK.DOM_CTL_DIV d))
  | 2 => .bypass (rd s (Reg.CLK.DOM_CTL_BYP_DIV d))
  | _ => .stopped

/-- Domain `d` delivers edges now. -/
def domDelivers (s : State) (d : Nat) : Bool := domRunning s d && !domSwitching s d

/-- Domain `d` runs above its nominal frequency (R80). -/
def domOver (s : State) (d : Nat) : Bool := domDelivers s d && decide (domPeriod s d < nominalPeriod d)

/-- Domain `d` runs from its bypass divider. -/
def domBypass (s : State) (d : Nat) : Bool :=
  domDelivers s d && (match vget s.clk.cur .stopped d with | .bypass _ => true | _ => false)

/-- The mask of the domains with a property. -/
def domMask (f : Nat → Bool) : Nat := listMask ((List.range 6).filter f)

/-- CLK.DOM_STAT follows the domains (R80, R82, R122). -/
def clkRegs (s : State) : State :=
  let s := wr s Reg.CLK.DOM_STAT_BUSY (domMask (fun d => (vget s.clk.next none d).isSome))
  let o := domMask (domOver s)
  let b := domMask (domBypass s)
  let r := domMask (domDelivers s)
  wrAll s [(Reg.CLK.DOM_STAT_OVERSPEED, o), (Reg.CLK.DOM_STAT_ON_BYPASS, b), (Reg.CLK.DOM_STAT_RUNNING, r)]

/-- Domain `d` begins to switch to a clock (R82 step 1). -/
def switchTo (s : State) (d : Nat) (x : Source) : State :=
  clkRegs (s.onClk fun c => { c with next := vset c.next d (some x) })

/-- A clock at its own frequency, the root at 12 GHz, is above the domain's nominal frequency (R80). -/
def sourceOver (d : Nat) (x : Source) : Bool :=
  x != .stopped && decide (srcPeriod true x < nominalPeriod d)

/-- A commit changed SRC, DIV or BYP_DIV in effect of domain `d`: a switch, unless the clock stays the
one it runs from (R82); OVERSPEED (R80). -/
def domCommit (old : Fld → Nat) (s : State) (d : Nat) : State :=
  let x := committedSource s d
  if [Reg.CLK.DOM_CTL_SRC d, Reg.CLK.DOM_CTL_DIV d, Reg.CLK.DOM_CTL_BYP_DIV d].all (fun f => old f == rd s f)
    ∨ x = vget s.clk.cur .stopped d then s
  else raiseIf (sourceOver d x) (switchTo s d x) Reg.CLK.evOVERSPEED

/-- A commit of the CLK page, which finds no domain switching (R82, R84). -/
def clkCommit (s : State) (old : Fld → Nat) : State := (List.range 6).foldl (domCommit old) s

/-- The settings of the CLK page. -/
def clkSettings : List Fld :=
  (List.range 6).flatMap (fun d => [Reg.CLK.DOM_CTL_DIV d, Reg.CLK.DOM_CTL_SRC d, Reg.CLK.DOM_CTL_BYP_DIV d])
    ++ [Reg.CLK.GATE_TMO_CYC, Reg.CLK.MON_CTL_TOL_PPM, Reg.CLK.MON_CTL_WIN_MS, Reg.CLK.MON_CTL_RETURN_MS,
      Reg.CLK.TSTATE_DEB]

/-- A page reset of CLK (R120), once its registers are cleared: `old` reads the page as it was.  A commit held
under R84 still waits, and COMMIT_HELD says so (R160; DESIGN CHOICE, log entry 54). -/
def clkPageReset (s : State) (old : Fld → Nat) : State :=
  wrAll (keepAll s old clkSettings) [(Reg.HDR.PG_STAT_COMMIT_HELD Reg.CLK.page, b2n (s.clk.held != 0)),
    (Reg.CLK.DOM_STAT_BUSY, old Reg.CLK.DOM_STAT_BUSY), (Reg.CLK.DOM_STAT_OVERSPEED, old Reg.CLK.DOM_STAT_OVERSPEED),
    (Reg.CLK.DOM_STAT_ON_BYPASS, old Reg.CLK.DOM_STAT_ON_BYPASS),
    (Reg.CLK.DOM_STAT_RUNNING, old Reg.CLK.DOM_STAT_RUNNING),
    (Reg.CLK.MON_STAT_DEV_PPM, old Reg.CLK.MON_STAT_DEV_PPM), (Reg.CLK.MON_STAT_PRESENT, old Reg.CLK.MON_STAT_PRESENT),
    (Reg.CLK.MON_STAT_LOST, old Reg.CLK.MON_STAT_LOST), (Reg.CLK.MON_STAT_UNLOCK, old Reg.CLK.MON_STAT_UNLOCK),
    (Reg.CLK.MON_STAT_SQUELCH, old Reg.CLK.MON_STAT_SQUELCH), (Reg.CLK.ROOT_STAT_STATE, old Reg.CLK.ROOT_STAT_STATE),
    (Reg.CLK.TSTATE_NOW, old Reg.CLK.TSTATE_NOW), (Reg.CLK.TSTATE_RAW, old Reg.CLK.TSTATE_RAW),
    (Reg.CLK.SETTLE_US, old Reg.CLK.SETTLE_US), (Reg.CLK.SETTLE_FROM_OTP, old Reg.CLK.SETTLE_FROM_OTP)]

/-! ### The root loop -/

/-- The root loop begins an acquisition (R76, R89). -/
def acquire (s : State) : State :=
  let s := bump (wr s Reg.CLK.ROOT_STAT_STATE 1) Reg.CLK.ROOT_STAT_ACQ_CNT 1
  clkRegs (s.onClk fun c => { c with measQ := 4 * 65536, winUnits := 0 })

/-- The root loop locks (R76, R448). -/
def lockRoot (s : State) : State :=
  herdsTryTrain (raise (clkRegs (wr s Reg.CLK.ROOT_STAT_STATE 2)) Reg.CLK.evROOT_LOCK)

/-- What R86 does to domain `d` when loss is declared: a domain on bypass has lost its clock, and it, or
a switch to bypass, goes to the root. -/
def offBypass (s : State) (d : Nat) : State :=
  let lost : Bool := match vget s.clk.cur .stopped d with | .bypass _ => true | _ => false
  let x := Source.root (rd s (Reg.CLK.DOM_CTL_DIV d))
  let next := match vget s.clk.next none d with
    | some (.bypass _) => some x
    | some y => some y
    | none => if lost then some x else none
  s.onClk fun c => { c with next := vset c.next d next, cur := if lost then vset c.cur d .stopped else c.cur }

/-- TRUST is cleared, and TRUST_LOST raised if it was 1 (R117). -/
def loseTrust (s : State) : State :=
  raiseIf (rdb s Reg.TIME.STAT_TRUST) (setTrust s 0) Reg.TIME.evTRUST_LOST

/-- Loss is declared (R99, R100, R101, R104) if the loop acquires or is locked; on a coasting device PRESENT follows
the edges. -/
def declareLoss (unlock present : Bool) (s : State) : State :=
  if rd s Reg.CLK.ROOT_STAT_STATE = 1 ∨ rd s Reg.CLK.ROOT_STAT_STATE = 2 then
    let s := wrAll s [(Reg.CLK.MON_STAT_LOST, 1), (Reg.CLK.MON_STAT_UNLOCK, b2n unlock),
      (Reg.CLK.MON_STAT_PRESENT, b2n present), (Reg.CLK.MON_STAT_SQUELCH, 1), (Reg.CLK.ROOT_STAT_STATE, 3)]
    let s := (List.range 17).foldl partnerLost (clkRegs ((List.range 6).foldl offBypass s))
    follow (raise (loseTrust s) Reg.CLK.evCLKIN_LOSS)
  else wrb s Reg.CLK.MON_STAT_PRESENT present

/-- Start of FAB, MGT and SLO from what `f` gives (R95 step 3): no switch under R82, so no BUSY, no
DOM_SWITCH_DONE and no advance of R88 (DESIGN CHOICE, log entry 54). -/
def startDomains (s : State) (f : Nat → Source) : State :=
  clkRegs (s.onClk fun c => { c with cur := vset (vset (vset c.cur 2 (f 2)) 4 (f 4)) 5 (f 5) })

/-- Step 3 of R95: with CLKIN present the domains start on bypass and the loop acquires; without it they
start on the coasting root, which is a loss declaration in full. -/
def clockStart (clkin : Bool) (s : State) : State :=
  if clkin then
    acquire (startDomains (wrb s Reg.CLK.MON_STAT_PRESENT true) (fun d => .bypass (rd s (Reg.CLK.DOM_CTL_BYP_DIV d))))
  else
    let s := wrAll s [(Reg.CLK.MON_STAT_LOST, 1), (Reg.CLK.MON_STAT_SQUELCH, 1), (Reg.CLK.ROOT_STAT_STATE, 3)]
    raise (startDomains s (fun d => .root (rd s (Reg.CLK.DOM_CTL_DIV d)))) Reg.CLK.evCLKIN_LOSS

/-! ### Commands -/

/-- CLKIN_LOSS (R99, R100). -/
def execClkinLoss (s : State) : Host.Outcome State Fault Refusal := .next (declareLoss false false s)

/-- ROOT_LOSS_OF_LOCK (R99): the loop loses lock with CLKIN edges present. -/
def execRootLossOfLock (s : State) : Host.Outcome State Fault Refusal :=
  .next (if rd s Reg.CLK.ROOT_STAT_STATE = 2 then declareLoss true true s else s)

/-- ROOT_ACQ_TIMEOUT (R76, R104). -/
def execRootAcqTimeout (s : State) : Host.Outcome State Fault Refusal :=
  .next (if rd s Reg.CLK.ROOT_STAT_STATE = 1 then declareLoss true true s else s)

/-- A domain that R86 moved off bypass goes back (R86). -/
def backToBypass (s : State) (d : Nat) : State :=
  match committedSource s d, vget s.clk.cur .stopped d, vget s.clk.next none d with
  | .bypass b, .root _, none => switchTo s d (.bypass b)
  | .bypass b, _, some (.root _) => switchTo s d (.bypass b)
  | _, _, _ => s

/-- CLKIN_RETURN (R102, R86): edges are back (R122), and their return may be qualified. -/
def clkinReturn (qualified : Bool) (s : State) : State :=
  if rdb s Reg.CLK.MON_STAT_LOST = false then s
  else if qualified = false then wrb s Reg.CLK.MON_STAT_PRESENT true
  else
    let s := wrAll s [(Reg.CLK.MON_STAT_LOST, 0), (Reg.CLK.MON_STAT_UNLOCK, 0), (Reg.CLK.MON_STAT_PRESENT, 1)]
    follow ((List.range 6).foldl backToBypass (acquire (raise s Reg.CLK.evCLKIN_RETURN)))

def execClkinReturn (qualified : Bool) (s : State) : Host.Outcome State Fault Refusal :=
  .next (clkinReturn qualified s)

/-- DRIFT_WINDOW (R98): the window's mean deviation in ppm; a window measured shows CLKIN present. -/
def driftWindow (ppm : Int) (s : State) : State :=
  let tol := rd s Reg.CLK.MON_CTL_TOL_PPM
  let s := wrb (wr s Reg.CLK.MON_STAT_DEV_PPM (unsext 16 (clampI (-32767) 32767 ppm))) Reg.CLK.MON_STAT_PRESENT true
  if tol ≤ ppm.natAbs then
    raiseIf (!rdb s Reg.CLK.MON_STAT_DRIFT) (wrb s Reg.CLK.MON_STAT_DRIFT true) Reg.CLK.evCLKIN_DRIFT
  else if 2 * ppm.natAbs < tol then wrb s Reg.CLK.MON_STAT_DRIFT false
  else s

def execDriftWindow (ppm : Int) (s : State) : Host.Outcome State Fault Refusal := .next (driftWindow ppm s)

/-- What a write of CLK.LOSS_ACK does (R103, R448). -/
def lossAckEffect (s : State) (v : Nat) : State :=
  if bit v 0 && rd s Reg.CLK.ROOT_STAT_STATE == 2 && rdb s Reg.CLK.MON_STAT_SQUELCH then
    herdsTryTrain (follow (wrb s Reg.CLK.MON_STAT_SQUELCH false))
  else s

/-- TSTATE_ACCEPT (R105, R106): the pins have held `code` for `held` SLO cycles.  RAW shows it, and NOW takes it
once they have held it for TSTATE.DEB cycles. -/
def tstateAccept (code : BitVec 3) (held : Nat) (s : State) : State :=
  let s := wr s Reg.CLK.TSTATE_RAW code.toNat
  if code.toNat = rd s Reg.CLK.TSTATE_NOW ∨ held < rd s Reg.CLK.TSTATE_DEB then s
  else
    let s := wr s Reg.CLK.TSTATE_NOW code.toNat
    raiseIf (code == 0 || code == 6 || code == 7) (raise s Reg.CLK.evTSTATE_CHG) Reg.CLK.evTSTATE_INVALID

def execTstateAccept (pins : PinsHeld) (s : State) : Host.Outcome State Fault Refusal :=
  .next (tstateAccept pins.code pins.held s)

/-- PHASE_STEP (R107, R109): a step in ps, positive for later edges; device time is not corrected.  A step that
does not fit LAST_PS shows there as -32,768 or 32,767 (DESIGN CHOICE, log entry 54). -/
def phaseStep (ps : Int) (s : State) : State :=
  let s := wr (wr s Reg.CLK.PSTEP_LAST_PS (unsext 16 (clampI (-32768) 32767 ps))) Reg.CLK.PSTEP_TS_AT
    (rd s Reg.CLK.TSTATE_NOW)
  let s := if 100 ≤ ps.natAbs then raise (bump s Reg.CLK.PSTEP_COUNT 1) Reg.CLK.evPHASE_STEP else s
  raiseIf (decide (400 < ps.natAbs)) s Reg.CLK.evPHASE_STEP_LARGE

def execPhaseStep (ps : Int) (s : State) : Host.Outcome State Fault Refusal := .next (phaseStep ps s)

end Sys2Proof.Machine
end

