-- ==== Sys2Proof/Machine/Time.lean ====
section
/-! DEFINITION. Device time by command, SYNC_IN and SYNC_OUT (chapter 03). -/

namespace Sys2Proof.Machine

/-- The modulus of device time in 1/36 ns. -/
def timeMod : Nat := 36 * 2 ^ 64

/-! ### SYNC_OUT (R111, R118, R637) -/

/-- The first instant of R111, in ns, at or after a device time in 1/36 ns.  Device time wraps at 2^64 ns: past
the last instant before that comes PHASE_NS of the next turn, counted on from the same zero. -/
def firstOut (s : State) (u : Nat) : Nat :=
  let c := (u + 35) / 36
  let ph := rd s Reg.TIME.SYNC_OUT_PHASE_PHASE_NS
  let per := rd s Reg.TIME.SYNC_OUT_PER_PER_NS
  let n := if c ≤ ph then ph else ph + (c - ph + per - 1) / per * per
  if n < 2 ^ 64 then n else 2 ^ 64 + ph

/-- The schedule starts again from now (R118). -/
def replanOut (s : State) : State :=
  let n := firstOut s s.time.units
  s.onTime fun t => { t with nextOut := n }

/-- The width of a pulse in ns (R111). -/
def outWidth (s : State) : Nat :=
  let w := rd s Reg.TIME.SYNC_OUT_CTL_WIDTH * 100
  let per := rd s Reg.TIME.SYNC_OUT_PER_PER_NS
  if w < per then w else per / 2 / 100 * 100

/-- SYNC_OUT_RISE (R111): device time has reached the next instant; the schedule goes on from the first
instant after it (R637). -/
def syncOutRise (s : State) : State :=
  if rdb s Reg.TIME.SYNC_OUT_CTL_EN = false ∨ s.bus.accepting = false then s
  else
    let s := advNs s s.time.nextOut
    if s.time.units < 36 * s.time.nextOut then s
    else
      let n := firstOut s (s.time.units + 1)
      let e := s.time.uptime + 36 * outWidth s
      s.onTime fun t => { t with nextOut := n, outEnd := some e }

def execSyncOutRise (s : State) : Host.Outcome State Fault Refusal := .next (syncOutRise s)

/-- SYNC_OUT_FALL (R111): the width has passed. -/
def syncOutFall (s : State) : State :=
  match s.time.outEnd with
  | none => s
  | some e => (advUp s e).onTime fun t => { t with outEnd := none }

def execSyncOutFall (s : State) : Host.Outcome State Fault Refusal := .next (syncOutFall s)

/-- A commit of TIME (R111, R118, R125). -/
def timeCommit (s : State) (old : Fld → Nat) : State :=
  let s := wr s Reg.TIME.SYNC_OUT_PHASE_PHASE_NS
    (rd s Reg.TIME.SYNC_OUT_PHASE_PHASE_NS % rd s Reg.TIME.SYNC_OUT_PER_PER_NS)
  let s := if rdb s Reg.TIME.SYNC_OUT_CTL_EN then s else s.onTime fun t => { t with outEnd := none }
  if [Reg.TIME.SYNC_OUT_PHASE_PHASE_NS, Reg.TIME.SYNC_OUT_PER_PER_NS, Reg.TIME.SYNC_OUT_CTL_EN].all
    (fun f => old f == rd s f) then s
  else replanOut s

/-! ### Commands (R114 to R119) -/

/-- ADJ_FRAC as a number of 1/36 ns, to the nearest (R125). -/
def adjFrac (s : State) : Nat := (rd s Reg.TIME.ADJ_FRAC_FRAC * 36 + 32768) / 65536

/-- ADJ_HI and ADJ_LO as one word. -/
def adjNs (s : State) : Nat := rd s Reg.TIME.ADJ_HI_NS * 2 ^ 32 + rd s Reg.TIME.ADJ_LO_NS

/-- A command executes: device time becomes `u` 1/36 ns; windows see the step (R331, R384), SYNC_OUT goes
on from there (R118), and TRUST, STEPS and TIME_CMD_DONE follow (R115, R117). -/
def setTime (s : State) (u : Nat) : State :=
  let o := s.time.units
  let u := u % timeMod
  let s := s.onTime fun t => { t with units := u, cmdDelta := t.cmdDelta + ((u : Int) - o) }
  let s := (List.range 16).foldl (fun s p => tstatStep s p o u) s
  let s := replanOut (accuStep s o u)
  let s := if rd s Reg.CLK.ROOT_STAT_STATE = 2 then setTrust s 1 else s
  raise (bump s Reg.TIME.STAT_STEPS 1) Reg.TIME.evTIME_CMD_DONE

/-- A SET_AT_SYNC_IN fails (R116). -/
def cmdFail (s : State) : State :=
  raise (wrb (wrb s Reg.TIME.STAT_PEND false) Reg.TIME.STAT_FAILED true) Reg.TIME.evCMD_FAIL

/-- STEP: device time plus ADJ, a signed count of ns with an unsigned fraction. -/
def stepTime (s : State) : State :=
  setTime s (((s.time.units : Int) + 36 * sext 64 (adjNs s) + adjFrac s) % (timeMod : Int)).toNat

/-- What a write of TIME.CMD does (R115, R116). -/
def timeCmdEffect (s : State) (v : Nat) : State :=
  let op := v % 8
  if op = 4 then wrb s Reg.TIME.STAT_PEND false
  else if op = 0 ∨ 4 < op then s
  else if rdb s Reg.TIME.STAT_PEND then wrb s Reg.TIME.STAT_REFUSED true
  else if op = 1 then stepTime s
  else if op = 2 then setTime s (36 * adjNs s + adjFrac s)
  else if rdb s Reg.TIME.STAT_SYNC_IN_OK = false then cmdFail s
  else
    let a := (36 * adjNs s + adjFrac s) % timeMod
    wrb (s.onTime fun t => { t with pendAdj := a, pendAt := t.uptime }) Reg.TIME.STAT_PEND true

/-- 1.125 times EXP_US, in 1/36 ns (R113, R116). -/
def expLimit (s : State) : Nat := 9 * (rd s Reg.TIME.SYNC_IN_CTL_EXP_US * 36000) / 8

/-- SET_AT_SYNC_IN_TIMEOUT (R116). -/
def setAtSyncInTimeout (s : State) : State :=
  if rdb s Reg.TIME.STAT_PEND then cmdFail (advUp s (s.time.pendAt + expLimit s)) else s

def execSetAtSyncInTimeout (s : State) : Host.Outcome State Fault Refusal := .next (setAtSyncInTimeout s)

/-! ### SYNC_IN (R110, R112, R113) -/

/-- SYNC_IN_OFS of a stamp in 1/36 ns (R112): to the nearest instant, of two equally near the earlier. -/
def syncOfs (s : State) (u : Nat) : Int :=
  let per : Int := 36 * rd s Reg.TIME.SYNC_OUT_PER_PER_NS
  let r := ((u : Int) - 36 * rd s Reg.TIME.SYNC_OUT_PHASE_PHASE_NS) % per
  Int.tdiv (if 2 * r ≤ per then r else r - per) 36

/-- The interval since the previous edge, 1/36 ns (R110). -/
def syncInterval (s : State) (u : Nat) : Option Nat :=
  match s.time.lastEdge with
  | none => none
  | some l => some (((u : Int) - l - s.time.cmdDelta) % (timeMod : Int)).toNat

/-- What an interval does (R113): SYNC_IN_INT takes it in whole ns, rounded down, at most 32 bits; the first edge,
which has no previous one, leaves it as it is (DESIGN CHOICE, log entry 54). -/
def syncJudge (s : State) (i : Nat) : State :=
  let e := rd s Reg.TIME.SYNC_IN_CTL_EXP_US * 36000
  let diff := ((i : Int) - e).natAbs
  let s := wr s Reg.TIME.SYNC_IN_INT_NS (min (i / 36) 0xFFFFFFFF)
  let s := raiseIf (decide (3600 < diff)) s Reg.TIME.evSYNC_IN_JUMP
  if 8 * diff ≤ e then
    raiseIf (!rdb s Reg.TIME.STAT_SYNC_IN_OK) (wrb s Reg.TIME.STAT_SYNC_IN_OK true) Reg.TIME.evSYNC_IN_RETURN
  else s

/-- The pending SET_AT_SYNC_IN executes in the FAB cycle after the edge stamped `u`: device time becomes ADJ plus
the time elapsed since that stamp (R115). -/
def setAtEdge (s : State) (u : Nat) : State :=
  let s := fabTick (wrb s Reg.TIME.STAT_PEND false)
  setTime s (s.time.pendAdj + (s.time.units + timeMod - u) % timeMod)

/-- SYNC_IN_EDGE (R110, R112, R113, R115): the edge comes `sub` 1/36 ns after the last FAB edge.  With a
SET_AT_SYNC_IN pending it is stamped ADJ. SYNC_IN_OFS is computed at the edge, from PER_NS and PHASE_NS in effect
there, and a later commit of them leaves it (DESIGN CHOICE, log entry 63). -/
def syncInEdge (sub : Nat) (s : State) : State :=
  let e := (s.time.units + min sub (domPeriod s 2)) % timeMod
  let i := syncInterval s e
  let pend := rdb s Reg.TIME.STAT_PEND
  let u := if pend then s.time.pendAdj else e
  let s := if pend then setAtEdge s e else s
  let s := wrAll s [(Reg.TIME.SYNC_IN_TS_LO_NS, u / 36), (Reg.TIME.SYNC_IN_TS_HI_NS, u / 36 / 2 ^ 32),
    (Reg.TIME.SYNC_IN_TS_FRAC_FRAC, fracOf u), (Reg.TIME.SYNC_IN_OFS_NS, unsext 32 (syncOfs s u))]
  let s := match i with
    | none => s
    | some i => syncJudge s i
  s.onTime fun t => { t with lastEdge := some u, cmdDelta := 0 }

def execSyncInEdge (sub : Nat) (s : State) : Host.Outcome State Fault Refusal := .next (syncInEdge sub s)

/-- SYNC_IN_MISS (R113): no edge within 1.125 EXP_US of the previous one. -/
def syncInMiss (s : State) : State :=
  match s.time.lastEdge with
  | none => s
  | some l =>
    if rdb s Reg.TIME.STAT_SYNC_IN_OK = false then s
    else
      let t := ((l : Int) + s.time.cmdDelta + expLimit s).toNat
      raise (wrb (advNs s ((t + 35) / 36)) Reg.TIME.STAT_SYNC_IN_OK false) Reg.TIME.evSYNC_IN_MISS

def execSyncInMiss (s : State) : Host.Outcome State Fault Refusal := .next (syncInMiss s)

/-! ### Page reset -/

/-- The settings of the TIME page. -/
def timeSettings : List Fld := [Reg.TIME.SYNC_IN_CTL_EXP_US, Reg.TIME.SYNC_OUT_PER_PER_NS,
  Reg.TIME.SYNC_OUT_PHASE_PHASE_NS, Reg.TIME.SYNC_OUT_CTL_EN, Reg.TIME.SYNC_OUT_CTL_WIDTH]

/-- A page reset of TIME (R120), once its registers are cleared: `old` reads the page as it was. -/
def timePageReset (s : State) (old : Fld → Nat) : State :=
  wrAll (keepAll s old timeSettings) [(Reg.TIME.STAT_TRUST, old Reg.TIME.STAT_TRUST),
    (Reg.TIME.SYNC_IN_TS_LO_NS, old Reg.TIME.SYNC_IN_TS_LO_NS),
    (Reg.TIME.SYNC_IN_TS_HI_NS, old Reg.TIME.SYNC_IN_TS_HI_NS),
    (Reg.TIME.SYNC_IN_TS_FRAC_FRAC, old Reg.TIME.SYNC_IN_TS_FRAC_FRAC),
    (Reg.TIME.SYNC_IN_INT_NS, old Reg.TIME.SYNC_IN_INT_NS), (Reg.TIME.SYNC_IN_OFS_NS, old Reg.TIME.SYNC_IN_OFS_NS)]

end Sys2Proof.Machine
end

