-- ==== Sys2Proof/Machine/Commit.lean ====
section
/-! DEFINITION. Commits, gates and page resets (chapters 03, 04 and 05): what a commit puts into effect,
when the block acts on it, how a gate opens and closes, and what a page reset leaves. -/

namespace Sys2Proof.Machine

/-! ### What a commit puts into effect -/

/-- The value that a committed value takes effect as (R14). -/
def Clamp.apply : Clamp → Nat → Nat
  | .any, v => v
  | .rng lo hi, v => clampN lo hi v
  | .srng w lo hi, v => unsext w (clampI lo hi (sext w v))
  | .gtZero hi, v => if hi < v then 0 else v
  | .odd lo hi, v => clampN lo hi (if v % 2 = 0 then v - 1 else v)

/-- The row of a field by its place; none for a place with no field. -/
def fieldAt (pg off lo : Nat) : Option FRow :=
  match rowAt pg off with
  | none => none
  | some r => findField r.fields lo

/-- Offset and lowest bit of a key. -/
def keyOff (k : Nat) : Nat := k / 32 * 4 % 4096

def keyLo (k : Nat) : Nat := k % 32

/-- A commit of one field, by its key (R14, R163). -/
def commitKey (pg : Nat) (s : State) (k : Nat) : State :=
  match fieldAt pg (keyOff k) (keyLo k) with
  | none => s
  | some f =>
    let x : Fld := ⟨pg, keyOff k, keyLo k, f.width⟩
    if f.shad then wr s x (f.clamp.apply (rdS s x)) else s

/-- Every shadow of a page goes into effect; a field that neither store lists is at its reset value in
both. -/
def applyShadows (s : State) (pg : Nat) : State :=
  ((pagePart s.shad pg).map (·.1) ++ (pagePart s.regs pg).map (·.1)).foldl (commitKey pg) s

/-- R407: the sum of the decimations of the stages in use is reduced to 16, from the last stage on. -/
def fixStages (s : State) (n : Nat) : State :=
  let ns := rd s (Reg.FILT.STAGES_NSTAGES n)
  let cut := fun (s : State) (i : Nat) (f : Fld) =>
    let ds := [rd s (Reg.FILT.STAGES_DEC0 n), rd s (Reg.FILT.STAGES_DEC1 n), rd s (Reg.FILT.STAGES_DEC2 n),
      rd s (Reg.FILT.STAGES_DEC3 n)]
    let sum := (ds.take ns).foldl (· + ·) 0
    if i < ns ∧ 16 < sum then wr s f (rd s f - (sum - 16)) else s
  cut (cut (cut (cut s 3 (Reg.FILT.STAGES_DEC3 n)) 2 (Reg.FILT.STAGES_DEC2 n)) 1 (Reg.FILT.STAGES_DEC1 n)) 0
    (Reg.FILT.STAGES_DEC0 n)

/-- Limits that depend on another field: the PWM phase, R407, R421, PAR_POST, and HERD.CTL.MIN_L. -/
def commitFix (s : State) (pg : Nat) : State :=
  match kindOf pg with
  | some (.pwm, _) => (List.range 64).foldl (fun s o =>
      wr s (Reg.PWM.CFG_PHASE o) (rd s (Reg.PWM.CFG_PHASE o) % rd s (Reg.PWM.CFG_PERIOD o))) s
  | some (.filt, n) =>
    let s := fixStages s n
    let s := wr s (Reg.FILT.TONE_OFF_MAG n) (min (rd s (Reg.FILT.TONE_OFF_MAG n)) (rd s (Reg.FILT.TONE_ON_MAG n)))
    wr s (Reg.FILT.PAR_POST_POST n) (min (rd s (Reg.FILT.PAR_POST_POST n)) (parLen s n - 1))
  | some (.herd, h) => wr s (Reg.HERD.CTL_MIN_L h) (clampN 1 (nomTx h) (rd s (Reg.HERD.CTL_MIN_L h)))
  | _ => s

/-! ### What the blocks do -/

/-- The block of a page follows its gate and its domain. -/
def blockFollow (s : State) (pg : Nat) : State :=
  match kindOf pg with
  | some (.port, p) => follow1 (detFollow s p) p
  | some (.cnv, c) => follow1 (cnvFollow s c) (c / 4)
  | some (.eq, p) => follow1 s p
  | some (.soft, p) => follow1 (softFollow s p) p
  | some (.tstat, p) => follow1 (tstatFollow s p) p
  | some (.herd, h) => if h = 16 then herdFollow s h else follow1 (herdFollow s h) h
  | some (.pcv, c) => pcvFollow s c
  | some (.seq, _) => seqFollow s
  | some (.pwm, _) => pwmFollow s
  | some (.filt, n) => filtFollow s n
  | _ => s

/-- Every block follows its domain (R83, R636). -/
def clockFollow (s : State) : State :=
  let s := (List.range 64).foldl cnvFollow s
  let s := (List.range 16).foldl (fun s p => tstatFollow (softFollow s p) p) s
  let s := (List.range 17).foldl herdFollow s
  let s := pwmFollow (seqFollow ((List.range 24).foldl pcvFollow s))
  spfKick (follow ((List.range 48).foldl filtFollow s))

/-- What the block of a page does with a commit; `old` gives the values in effect before it. -/
def blockReact (s : State) (pg : Nat) (old : Fld → Nat) : State :=
  match kindOf pg with
  | some (.clk, _) => clockFollow (clkCommit s old)
  | some (.pwr, _) => pwrCommit s
  | some (.time, _) => timeCommit s old
  | some (.evt1, _) => evt1Commit s old
  | some (.evt2, _) => updateFault s
  | some (.port, p) => pwmFollow (blockFollow (portCommit s p old) pg)
  | some (.eq, p) => follow1 (eqCommit s p old) p
  | some (.soft, p) => softCommit (blockFollow s pg) p old
  | some (.seq, _) => seqFollow (seqCommit s old)
  | some (.accu, _) => accuCommit s
  | some (.ring, _) => ringCommit s old
  | some (.filt, n) => filtCommit (filtFollow s n) n old
  | some (.acl, t) => aclCommit s t old
  | some (.memc, _) => scrubFollow s
  | _ => blockFollow s pg

/-- The values in effect that a list of store entries gives. -/
def oldOf (l : Store Nat) (f : Fld) : Nat := Store.read (resetOf f) l f.key

/-- The entries in effect before the first commit of a page that its block has not acted on (R92, R636). -/
def deferredOf (s : State) (pg : Nat) : Option (Store Nat) :=
  (s.bus.deferred.find? (fun e => e.1 == pg)).map (·.2)

/-- Nothing of a page waits for its block. -/
def dropDeferred (s : State) (pg : Nat) : State :=
  s.onBus fun b => { b with deferred := b.deferred.filter (fun e => e.1 != pg) }

/-- The block acts on what has been committed, or will once it runs. -/
def reactOrDefer (s : State) (pg : Nat) (before : Store Nat) : State :=
  let l := (deferredOf s pg).getD before
  let s := dropDeferred s pg
  if blockRuns s pg then blockReact s pg (oldOf l)
  else s.onBus fun b => { b with deferred := b.deferred ++ [(pg, l)] }

/-- The blocks that run again act on what was committed meanwhile (R92, R636). -/
def runDeferred (s : State) : State :=
  s.bus.deferred.foldl (fun s e => if blockRuns s e.1 then blockReact (dropDeferred s e.1) e.1 (oldOf e.2) else s) s

/-! ### Commit (R163 to R165) -/

/-- A gate of the page is requested and not yet closed. -/
def gatePending (s : State) (pg : Nat) : Bool :=
  !ungated pg && rdb s (Reg.HDR.PG_STAT_COMMIT_HELD pg) && !rdb s (Reg.HDR.PG_CTL_EN pg)
    && !rdb s (Reg.HDR.PG_STAT_GATED pg)

/-- The commit writes of a page that waited for its gate complete, and PG_COMMIT counts them (R164). -/
def releaseCommits (s : State) (pg : Nat) : State :=
  let l := s.bus.commits.filter (fun r => pageOf r.addr == pg)
  let s := s.onBus fun b => { b with commits := b.commits.filter (fun r => pageOf r.addr != pg) }
  l.foldl (fun s r => complete (inc s (Reg.HDR.PG_COMMIT_COUNT pg) 1) r ⟨.ok, []⟩) s

/-- The gate as a commit leaves it: it opens with EN at 1; with EN at 0 an open gate is requested to
close, which holds the commit (R165). -/
def commitGate (s : State) (pg : Nat) : State :=
  let en := rdb s (Reg.HDR.PG_CTL_EN pg)
  let gated := rdb s (Reg.HDR.PG_STAT_GATED pg)
  wrAll s [(Reg.HDR.PG_STAT_EN_EFF pg, b2n en), (Reg.HDR.PG_STAT_GATED pg, b2n (gated && !en)),
    (Reg.HDR.PG_STAT_COMMIT_HELD pg, b2n (!en && !gated))]

/-- A commit applies: every shadow together, the gate, the count, and what the block does (R163, R165).  A
commit that requests a gate is counted, with the others that wait for it, once the gate has closed. -/
def applyCommit (s : State) (pg : Nat) : State :=
  let before := pagePart s.regs pg
  let s := commitGate (commitFix (applyShadows s pg) pg) pg
  reactOrDefer (if gatePending s pg then s else inc (releaseCommits s pg) (Reg.HDR.PG_COMMIT_COUNT pg) 1) pg before

/-- A commit is requested: on the CLK page it is held while a domain switches (R84, R164). -/
def requestCommit (s : State) (pg : Nat) : State :=
  if pg = Reg.CLK.page ∧ rd s Reg.CLK.DOM_STAT_BUSY ≠ 0 then
    wrb (s.onClk fun c => { c with held := c.held + 1 }) (Reg.HDR.PG_STAT_COMMIT_HELD pg) true
  else applyCommit s pg

/-- Held commits of the CLK page apply, one after another while no domain switches (R84). -/
def applyHeld : Nat → State → State
  | 0, s => s
  | n + 1, s =>
    if s.clk.held = 0 ∨ rd s Reg.CLK.DOM_STAT_BUSY ≠ 0 then s
    else
      let s := applyCommit (s.onClk fun c => { c with held := c.held - 1 }) Reg.CLK.page
      applyHeld n (wrb s (Reg.HDR.PG_STAT_COMMIT_HELD Reg.CLK.page) (s.clk.held != 0))

/-! ### Gates (R91) and the wait for an idle bus (R151) -/

/-- A page reset of the page waits for an idle bus. -/
def resetPending (s : State) (pg : Nat) : Bool := rdb s (Reg.HDR.PG_STAT_RST_BUSY pg)

/-- Requests numbered from here on arrived after the gate or reset request of the page. -/
def markPage (s : State) (pg : Nat) : State :=
  s.onBus fun b => if b.marks.any (fun e => e.1 == pg) then b else { b with marks := b.marks ++ [(pg, b.token)] }

/-- Neither a gate nor a reset of the page waits any longer. -/
def unmarkPage (s : State) (pg : Nat) : State :=
  if gatePending s pg || resetPending s pg then s
  else s.onBus fun b => { b with marks := b.marks.filter (fun e => e.1 != pg) }

/-- The accesses to a page that were in progress when its gate or reset was requested. -/
def inProgress (s : State) (pg : Nat) (r : Req) : Bool :=
  pageOf r.addr == pg && decide (0x1000000 ≤ r.addr) &&
    (match s.bus.marks.find? (fun e => e.1 == pg) with
     | none => true
     | some e => decide (r.token < e.2))

/-- The page's bus is idle. -/
def busIdle (s : State) (pg : Nat) : Bool := !s.bus.waiting.any (inProgress s pg)

/-- An access is refused with a status, and the page records it (R161). -/
def refuseReq (s : State) (r : Req) (t : Status) : State :=
  complete (pgErr s (pageOf r.addr) (r.addr % 4096) r.master t r.write) r (errC r t)

/-- The accesses in progress on a page complete with BUS_ERR_TIMEOUT, GATE_LAST records the page and the
master of the oldest, and GATE_TMO is raised (R91, R151). -/
def timeoutAccesses (s : State) (pg : Nat) : State :=
  let l := s.bus.waiting.filter (inProgress s pg)
  match l with
  | [] => s
  | r :: _ =>
    let s := s.onBus fun b => { b with waiting := b.waiting.filter (fun r => !inProgress s pg r) }
    let s := l.foldl (fun s r => refuseReq s r .errTimeout) s
    raise (wrAll s [(Reg.CLK.GATE_LAST_PAGE, pg), (Reg.CLK.GATE_LAST_MASTER, r.master), (Reg.CLK.GATE_LAST_VALID, 1)])
      Reg.CLK.evGATE_TMO

/-- The gate of a page closes (R91, R165). -/
def closeGate (s : State) (pg : Nat) : State :=
  let s := wrAll s [(Reg.HDR.PG_STAT_GATED pg, 1), (Reg.HDR.PG_STAT_COMMIT_HELD pg, 0)]
  blockFollow (releaseCommits (unmarkPage s pg) pg) pg

/-! ### Page reset (R143 to R145) -/

/-- Pages whose block registers a page reset leaves (R144). -/
def keepsBlock : Kind → Bool
  | .dev | .otp | .sec | .retire => true
  | _ => false

/-- Header and block registers of a page at their reset values, the lock as it was (R143, R144). -/
def clearRegs (s : State) (pg : Nat) (k : Kind) : State :=
  let old := rd s
  let hdr := (pg * 4096 * 8, (pg * 4096 + 64) * 8)
  let s := if keepsBlock k then
      { s with regs := s.regs.delRange hdr.1 hdr.2, shad := s.shad.delRange hdr.1 hdr.2 }
    else clearPage s pg 0
  let s := wrAll s [(Reg.HDR.PG_LOCK_OWNER pg, old (Reg.HDR.PG_LOCK_OWNER pg)),
    (Reg.HDR.PG_LOCK_HELD pg, old (Reg.HDR.PG_LOCK_HELD pg))]
  s.onBus fun b => { b with latches := b.latches.filter (fun l => l.page != pg)
                            frozen := b.frozen.filter (fun e => e.1 / 4096 != pg)
                            deferred := b.deferred.filter (fun e => e.1 != pg) }

/-- Fields that a page reset leaves as they were. -/
def restore (s : State) (old : Fld → Nat) (fs : List Fld) : State := wrAll s (fs.map (fun f => (f, old f)))

/-- The registers of a locked region stay as they are (R600). -/
def keepLocked (s : State) (old : Fld → Nat) (t : Nat) : State :=
  aclCount ((List.range 64).foldl (fun s r =>
    if old (Reg.ACL.RGN_BASE_LOCK t r) = 1 then
      keepAll s old [Reg.ACL.RGN_BASE_PAGE t r, Reg.ACL.RGN_BASE_LOCK t r, Reg.ACL.RGN_BASE_EN t r,
        Reg.ACL.RGN_LIMIT_PAGE t r, Reg.ACL.RGN_RT_LO_RIGHTS t r, Reg.ACL.RGN_RT_HI_RIGHTS t r]
    else s) s) t

/-- A page reset of PORT[p], once its registers are cleared: the squelch holds, and the port waits for a
commit (R145). A squelch that begins with the reset raises SQUELCH_ON and stamps SQ_TS after the registers are cleared
(DESIGN CHOICE, log entry 63). -/
def portPageReset (s : State) (p : Nat) (old : Fld → Nat) : State :=
  let s := restore s old [Reg.PORT.SQ_NOW_CAUSE p]
  detFollow (s.onPort p fun t => { t with cfgWait := true, laneDone := Vector.replicate 4 false }) p

/-- What a page reset leaves of the state behind the registers of the block (R144, R153). -/
def blockReset (before s : State) (pg : Nat) : State :=
  let old := rd before
  match kindOf pg with
  | some (.clk, _) => clkPageReset s old
  | some (.pwr, _) => pwrPageReset s old
  | some (.time, _) => timePageReset s old
  | some (.evt1, _) => logDiscard s
  | some (.evt2, _) =>
    updateFault (s.onEvt fun v => { v with notices := Vector.replicate 8 [], dropSince := Vector.replicate 8 0 })
  | some (.port, p) => pwmFollow (follow1 (portPageReset s p old) p)
  | some (.cnv, c) => follow1 (rateCheck before ((closeHoles s c).onCnv c fun t =>
      { CnvH.reset with holes := t.holes, trims := t.trims }) (c / 4)) (c / 4)
  | some (.eq, p) => follow1 (eqPageReset s p) p
  | some (.soft, p) => follow1 (s.onSoft p fun _ => SoftH.reset) p
  | some (.tstat, p) => follow1 (s.onTstat p fun _ => TstatH.reset) p
  | some (.pcv, c) => pcvPageReset s c
  | some (.seq, _) => seqPageReset s
  | some (.pwm, _) => pwmPageReset s before
  | some (.accu, _) => { s with accu := AccuH.reset }
  | some (.ring, _) => { s with ringQ := [] }
  | some (.filt, n) => filtPageReset s n
  | some (.herd, h) =>
    let s := linkReset ((s.onHerd h fun _ => HerdH.reset (nomTx h)).onLine h fun _ => LineH.reset) h
    let t := herdStopped s h
    if h = 16 then s
    else if rd before (Reg.HERD.STAT_L_ACTIVE h) = nomTx h then follow1 t h
    else follow1 (budgetOnLanes t h) h
  | some (.link0, _) =>
    let keep : List Fld := (List.range 17).flatMap (fun h => [Reg.LINK0.HL_SEQ_TX_NEXT h, Reg.LINK0.HL_SEQ_RX_EXP h,
      Reg.LINK0.HL_BUF_RPL_USED h, Reg.LINK0.HL_BUF_EPOCH h, Reg.LINK0.HL_BUF_PEER_EPOCH h])
    restore s old keep
  | some (.link2, _) =>
    (List.range 8).foldl (fun s k => s.onSes k fun x => { x with reports := [] }) s
  | some (.memc, _) =>
    restore s old ([Reg.MEMC.STAT_TRAINED, Reg.MEMC.STAT_SCRUB_RUN, Reg.MEMC.STAT_WEAK_USED, Reg.MEMC.WRITTEN_UNITS]
      ++ (List.range 8).flatMap (fun d => [Reg.MEMC.FUSE_ROWS d, Reg.MEMC.FUSE_OK d]))
  | some (.spm, _) => (restore s old [Reg.SPM.STAT_WQ, Reg.SPM.STAT_FRAME]).onSpm fun x => { x with last := 0 }
  | some (.spf, _) =>
    spfPageReset (restore s old [Reg.SPF.STAT_MODE, Reg.SPF.GEOM_PAGE_LOG2, Reg.SPF.GEOM_E1_LOG2, Reg.SPF.GEOM_E2_LOG2,
      Reg.SPF.GEOM_E3_LOG2, Reg.SPF.GEOM_E4_LOG2, Reg.SPF.GEOM_DUMMY_8D, Reg.SPF.TIMES_PROG_US])
  | some (.core, n) => corePageReset s n (old (Reg.CORE.STAT_STATE n) != 0)
  | some (.acl, t) => keepLocked s old t
  | _ => s

/-- What must end before the registers are cleared: a page reset of LINK[1] ends every session with no END
sent, and abandons the exchanges (R503, R153). -/
def blockQuit (s : State) (pg : Nat) : State :=
  match kindOf pg with
  | some (.link1, _) => (List.range 8).foldl (fun s k => (endSession s k 6).onSes k fun _ => SesH.reset) s
  | _ => s

/-- A page reset takes effect (R143 to R145). -/
def pageReset (s : State) (pg : Nat) : State :=
  match kindOf pg with
  | none => s
  | some (k, _) =>
    let s := blockQuit (releaseCommits s pg) pg
    blockReset s (clearRegs s pg k) pg

end Sys2Proof.Machine
end

