-- ==== Sys2Proof/Machine/Bus.lean ====
section
/-! DEFINITION. Fabric accesses (chapters 01 and 05): what a read of a register shows, what a write of it
does, the checks of a page, the boot ROM, SRAM and the sequencer table, and the accesses that wait. -/

namespace Sys2Proof.Machine

/-! ### What a register shows -/

/-- TYPE of a page (R173). -/
def typeCode : Kind → Nat
  | .dev => 0x01 | .clk => 0x02 | .pwr => 0x03 | .otp => 0x04 | .sec => 0x05 | .time => 0x06
  | .evt0 | .evt1 | .evt2 => 0x07
  | .port => 0x10 | .cnv => 0x11 | .eq => 0x12 | .soft => 0x13 | .tstat => 0x14
  | .pcv => 0x20 | .seq => 0x21 | .pwm => 0x22 | .tmr => 0x23 | .accu => 0x24 | .ring => 0x25 | .filt => 0x26
  | .herd => 0x30 | .link0 | .link1 | .link2 => 0x31
  | .memc => 0x40 | .retire => 0x41 | .spm => 0x42 | .spf => 0x43 | .core => 0x44
  | .acl => 0x50

/-- PG_CAP.EVT_BITS of a page, from the event tables of the chapters; 2,474 in all (R174). -/
def evtBits (k : Kind) (inst : Nat) : Nat :=
  match k with
  | .pwr => 9 | .clk => 11 | .time => 6 | .dev => 4 | .evt0 => 6 | .evt1 | .evt2 => 0
  | .port => 9 | .cnv => 11 | .eq => 12 | .soft => 5 | .tstat => 4 | .pcv => 6 | .seq => 9
  | .pwm | .tmr => 0 | .accu => 2 | .ring => 32 | .filt => 15 | .herd => 15
  | .link0 => 20 | .link1 => 18 | .link2 => 2 | .memc => 7 | .retire => 3 | .spm => 3 | .spf => 8
  | .otp => 4 | .sec => 4 | .core => 3
  | .acl => if inst ≤ 16 then 1 else 0

/-- PG_CAP.BLOCK of a page, given in the chapters. -/
def capBlock (k : Kind) (inst : Nat) : Nat :=
  match k with
  | .port => 0x0044 | .cnv => 0x00C0 | .eq => 0x103F | .soft => 0x0023 | .tstat => 0x0001
  | .pcv => mate inst + inst / 2 * 2 ^ 8
  | .seq => 0x0010 | .pwm => 0x0040 | .tmr => 0x0010 | .accu => 0x0040 | .ring => 0x0010 | .filt => 0x1004
  | .herd => if inst = 16 then 0x0404 else 0x0213
  | .link0 => 0x0011 | .link1 => 0x0008 | .link2 => 0x0010
  | .memc => 0x0008 | .retire => 0x000C | .spm => 0x0020 | .spf => 0x0003
  | .otp => 0x0008 | .sec => 0x0001 | .core => 0x0040
  | .acl => if inst ≤ 16 then 0x0040 else 0
  | .dev | .clk | .pwr | .time | .evt0 | .evt1 | .evt2 => 0

/-- The page holds two-half quantities (R160, R171). -/
def hasPairs : Kind → Bool
  | .time | .port | .cnv | .soft | .tstat | .seq | .tmr | .accu | .filt | .memc | .sec => true
  | _ => false

/-- The rows of a page's block registers (R27). -/
def blockRows (k : Kind) (inst : Nat) : List RRow := if k = .acl ∧ 16 < inst then [] else rowsOf k

/-- PG_CAP (R160). -/
def capWord (pg : Nat) (k : Kind) (inst : Nat) : Nat :=
  let shadows := !ungated pg || (blockRows k inst).any (fun r => r.fields.any (·.shad))
  b2n shadows + 2 * b2n (!ungated pg) + 4 * b2n (hasPairs k) + evtBits k inst * 2 ^ 8 + capBlock k inst * 2 ^ 16

/-- PG_STAT.BLOCK of a page, given in the chapters. -/
def statBlock (s : State) (k : Kind) (i : Nat) : Nat :=
  match k with
  | .port => rd s (Reg.PORT.STAT_CARRY i)
  | .cnv => rd s (Reg.CNV.STAT_STATE i) + 8 * rd s (Reg.CNV.STAT_RDY i)
  | .eq => rd s (Reg.EQ.STAT_STATE i) + 8 * rd s (Reg.EQ.STAT_ACQ i) + 16 * rd s (Reg.EQ.STAT_GUARD i)
  | .soft => rd s (Reg.SOFT.STAT_STATE i) + 4 * rd s (Reg.SOFT.STAT_OVER_BUDGET i)
  | .tstat => b2n (winOn s (s.tstat i).win)
  | .pcv => rd s (Reg.PCV.STAT_STATE i)
  | .seq => rd s Reg.SEQ.STAT_RUN
  | .accu => b2n (winOn s s.accu.win)
  | .filt => rd s (Reg.FILT.STAT_STATE i) + 4 * rd s (Reg.FILT.STAT_TONE_PRESENT i)
  | .herd => rd s (Reg.HERD.STAT_STATE i) + 8 * rd s (Reg.HERD.STAT_FAILOVER i)
  | .link1 => listMask ((List.range 8).filter (sesUp s))
  | .memc => rd s Reg.MEMC.STAT_TRAINED
  | .spm => rd s Reg.SPM.STAT_FRAME
  | .spf => rd s Reg.SPF.STAT_MODE
  | .otp => rd s Reg.OTP.STAT_BUSY
  | .sec => rd s Reg.SEC.STAT_KEY
  | .acl => if i ≤ 16 then rd s (Reg.ACL.STAT_LOCKED i) else 0
  | .core => rd s (Reg.CORE.STAT_STATE i)
  | .dev | .clk | .pwr | .time | .evt0 | .evt1 | .evt2 | .pwm | .tmr | .ring | .link0 | .link2 | .retire => 0

/-- A header register as it reads (R160). -/
def headerWord (s : State) (pg : Nat) (k : Kind) (inst off : Nat) : Nat :=
  if off = 0 then pg + inst * 2 ^ 10 + typeCode k * 2 ^ 16 + 1 * 2 ^ 24
  else if off = 4 then capWord pg k inst
  else if off = 12 then
    rd s (Reg.HDR.PG_STAT_EN_EFF pg) + 2 * rd s (Reg.HDR.PG_STAT_GATED pg)
      + 4 * rd s (Reg.HDR.PG_STAT_COMMIT_HELD pg) + 8 * rd s (Reg.HDR.PG_STAT_RST_BUSY pg)
      + 16 * rd s (Reg.HDR.PG_CTL_FREEZE pg) + statBlock s k inst * 2 ^ 16
  else if off = 28 then evtSum s pg
  else regWord s pg off

/-- COEF of the bank in use: stage `i`, tap `t`, sign-extended (R410, R432). -/
def coefWord (s : State) (n i t : Nat) : Nat := unsext 32 ((((fbUse s n).coef.getD i []).getD t 0))

/-- Four bytes of a word, lowest first. -/
def pack4 (l : List Nat) : Nat :=
  l.getD 0 0 % 256 + l.getD 1 0 % 256 * 2 ^ 8 + l.getD 2 0 % 256 * 2 ^ 16 + l.getD 3 0 % 256 * 2 ^ 24

/-- The default of a record's words (R573). -/
def recDefault (r : Nat) : Nat := if r = 1 then 100000 else if r = 2 then 5000 else 0

/-- OTP.RD_DATA (R583): records that firmware may read, as loaded, or with the default of R573. -/
def otpRdData (s : State) : Nat :=
  let r := rd s Reg.OTP.RD_SEL_REC
  let i := rd s Reg.OTP.RD_SEL_IDX
  if r = 8 ∨ recS r ≤ i then 0 else recWord s r i (recDefault r)

/-- RETIRE.RD_DATA (R530). -/
def retireRdData (s : State) : Nat :=
  match s.memc.retired[rd s Reg.RETIRE.RD_IDX_IDX]? with
  | none => 0
  | some p => p % 2 ^ 17 + 2 ^ 31

/-- MEMC.WEAK_LO[k] and WEAK_HI[k] (R517). -/
def weakWord (s : State) (k : Nat) (hi : Bool) : Nat :=
  match (s.memc.weak.find? (fun e => e.1 == k)).map (·.2) with
  | none => 0
  | some (line, c) => if hi then c % 256 + 2 ^ 31 else line % 2 ^ 27

/-- Registers whose value follows from other state; none for a register that holds its own value. -/
def viewWord (s : State) (k : Kind) (i off : Nat) : Option Nat :=
  match k with
  | .pwr => if off = 108 then some (s.pwr.rails % 256 + rd s Reg.PWR.RAIL_STAT_FAULTED * 2 ^ 8) else none
  | .evt0 =>
    if off = 64 then some (b2n ((List.range 32).any (fun w => gsum s w != 0)))
    else if 128 ≤ off ∧ off < 256 then some (gsum s ((off - 128) / 4)) else none
  | .evt1 =>
    if off = 88 then some (b2n (logRuns s) + 2 * rd s Reg.EVT1.LOG_STAT_HALT + 4 * rd s Reg.EVT1.LOG_STAT_FULL
      + rd s Reg.EVT1.LOG_STAT_GAP * 2 ^ 16) else none
  | .evt2 =>
    if 256 ≤ off ∧ off < 288 then
      let n := (off - 256) / 4
      some (rd s (Reg.EVT2.SUB_STAT_DROP n) + b2n (sesUp s n) * 2 ^ 16 + (vget s.evt.notices [] n).length * 2 ^ 23)
    else none
  | .time =>
    if off = 64 then some (nowNs s % 2 ^ 32)
    else if off = 68 then some (nowNs s / 2 ^ 32)
    else if off = 72 then some (fracOf s.time.units) else none
  | .tstat =>
    if off = 96 then some (b2n (winOn s (s.tstat i).win) + 2 * b2n s.sec.key.isSome + 4 * b2n (repRingBad s i))
    else none
  | .seq =>
    if 256 ≤ off ∧ off < 304 then
      some (listMask ((List.range 32).filter (fun b => inputT s (32 * ((off - 256) / 4) + b)))) else none
  | .tmr =>
    if off = 196 then some (s.time.tick % 2 ^ 32)
    else if off = 200 then some (s.time.tick / 2 ^ 32) else none
  | .filt =>
    if off = 248 then some (pack4 (fbUse s i).ntaps)
    else if off = 252 then some (pack4 (fbUse s i).shift)
    else if 1024 ≤ off ∧ off < 2048 then some (coefWord s i ((off - 1024) / 256) ((off - 1024) % 256 / 4))
    else none
  | .link2 =>
    if 128 ≤ off ∧ off < 160 then
      let n := (off - 128) / 4
      some (rd s (Reg.LINK2.TEL_STAT_DROP n) + (s.ses n).reports.length * 2 ^ 16) else none
  | .memc => if 2048 ≤ off then some (weakWord s ((off - 2048) / 8) (off % 8 == 4)) else none
  | .retire => if off = 104 then some (retireRdData s) else none
  | .otp => if off = 100 then some (otpRdData s) else none
  | .dev | .clk | .sec | .port | .cnv | .eq | .soft | .pcv | .pwm | .accu | .ring | .herd | .link0 | .link1
  | .spm | .spf | .core | .acl => none

/-- A register as it reads now: 0 where there is none (R12, R27). -/
def nowWord (s : State) (pg off : Nat) : Nat :=
  match kindOf pg with
  | none => 0
  | some (k, inst) =>
    if off < 64 then headerWord s pg k inst off
    else if k = .acl ∧ 16 < inst then 0
    else (viewWord s k inst off).getD (regWord s pg off)

/-! ### FREEZE (R172) -/

/-- FREEZE does not hold this register: TICK, TSTAT.STAT, Q_RX, and on SPM all but LAST and CNT. -/
def freezeSkips (k : Kind) (off : Nat) : Bool :=
  match k with
  | .tmr => true
  | .tstat => off < 128
  | .spf => off == 84
  | .spm => off < 100
  | _ => false

/-- The offsets of a row's registers: the array dimensions outermost first. -/
def dimOffsets : List (Nat × Nat) → Nat → List Nat
  | [], o => [o]
  | (c, st) :: t, o => (List.range c).flatMap (fun i => dimOffsets t (o + i * st))

/-- The registers of a page that FREEZE holds: those whose fields are all RO; a register that also has RW or W1C
fields is no RO register (DESIGN CHOICE, log entry 54). -/
def frozenOffsets (pg : Nat) (k : Kind) (inst : Nat) : List Nat :=
  ((blockRows k inst).flatMap (fun r =>
    if r.fields.all (fun f => f.acc = .ro) then dimOffsets r.dims r.off else [])).filter
    (fun o => !freezeSkips k o && (rowAt pg o).isSome)

/-- FREEZE becomes 1, or 0. -/
def setFreeze (s : State) (pg : Nat) (on : Bool) : State :=
  if on = rdb s (Reg.HDR.PG_CTL_FREEZE pg) then s
  else
    let held : List (Nat × Nat) := if on then
        (match kindOf pg with
         | none => []
         | some (k, inst) => (frozenOffsets pg k inst).map (fun o => (pg * 4096 + o, nowWord s pg o)))
      else []
    let s := wrb s (Reg.HDR.PG_CTL_FREEZE pg) on
    s.onBus fun b => { b with frozen := b.frozen.filter (fun e => e.1 / 4096 != pg) ++ held }

/-- A register as a read shows it. -/
def shownWord (s : State) (pg off : Nat) : Nat :=
  match s.bus.frozen.find? (fun e => e.1 == pg * 4096 + off) with
  | some e => e.2
  | none => nowWord s pg off

/-! ### Two-half quantities (R171) -/

/-- The high half and the companions of the low half at an offset. -/
def pairLow (k : Kind) (off : Nat) : Option (Nat × List Nat) :=
  match k with
  | .time =>
    if off = 64 then some (68, [72]) else if off = 80 then some (84, []) else if off = 96 then some (100, [104])
    else none
  | .port => if off = 116 then some (120, []) else none
  | .cnv => if off = 136 ∨ off = 144 ∨ off = 152 ∨ off = 160 then some (off + 4, []) else none
  | .soft => if off = 104 then some (108, [96]) else none
  | .tstat => if off = 68 ∨ off = 136 ∨ off = 144 then some (off + 4, []) else none
  | .seq => if off = 116 then some (120, [112]) else none
  | .tmr => if off = 196 then some (200, []) else none
  | .accu =>
    if off = 68 ∨ off = 136 then some (off + 4, [])
    else if off < 1024 ∨ 3072 ≤ off then none
    else if off % 32 = 4 then some (off + 4, [off - 4, off + 16, off + 20, off + 24])
    else if off % 32 = 12 then some (off + 4, []) else none
  | .filt => if off = 212 then some (216, [208]) else none
  | .memc =>
    if off = 112 then some (116, []) else if 2048 ≤ off ∧ off % 8 = 0 then some (off + 4, []) else none
  | .sec => if off = 104 then some (108, []) else none
  | _ => none

/-- The latch of a master on a page. -/
def latchOf (s : State) (m pg : Nat) : Option Latch :=
  s.bus.latches.find? (fun l => l.master == m && l.page == pg)

/-- No latch of a master on a page. -/
def dropLatch (s : State) (m pg : Nat) : State :=
  s.onBus fun b => { b with latches := b.latches.filter (fun l => !(l.master == m && l.page == pg)) }

/-- A read of a low half latches its high half and companions. -/
def putLatch (s : State) (m pg : Nat) (hi : Nat) (comp : List Nat) : State :=
  let l : Latch := ⟨m, pg, (hi, shownWord s pg hi) :: comp.map (fun o => (o, shownWord s pg o))⟩
  (dropLatch s m pg).onBus fun b => { b with latches := b.latches ++ [l] }

/-- A read of a register by a master: its value, and what the read does to the latch. -/
def pairRead (s : State) (m pg off : Nat) : State × Nat :=
  match (kindOf pg).bind (fun k => pairLow k.1 off) with
  | some (hi, comp) => (putLatch s m pg hi comp, shownWord s pg off)
  | none =>
    match latchOf s m pg with
    | none => (s, shownWord s pg off)
    | some l =>
      match l.words.find? (fun e => e.1 == off) with
      | none => (s, shownWord s pg off)
      | some e => (if (l.words.headD (0, 0)).1 = off then dropLatch s m pg else s, e.2)

/-- A read of a page register: Q_RX takes a word (R569). -/
def pageRead (s : State) (m pg off : Nat) : State × Nat :=
  if pg = Reg.SPF.page ∧ off = 84 then qRxTake s else pairRead s m pg off

/-! ### Writes of the header -/

/-- A write of PG_CTL (R143, R151, R160, R172). -/
def ctlWrite (s : State) (pg v : Nat) : State :=
  let s := if ungated pg then s else wrS s (Reg.HDR.PG_CTL_EN pg) (v % 2)
  let s := setFreeze s pg (bit v 2)
  let s := if bit v 3 then
      wrAll s [(Reg.HDR.PG_ERR_OFFSET pg, 0), (Reg.HDR.PG_ERR_MASTER pg, 0), (Reg.HDR.PG_ERR_STATUS pg, 0),
        (Reg.HDR.PG_ERR_WRITE pg, 0), (Reg.HDR.PG_ERR_COUNT pg, 0)]
    else s
  if bit v 1 then markPage (wrb s (Reg.HDR.PG_STAT_RST_BUSY pg) true) pg else s

/-- A write of PG_COMMIT (R160, R163 to R165). -/
def commitWrite (s : State) (pg v : Nat) : State :=
  if bit v 0 then
    let s := requestCommit s pg
    if gatePending s pg then markPage s pg else unmarkPage s pg
  else s

/-- The lock of a page is broken by master `m` (R168). -/
def lockBroken (s : State) (m pg : Nat) : State :=
  if rdb s (Reg.HDR.PG_LOCK_HELD pg) then
    let s := wrAll s [(Reg.EVT0.LOCK_LAST_PAGE, pg), (Reg.EVT0.LOCK_LAST_OLD, rd s (Reg.HDR.PG_LOCK_OWNER pg)),
      (Reg.EVT0.LOCK_LAST_BY, m)]
    raise (wrb s (Reg.HDR.PG_LOCK_HELD pg) false) Reg.EVT0.evLOCK_BREAK
  else s

/-- A write of PG_LOCK by master `m` (R166 to R168): BREAK, then TAKE, then RELEASE. -/
def lockWrite (s : State) (m pg v : Nat) : State :=
  let s := if bit v 18 then lockBroken s m pg else s
  let s := if bit v 16 && !rdb s (Reg.HDR.PG_LOCK_HELD pg) then
      wrb (wr s (Reg.HDR.PG_LOCK_OWNER pg) m) (Reg.HDR.PG_LOCK_HELD pg) true
    else s
  if bit v 17 && rdb s (Reg.HDR.PG_LOCK_HELD pg) && rd s (Reg.HDR.PG_LOCK_OWNER pg) == m then
    wrb s (Reg.HDR.PG_LOCK_HELD pg) false
  else s

/-- A write of a header register. -/
def headerWrite (s : State) (m pg off v : Nat) : State :=
  if off = 8 then ctlWrite s pg v
  else if off = 16 then commitWrite s pg v
  else if off = 20 then
    wr s (Reg.HDR.PG_EVT_RAW_RAW pg) (rd s (Reg.HDR.PG_EVT_RAW_RAW pg) ^^^ (rd s (Reg.HDR.PG_EVT_RAW_RAW pg) &&& v))
  else if off = 24 then wr s (Reg.HDR.PG_EVT_EN_EN pg) v
  else if off = 32 then lockWrite s m pg v
  else s

/-! ### Writes of block registers -/

/-- A write of a field by its access type (R11, R14, R163). -/
def writeField (pg off v : Nat) (s : State) (f : FRow) : State :=
  let x : Fld := ⟨pg, off, f.lo, f.width⟩
  let n := bits v f.lo f.width
  match f.acc with
  | .rw => if f.shad then wrS s x n else wr s x n
  | .w1c => wr s x (rd s x ^^^ (rd s x &&& n))
  | .ro | .wo => s

/-- A write of a register that does nothing but hold its fields. -/
def plainWrite (s : State) (pg off v : Nat) : State :=
  match rowAt pg off with
  | none => s
  | some r => r.fields.foldl (writeField pg off v) s

/-- DEV.RST_CMD (R139, R141).  Of two good writes before the reset begins, CMD_MASTER records the first (DESIGN
CHOICE, log entry 54). -/
def rstCmdEffect (s : State) (m v : Nat) : State :=
  if v % 65536 = 0xB007 ∧ bits v 16 4 = 1 then s.onBoot fun b => { b with cmdReset := some (b.cmdReset.getD m) }
  else raise s Reg.DEV.evRST_KEY_BAD

/-- DEV.BOOT_CMD (R135, R138). -/
def bootCmdEffect (s : State) (v : Nat) : State :=
  let s := if bit v 0 then wr (wrb s Reg.DEV.BOOT_WDT_RUNNING false) Reg.DEV.RST_CAUSE_WDT_RUN 0 else s
  if bit v 1 ∧ s.boot.stage = .recovery then
    (wrAll s [(Reg.DEV.RST_CAUSE_WDT_RUN, 0), (Reg.DEV.BOOT_STAT_PHASE, 4)]).onBoot
      fun b => { b with stage := .flash, wdtSkip := none }
  else s

/-- LINK[1].SES_KILL (R503): each slot named ends with reason 4. -/
def sesKillEffect (s : State) (v : Nat) : State := (maskList 8 v).foldl (fun s k => endSession s k 4) s

/-- A write of PORT[p].SQ_SEEN: a bit stays set while its cause holds. -/
def sqSeenWrite (s : State) (p pg v : Nat) : State :=
  let s := plainWrite s pg 104 v
  wr s (Reg.PORT.SQ_SEEN_CAUSE p) (rd s (Reg.PORT.SQ_SEEN_CAUSE p) ||| rd s (Reg.PORT.SQ_NOW_CAUSE p))

/-- What a write of a block register by master `m` does. -/
def blockWrite (s : State) (m : Nat) (k : Kind) (i pg off v : Nat) : State :=
  match k with
  | .dev =>
    if off = 76 then rstCmdEffect s m v else if off = 88 then bootCmdEffect s v else plainWrite s pg off v
  | .clk => if off = 112 then lossAckEffect s v else plainWrite s pg off v
  | .time => if off = 92 then timeCmdEffect s v else plainWrite s pg off v
  | .evt1 => if off = 80 then logRdEffect s v else plainWrite s pg off v
  | .evt2 =>
    if off = 72 then updateFault (plainWrite s pg off v)
    else if 512 ≤ off ∧ off < 1536 ∧ sesUp s ((off - 512) / 128) = false then s
    else plainWrite s pg off v
  | .port => if off = 104 then sqSeenWrite s i pg v else plainWrite s pg off v
  | .link1 => if off = 68 then sesKillEffect s v else plainWrite s pg off v
  | .link2 => if 64 ≤ off ∧ off < 96 ∧ sesUp s ((off - 64) / 4) = false then s else plainWrite s pg off v
  | .cnv => if off = 80 then cnvCmdEffect s i v else plainWrite s pg off v
  | .eq => if off = 120 then eqCmdEffect s i v else plainWrite s pg off v
  | .pcv => if off = 72 then (if bit v 0 then pcvCalEffect s i else s) else plainWrite s pg off v
  | .seq => if off = 80 then (if bit v 0 then injGoEffect s else s) else plainWrite s pg off v
  | .ring =>
    if 256 ≤ off ∧ off < 768 ∧ off % 32 = 16 then ringRdEffect s ((off - 256) / 32) v else plainWrite s pg off v
  | .filt =>
    if off = 156 then filtCmdEffect s i v else if off = 200 then outRdEffect s i v
    else if off = 236 then parRdEffect s i v else plainWrite s pg off v
  | .herd => if off = 76 then herdCmdEffect s i v else plainWrite s pg off v
  | .memc => if off = 76 then weakCmdEffect s v else plainWrite s pg off v
  | .retire => if off = 64 then retireAddEffect s (v % 2 ^ 17) else plainWrite s pg off v
  | .spf =>
    if off = 72 then spfEraseEffect s m v else if off = 76 then qCmdEffect s v
    else if off = 80 then qTxEffect s v else plainWrite s pg off v
  | .otp => if off = 64 then (if bit v 8 then otpCmdEffect s (v % 256) else s) else plainWrite s pg off v
  | .sec => if off = 64 then secCmdEffect s v else plainWrite s pg off v
  | .core => if off = 68 then coreCmdEffect s i v else plainWrite s pg off v
  | .pwr | .evt0 | .soft | .tstat | .pwm | .tmr | .accu | .link0 | .spm | .acl => plainWrite s pg off v

/-- A write of a page register that has passed its checks. -/
def pageWrite (s : State) (m pg off v : Nat) : State :=
  match kindOf pg with
  | none => s
  | some (k, i) => if off < 64 then headerWrite s m pg off v else blockWrite s m k i pg off v

/-! ### The checks of a page (R162) -/

/-- A register whose fields are all shadowed or RSV (R92). -/
def whollyShadowed (pg off : Nat) : Bool :=
  match rowAt pg off with
  | none => true
  | some r => r.fields.all (·.shad)

/-- A write of PG_LOCK.BREAK (R167, R168). -/
def isBreak (r : Req) : Bool := r.write && r.addr % 4096 == 32 && bit (leNat r.data) 18

/-- Table T16 lets master `m` write the access table of target `t` (R168). -/
def breakGranted (s : State) (t m : Nat) : Bool := aclGrants s 16 m (regAddr (Reg.ACL.page t) 0) 1

/-- The access tables refuse the access: the target's, T16's for a BREAK, a locked region (R597, R168,
R600). -/
def pageDenied (s : State) (t : Nat) (r : Req) : Bool :=
  let pg := pageOf r.addr
  !aclGrants s t r.master r.addr (aclKind r)
    || (isBreak r && !breakGranted s t r.master)
    || (r.write && 768 ≤ pg && pg ≤ 784 && aclLocked s (pg - 768) (r.addr % 4096))

/-- Another master holds the lock of the page (R167). -/
def pageLocked (s : State) (r : Req) : Bool :=
  let pg := pageOf r.addr
  r.write && rdb s (Reg.HDR.PG_LOCK_HELD pg) && rd s (Reg.HDR.PG_LOCK_OWNER pg) != r.master && !isBreak r

/-- The block of a page is in a domain that is switching (R82, R83). -/
def blockSwitching (s : State) (pg : Nat) : Bool :=
  match kindOf pg with
  | none => false
  | some (k, _) => domSwitching s (domOf k)

/-- A write that requests a commit of its page (R160). -/
def isCommit (r : Req) : Bool := r.write && r.addr % 4096 == 16 && bit (leNat r.data) 0

/-- A commit waits for a cycle of the block's domain, which is switching (R163, R164), unless the page is gated
and stays so, when its shadows and values in effect are in FAB (R92). -/
def commitWaits (s : State) (r : Req) : Bool :=
  let pg := pageOf r.addr
  isCommit r && blockSwitching s pg
    && !(rdb s (Reg.HDR.PG_STAT_GATED pg) && rdS s (Reg.HDR.PG_CTL_EN pg) == 0)

/-- The access has to wait: it arrived after a page reset was requested (R151) or after a gate was (R91); its
block's domain is switching (R83), for a register that does not stand in FAB, or for a commit. To a page whose gate
is closed too it waits first and is refused after the switch (DESIGN CHOICE, log entry 63). -/
def pageWaits (s : State) (r : Req) : Bool :=
  let pg := pageOf r.addr
  let off := r.addr % 4096
  (resetPending s pg && !inProgress s pg r) || commitWaits s r
    || (64 ≤ off && !whollyShadowed pg off && ((gatePending s pg && !inProgress s pg r) || blockSwitching s pg))

/-- A register behind a closed gate or in a stopped domain (R92, R636). -/
def pageDark (s : State) (r : Req) : Bool :=
  let pg := pageOf r.addr
  let off := r.addr % 4096
  64 ≤ off && !whollyShadowed pg off && treatedGated s pg

/-- A request takes its place among those that wait: in the order of arrival, and among those that reached one
target in one FAB cycle in ascending master number (R28). -/
def insertReq (r : Req) : List Req → List Req
  | [] => [r]
  | q :: t =>
    if q.cycle = r.cycle ∧ targetOf q.addr = targetOf r.addr ∧ r.master < q.master then r :: q :: t
    else q :: insertReq r t

/-- An access waits in the fabric. -/
def enqueue (s : State) (r : Req) : State := s.onBus fun b => { b with waiting := insertReq r b.waiting }

/-- An access that its page has accepted waits at it; a commit that waits shows in COMMIT_HELD (R160). -/
def pageHold (s : State) (r : Req) : State :=
  enqueue (if commitWaits s r then wrb s (Reg.HDR.PG_STAT_COMMIT_HELD (pageOf r.addr)) true else s)
    { r with passed := true }

/-- Why a page refuses an access when it reaches it (R162, checks 1 to 4); none when the page accepts it, or has
accepted it before: what changes while it waits does not refuse it (R598). -/
def pageVerdict (s : State) (t : Nat) (r : Req) : Option Status :=
  if r.passed then none
  else if alignOk t r = false then some .errAlign
  else if pageDenied s t r then some .errDenied
  else if pageLocked s r then some .errLocked
  else if r.write && r.poison then some .errPoison
  else none

/-- A write has been carried out: it completes, but for a commit that has requested a gate, which completes
once the gate has closed (R164, R165). -/
def finishWrite (s : State) (r : Req) : State :=
  if isCommit r && gatePending s (pageOf r.addr) then s.onBus fun b => { b with commits := b.commits ++ [r] }
  else complete s r ⟨.ok, []⟩

/-- A write of SPF.ERASE in SAFE mode, which completes with BUS_ERR_DENIED (R551) and is recorded as R557 says
(DEDUCED, log entry 47). -/
def eraseSafe (s : State) (r : Req) : Bool :=
  pageOf r.addr == Reg.SPF.page && r.addr % 4096 == 72 && rd s Reg.SPF.STAT_MODE == 3

/-- An access to a register page of target `t` (R162). -/
def pageServe (s : State) (t : Nat) (r : Req) : State :=
  let pg := pageOf r.addr
  let off := r.addr % 4096
  match pageVerdict s t r with
  | some e => refuseReq (if e = .errDenied then denyRecord s t r.master r.addr (aclKind r) else s) r e
  | none =>
    if pageWaits s r then pageHold s r
    else if pageDark s r then refuseReq s r .errTimeout
    else if r.write then
      (if eraseSafe s r then refuseReq (pageWrite s r.master pg off (leNat r.data)) r .errDenied
       else finishWrite (pageWrite s r.master pg off (leNat r.data)) r)
    else
      let x := pageRead s r.master pg off
      complete x.1 r ⟨.ok, toLE 4 x.2⟩

/-! ### Boot ROM, SRAM, sequencer table -/

/-- The checks of a target that is no page and cannot store poison (R30, R34). -/
def plainCheck (s : State) (t : Nat) (r : Req) : Option Status :=
  if alignOk t r = false then some .errAlign
  else if aclGrants s t r.master r.addr (aclKind r) = false then some .errDenied
  else if r.write && r.poison then some .errPoison
  else none

/-- An access refused by a target that is no page. -/
def plainRefuse (s : State) (t : Nat) (r : Req) (e : Status) : State :=
  complete (if e = .errDenied then denyRecord s t r.master r.addr (aclKind r) else s) r (errC r e)

/-- An access to the boot ROM: its bytes are the implementation's (log entry 8), and a write that a
table grants changes nothing. -/
def romServe (s : State) (r : Req) : State :=
  match plainCheck s 0 r with
  | some e => plainRefuse s 0 r e
  | none =>
    complete s r (if r.write then ⟨.ok, []⟩ else ⟨.ok, (List.range r.size).map (fun i => Config.romByte (r.addr + i))⟩)

/-- An access to the on-die SRAM. -/
def sramServe (s : State) (r : Req) : State :=
  match plainCheck s 1 r with
  | some e => plainRefuse s 1 r e
  | none =>
    let a := r.addr - 0x8000000
    if r.write then complete (s.onMems fun m => { m with sram := putBytes 0 m.sram a r.data }) r ⟨.ok, []⟩
    else complete s r ⟨.ok, bytesAt 0 s.mems.sram a r.size⟩

/-- No low word held for a master (R353). -/
def seqtDrop (s : State) (m : Nat) : State :=
  s.onSeq fun q => { q with latches := q.latches.filter (fun l => l.1 != m) }

/-- Set a word of the sequencer table. -/
def seqtPut (s : State) (w v : Nat) : State := s.onMems fun m => { m with seqt := Store.write 0 m.seqt w (v % 2 ^ 32) }

/-- A write of a sequencer table word by master `m` (R353): word `2i` is SEQT[i].LO, `2i+1` SEQT[i].HI. -/
def seqtWrite (s : State) (m w v : Nat) : State :=
  if w % 2 = 0 then (seqtDrop s m).onSeq fun q => { q with latches := q.latches ++ [(m, w / 2, v)] }
  else
    match s.seq.latches.find? (fun l => l.1 == m && l.2.1 == w / 2) with
    | some l => seqtPut (seqtPut (seqtDrop s m) (w - 1) l.2.2) w v
    | none => seqtPut s w v

/-- An access to the sequencer table (R30, R353). -/
def seqtServe (s : State) (r : Req) : State :=
  match plainCheck s 4 r with
  | some e => plainRefuse s 4 r e
  | none =>
    let w := (r.addr - 0x1800000) / 4
    if r.write then complete (seqtWrite s r.master w (leNat r.data)) r ⟨.ok, []⟩
    else complete s r ⟨.ok, toLE 4 (seqtWord s w)⟩

/-! ### The fabric -/

/-- The fabric takes requests: it accepts them (R146), and its clock runs or is being switched (R83, R86). -/
def fabricUp (s : State) : Bool := s.bus.accepting && (domRunning s 2 || domBusy s 2)

/-- The boot ROM runs, as master 0 (R126 step 4, R134, R138). -/
def bootRomRuns (s : State) : Bool :=
  match s.boot.stage with
  | .clocks | .memory | .flash | .recovery => true
  | .off | .rising | .settling | .held | .running | .resetting => false

/-- SPM answers: from step 4 of R126 on (R533), while its clock runs (R83, R636). -/
def spmAnswers (s : State) : Bool :=
  (match s.boot.stage with
   | .clocks | .memory | .flash | .running | .recovery => true
   | .off | .rising | .settling | .held | .resetting => false) && blockRuns s Reg.SPM.page

/-- Core pair `n` runs (R21, R606). -/
def pairRuns (s : State) (n : Nat) : Bool := rd s (Reg.CORE.STAT_STATE n) == 1 && blockRuns s (Reg.CORE.page n)

/-- The request's master issues it (R21, R22): no request carries master 15, and the DMA masters and the memory
controller reach stacked DRAM only, master 12 with writes. -/
def masterIssues (s : State) (r : Req) : Bool :=
  if r.master = 0 then bootRomRuns s
  else if r.master = 1 then pairRuns s 0
  else if r.master = 2 then pairRuns s 1
  else if r.master = 3 then spmAnswers s
  else if r.master < 12 then sesUp s (r.master - 4)
  else if r.master = 12 then targetOf r.addr == some 3 && r.write
  else r.master != 15 && targetOf r.addr == some 3

/-- An earlier request of the same master to the same target still waits, or is a commit that completes once its
gate has closed (R29). -/
def waitsBehind (s : State) (r : Req) : Bool :=
  (s.bus.waiting ++ s.bus.commits).any (fun q => q.master == r.master && targetOf q.addr == targetOf r.addr)

/-- A request reaches its target (R24, R25). -/
def reach (s : State) (r : Req) : State :=
  match targetOf r.addr with
  | none => complete s r (errC r .errUnmapped)
  | some 0 => romServe s r
  | some 1 => sramServe s r
  | some 2 => flashIssue s r
  | some 3 => dramIssue s r
  | some 4 => seqtServe s r
  | some t => pageServe s t r

/-- A request is served, or waits: for FAB to deliver edges (R83), or behind an earlier one (R29). -/
def offer (s : State) (r : Req) : State :=
  if domSwitching s 2 || waitsBehind s r then enqueue s r else reach s r

/-- The requests that wait try again, in the order of their arrival. -/
def serveWaiting (s : State) : State :=
  s.bus.waiting.foldl offer (s.onBus fun b => { b with waiting := [] })

/-- A master issues a request, which takes the next token; a master that issues none just then (R21, R22)
changes nothing. -/
def issue (s : State) (r : Req) : State :=
  if fabricUp s && masterIssues s r then
    serveWaiting (offer (s.onBus fun b => { b with token := b.token + 1 }) (stamped s r))
  else s

/-- A 32-bit write by a master. -/
def busWrite (s : State) (m addr v : Nat) (poison : Bool) : State :=
  issue s (mkReq m addr true false 4 (toLE 4 v) poison 0)

/-- A 32-bit read by a master, or an instruction fetch. -/
def busRead (s : State) (m addr : Nat) (fetch : Bool) : State := issue s (mkReq m addr false fetch 4 [] false 0)

/-- A 32-bit write of a page register. -/
def regWrite (s : State) (m pg off v : Nat) : State := busWrite s m (regAddr pg off) v false

end Sys2Proof.Machine
end

