-- ==== Sys2Proof/Machine/Spm.lean ====
section
/-! DEFINITION. The management slave port SPM (chapter 16): frames, the write queue, status bytes, and the
record of each frame. -/

namespace Sys2Proof.Machine

/-- SPM_SEL_N is low (R567). -/
def spmSelected (s : State) : Bool := rdb s Reg.SPM.STAT_FRAME

/-- A frame is in progress. -/
def spmInFrame (s : State) : Bool := s.spm.live

/-- SPM takes part in a frame in progress while its clock runs (R83, R636). -/
def spmActs (s : State) : Bool := spmInFrame s && blockRuns s Reg.SPM.page

/-- STAT.WQ follows the queue (R567). -/
def spmRegs (s : State) : State := wr s Reg.SPM.STAT_WQ s.spm.queue.length

/-- Note an irregularity of the frame, if it is the first (R545). -/
def spmNote (s : State) (i : Nat) : State :=
  s.onSpm fun x => { x with irreg := if x.irreg = 0 then i else x.irreg }

/-! ### Accesses (R538, R539) -/

/-- SPM issues an access. -/
def spmIssue (s : State) (a : Nat) (write : Bool) (v frame bads : Nat) : State :=
  let r := stamped s (mkReq 3 a write false 4 (if write then toLE 4 v else []) false bads)
  issue (s.onSpm fun x => { x with out := some (r, frame, none) }) r

/-- SPM can issue an access: it answers, and the fabric takes requests (R83, R533). -/
def spmCanIssue (s : State) : Bool := fabricUp s && spmAnswers s

/-- The next access is issued once none is outstanding: the oldest word of the write queue, then the
frame's next read (R539, R541, R542).  While SPM cannot issue it, it waits. -/
def spmRun (s : State) (bads : Nat) : State :=
  let x := s.spm
  if x.out.isSome then s
  else if spmCanIssue s = false then s.onSpm fun y => { y with bads := bads }
  else match x.queue with
    | w :: t => spmRegs (spmIssue (s.onSpm fun x => { x with queue := t }) w.addr true w.value w.frame bads)
    | [] =>
      if spmInFrame s && x.op == .read && !x.under then
        spmIssue (s.onSpm fun x => { x with issued := x.issued + 1 }) ((x.addr + 4 * x.issued) % 2 ^ 40) false 0
          x.frame bads
      else s

/-- The first bus-error code of a frame, in progress or the one SPM.LAST describes (R543). -/
def spmCode (s : State) (f code : Nat) : State :=
  if spmInFrame s && s.spm.frame == f then
    s.onSpm fun x => { x with code := if x.code = 0 then code else x.code }
  else if s.spm.last = f ∧ rd s Reg.SPM.LAST_CODE = 0 then wr s Reg.SPM.LAST_CODE code
  else s

/-- SPM_ACCESS_DONE (R539, R542, R543). -/
def spmAccessDone (bads : Fin 5) (s : State) : State :=
  match s.spm.out, blockRuns s Reg.SPM.page with
  | some (r, f, some c), true =>
    let s := s.onSpm fun x => { x with out := none }
    let s := if c.status.isErr then raise (spmCode s f c.status.code) Reg.SPM.evSPM_BUS_ERR else s
    let mine := spmInFrame s && s.spm.frame == f && !r.write && !s.spm.under
    let s := if mine then s.onSpm fun x => { x with got := x.got ++ [leNat c.data] } else s
    spmRun s bads
  | _, _ => s

def execSpmAccessDone (bads : Fin 5) (s : State) : Host.Outcome State Fault Refusal := .next (spmAccessDone bads s)

/-- `n` response bits are sent: SPM_STB toggles with each (R535). -/
def spmSend (s : State) (n v : Nat) : State :=
  (emit s (.spm n v)).onSpm fun x => { x with stb := x.stb != decide (n % 2 = 1) }

/-! ### Frames (R536, R537) -/

/-- SPM_SELECT_FALL (R534, R536, R546): the select is low (R567), and a frame begins if SPM answers (R533). -/
def spmSelectFall (s : State) : State :=
  if spmSelected s then s
  else
    let t := wrb s Reg.SPM.STAT_FRAME true
    if spmAnswers s = false ∨ spmInFrame s = true then t
    else
      let u := rd s Reg.SPM.CFG_UNIT
      t.onSpm fun x => { x with live := true, op := .header, addr := 0, unit := u, frame := x.frame + 1, words := 0
                                ready := false, got := [], issued := 0, under := false, irreg := 0, code := 0
                                stb := false }

def execSpmSelectFall (s : State) : Host.Outcome State Fault Refusal := .next (spmSelectFall s)

/-- The header of a frame in progress has been received (R536). -/
def spmHeader (s : State) (op : SpmOp) (addr : Nat) : Option State :=
  if spmActs s && s.spm.op == .header then some (s.onSpm fun x => { x with op := op, addr := addr }) else none

/-- SPM_WRITE_FRAME (R537). -/
def spmWriteFrame (addr : BitVec 40) (s : State) : State := (spmHeader s .write addr.toNat).getD s

def execSpmWriteFrame (addr : BitVec 40) (s : State) : Host.Outcome State Fault Refusal :=
  .next (spmWriteFrame addr s)

/-- SPM_READ_FRAME (R537, R541): the read of word 0 is issued, after the accesses before it. -/
def spmReadFrame (addr : BitVec 40) (bads : Fin 5) (s : State) : State :=
  match spmHeader s .read addr.toNat with
  | none => s
  | some t => spmRun t bads

def execSpmReadFrame (addr : BitVec 40) (bads : Fin 5) (s : State) : Host.Outcome State Fault Refusal :=
  .next (spmReadFrame addr bads s)

/-- A status byte (R541). -/
def statusByte (s : State) (ready : Bool) : Nat :=
  128 * b2n (rd s Reg.SPM.LAST_IRREG != 0 || rd s Reg.SPM.LAST_CODE != 0) + 64 * b2n s.evt.faultLow
    + 32 * b2n (evtNLow s) + b2n ready

/-- SPM_STAT_FRAME (R537): a status byte with READY at 1, then SPM.LAST as one word. -/
def spmStatFrame (addr : BitVec 40) (s : State) : State :=
  match spmHeader s .stat addr.toNat with
  | none => s
  | some t =>
    let t := spmSend t 8 (statusByte t true)
    let u := t.spm.unit
    spmSend (t.onSpm fun x => { x with words := 1 }) u (regWord t Reg.SPM.page 100 % 2 ^ u)

def execSpmStatFrame (addr : BitVec 40) (s : State) : Host.Outcome State Fault Refusal :=
  .next (spmStatFrame addr s)

/-- SPM_BAD_OP (R537): the frame is discarded. -/
def spmBadOp (op : BitVec 8) (addr : BitVec 40) (s : State) : State :=
  if 1 ≤ op.toNat ∧ op.toNat ≤ 3 then s
  else match spmHeader s .bad addr.toNat with
    | none => s
    | some t => spmNote t 5

def execSpmBadOp (op : BitVec 8) (addr : BitVec 40) (s : State) : Host.Outcome State Fault Refusal :=
  .next (spmBadOp op addr s)

/-- A write word waits in the queue, or is discarded when the queue is full (R540). -/
def spmPush (s : State) (a v bads : Nat) : State :=
  if 16 ≤ s.spm.queue.length then raise (spmNote s 4) Reg.SPM.evWQ_OVERFLOW
  else
    let f := s.spm.frame
    spmRun (spmRegs (s.onSpm fun x => { x with queue := x.queue ++ [⟨a, v, f⟩] })) bads

/-- The address of the frame's next word (R538). -/
def spmNextAddr (s : State) : Nat := (s.spm.addr + 4 * s.spm.words) % 2 ^ 40

/-- SPM_WRITE_WORD (R538, R540). -/
def spmWriteWord (w : Word32) (bads : Fin 5) (s : State) : State :=
  if spmActs s && s.spm.op == .write then
    let t := spmPush s (spmNextAddr s) (w.toNat % 2 ^ s.spm.unit) bads
    t.onSpm fun x => { x with words := x.words + 1 }
  else s

def execSpmWriteWord (w : Word32) (bads : Fin 5) (s : State) : Host.Outcome State Fault Refusal :=
  .next (spmWriteWord w bads s)

/-- A word of a READ is due (R542): the data read, or zeros from an underrun on. -/
def spmSendWord (s : State) : State :=
  let u := s.spm.unit
  match s.spm.got with
  | v :: t =>
    if s.spm.under then spmSend (s.onSpm fun x => { x with words := x.words + 1 }) u 0
    else spmSend (s.onSpm fun x => { x with words := x.words + 1, got := t }) u (v % 2 ^ u)
  | [] => spmSend ((spmNote s 3).onSpm fun x => { x with words := x.words + 1, under := true }) u 0

/-- SPM_READ_WORD_DUE (R541, R542): status bytes until one carries READY at 1, then words. -/
def spmReadWordDue (s : State) : State :=
  if (spmActs s && s.spm.op == .read) = false then s
  else if s.spm.ready then spmSendWord s
  else
    let r := !s.spm.got.isEmpty
    spmSend (s.onSpm fun x => { x with ready := r }) 8 (statusByte s r)

def execSpmReadWordDue (s : State) : Host.Outcome State Fault Refusal := .next (spmReadWordDue s)

/-! ### The end of a frame (R544, R545) -/

/-- What the end of a frame within a unit of `b` bits does: the irregularity, the whole words, and the
partial word of a WRITE (R544). -/
def spmCut (s : State) (b : Nat) (w : Nat) (bads : Nat) : State :=
  match s.spm.op with
  | .header => spmNote s 1
  | .write =>
    if b = 0 then s
    else spmPush (spmNote s 2) (spmNextAddr s) (w % 2 ^ b) bads
  | .read =>
    if s.spm.ready = false then spmNote s 6
    else if b = 0 then s
    else if s.spm.words = 0 then spmNote s 6
    else (spmNote s 2).onSpm fun x => { x with words := x.words - 1 }
  | .stat => if b = 0 then s else (spmNote s 2).onSpm fun x => { x with words := x.words - 1 }
  | .bad => s

/-- SPM.LAST takes the record of the frame (R545). -/
def spmRecord (s : State) (b : Nat) : State :=
  let x := s.spm
  if x.op = .stat ∧ x.irreg = 0 then s
  else
    wrAll (s.onSpm fun x => { x with last := x.frame })
      [(Reg.SPM.LAST_CODE, x.code), (Reg.SPM.LAST_IRREG, x.irreg), (Reg.SPM.LAST_BITS, if x.irreg = 2 then b else 0),
        (Reg.SPM.LAST_WORDS, min x.words 65535)]

/-- The frame in progress ends within a unit of `b` bits (R544, R545). -/
def spmEnd (s : State) (b w bads : Nat) : State :=
  let s := spmRecord (spmCut s b w bads) b
  let irr : Bool := s.spm.irreg != 0
  let s := inc s Reg.SPM.CNT_FRAMES 1
  let s := s.onSpm fun x => { x with live := false, op := .header, got := [] }
  if irr then raise (bump s Reg.SPM.CNT_IRREG 1) Reg.SPM.evFRAME_IRREG else s

/-- SPM_FRAME_END (R544, R545): the select rises.  While SPM's clock does not run, SPM takes the end once it runs
(R83, R636; DESIGN CHOICE, log entry 63). -/
def spmFrameEnd (nbits : Fin 48) (w : Word32) (bads : Fin 5) (s : State) : State :=
  if spmSelected s = false then s
  else
    let s := wrb s Reg.SPM.STAT_FRAME false
    if spmInFrame s = false then s
    else if blockRuns s Reg.SPM.page then spmEnd s nbits.val w.toNat bads
    else s.onSpm fun x => { x with rise := some (nbits.val, w.toNat, bads.val) }

/-- SPM goes on once its clock and FAB run: with the end of a frame whose select has risen, and with the accesses
that waited (R83, R539, R636). -/
def spmFollow (s : State) : State :=
  if spmCanIssue s = false then s
  else
    let s := match s.spm.rise with
      | none => s
      | some (b, w, bads) => spmEnd (s.onSpm fun x => { x with rise := none }) b w bads
    spmRun s s.spm.bads

def execSpmFrameEnd (nbits : Fin 48) (w : Word32) (bads : Fin 5) (s : State) : Host.Outcome State Fault Refusal :=
  .next (spmFrameEnd nbits w bads s)

/-- A device reset abandons the frame in progress, and the words of that frame in the write queue
(R547). -/
def spmAbandon (s : State) : State :=
  let f := s.spm.frame
  let s := if spmInFrame s then s.onSpm fun x => { x with queue := x.queue.filter (fun w => w.frame != f) } else s
  s.onSpm fun x => { x with live := false, rise := none, op := .header, out := none, got := [], ready := false
                            under := false, last := 0 }

end Sys2Proof.Machine
end

