-- ==== Sys2Proof/Machine/Boot.lean ====
section
/-! DEFINITION. Start-up, reset and recovery (chapter 04): the power-up sequence, device reset, image
verification, hand-over, recovery mode and the boot watchdog. -/

namespace Sys2Proof.Machine

/-! ### Power-up -/

/-- The OTP records are loaded (R126 step 3, R146 step 5). -/
def loadRecords (s : State) : State := wr (otpLoad s) Reg.DEV.BOOT_STAT_PHASE 1

/-- The level of SPM_SEL_N is the board's: STAT.FRAME shows it after every reset (R567). -/
def selKept (s t : State) : State := wrb t Reg.SPM.STAT_FRAME (spmSelected s)

/-- The internal power-on reset releases (R126 step 2), and the OTP records are loaded. What is kept: OTP,
flash, the level of RESET_N, and the model's own fields. -/
def powerOn (s : State) : State :=
  let r := State.reset
  selKept s (loadRecords { r with
    mems := { r.mems with otp := s.mems.otp, flash := s.mems.flash }
    pwr := { r.pwr with resetN := s.pwr.resetN }
    emitted := s.emitted, romKey := s.romKey, freeCtr := s.freeCtr, pending := s.pending })

/-- The power-up sequence waits at step 2 for a rail that has failed (R56): VIN is there, the other rails are in
regulation, and PWRGOOD has not risen. -/
def powerHeld (s : State) : State :=
  let r := State.reset
  selKept s { r with
    mems := { r.mems with otp := s.mems.otp, flash := s.mems.flash }
    pwr := { r.pwr with resetN := s.pwr.resetN, failed := s.pwr.failed, rails := 255 - s.pwr.failed % 256, goodSeen := false }
    bus := { r.bus with accepting := false }
    boot := { r.boot with stage := .rising }
    emitted := s.emitted, romKey := s.romKey, freeCtr := s.freeCtr, pending := s.pending }

/-- POWER_ON_RESET (R126): VIN rises; no NV operation runs then, since the NV island has lost power (R65). The
power-on reset releases once every rail is in regulation. -/
def powerOnReset (s : State) : State :=
  if nvRunning s then s else if s.pwr.failed % 256 = 0 then powerOn s else powerHeld s

def execPowerOnReset (s : State) : Host.Outcome State Fault Refusal := .next (powerOnReset s)

/-- RAIL_RETURN (R56, R638): a rail is in regulation again.  The last one releases a power-on reset that waits
for it. -/
def railReturn (r : Fin 8) (s : State) : State :=
  let s := s.onPwr fun p => { p with failed := clrBit p.failed r }
  if powered s then railBack r s
  else if s.boot.stage = .rising then
    (if s.pwr.failed % 256 = 0 then powerOn s else s.onPwr fun p => { p with rails := setBit p.rails r })
  else s

def execRailReturn (r : Fin 8) (s : State) : Host.Outcome State Fault Refusal := .next (railReturn r s)

/-- Step 4 of R126, after the records are loaded: the clocks start, the boot ROM starts, SPM answers. -/
def startClocks (clkin : Bool) (s : State) : State :=
  let s := if rd s Reg.DEV.BOOT_STAT_PHASE = 0 then loadRecords s else s
  let s := wr (clockStart clkin (s.onBoot fun b => { b with stage := .clocks })) Reg.DEV.BOOT_STAT_PHASE 2
  spmFollow (follow s)

/-- The sequence goes on at step 4, or waits there while RESET_N is low (R126, R139, R146). -/
def awaitResetN (clkin : Bool) (s : State) : State :=
  if s.pwr.resetN then startClocks clkin s else updateFault (s.onBoot fun b => { b with stage := .held })

/-- SETTLE_END (R95 step 2). -/
def settleEnd (clkin : Bool) (s : State) : State :=
  if s.boot.stage = .settling then awaitResetN clkin s else s

def execSettleEnd (clkin : Bool) (s : State) : Host.Outcome State Fault Refusal := .next (settleEnd clkin s)

/-- MEMORY_TRAINING_DONE (R126 step 7): the root loop has locked, or coasts. -/
def memoryTrainingDone (fuse : List FuseMap) (s : State) : State :=
  if s.boot.stage = .clocks ∧ rd s Reg.CLK.ROOT_STAT_STATE ≠ 1 then
    let s := fuseRecord (s.onMems fun m => { m with dram := [], checks := [], written := [] }) 0 (fuse.take 8)
    let s := (s.onMemc fun m => { m with trained := true, badRows := lostRows (fuse.take 8) }).onBoot fun b => { b with stage := .memory }
    wrAll (scrubFollow s) [(Reg.MEMC.WRITTEN_UNITS, 0), (Reg.MEMC.STAT_TRAINED, 1), (Reg.DEV.BOOT_STAT_PHASE, 3)]
  else s

def execMemoryTrainingDone (fuse : List FuseMap) (s : State) : Host.Outcome State Fault Refusal :=
  .next (memoryTrainingDone fuse s)

/-- FLASH_DISCOVERY (R126 step 8, R550, R551). -/
def flashDiscovery (t : Sfdp) (s : State) : State :=
  if s.boot.stage = .memory then
    wr ((spfDiscover s t).onBoot fun b => { b with stage := .flash }) Reg.DEV.BOOT_STAT_PHASE 4
  else s

def execFlashDiscovery (t : Sfdp) (s : State) : Host.Outcome State Fault Refusal := .next (flashDiscovery t s)

/-! ### Image slots (R128 to R131, R584 to R586) -/

/-- `n` bytes of the header of slot `k` from byte `a`, as a little-endian number. -/
def hdrNat (s : State) (k a n : Nat) : Nat := leNat (bytesAt flashDef s.mems.flash (k * 2 ^ 24 + a) n)

/-- Every byte of a slot's header from `a` to `b` is 0. -/
def hdrZero (s : State) (k a b : Nat) : Bool :=
  (bytesAt flashDef s.mems.flash (k * 2 ^ 24 + a) (b + 1 - a)).all (· == 0)

/-- An entry point is aligned and lies within the slot's body of `len` bytes. -/
def entryOk (k len e : Nat) : Bool :=
  let body := 0x20000000 + k * 2 ^ 24 + 4096
  e % 4 == 0 && decide (body ≤ e) && decide (e < body + len)

/-- The header of slot `k` is well formed (R585). -/
def slotFormed (s : State) (k : Nat) : Bool :=
  let len := hdrNat s k 12 4
  hdrNat s k 0 4 == 0x4C565244 && hdrNat s k 4 2 == 1 && len % 64 == 0 && decide (4096 ≤ len)
    && decide (len ≤ 16773120) && entryOk k len (hdrNat s k 16 4) && entryOk k len (hdrNat s k 20 4)
    && hdrZero s k 9 11 && hdrZero s k 169 175 && hdrZero s k 368 4095

/-- Bytes of slot `k` of the flash. -/
def slotBytes (s : State) (k a n : Nat) : List Byte := bytesAt flashDef s.mems.flash (k * 2 ^ 24 + a) n

/-- Check 4 of R129: IMG_HASH is the hash of the IMG_LEN bytes from slot offset 4,096 (R585). -/
def bodyHashOk (s : State) (k : Nat) : Bool := slotBytes s k 24 48 == sha384 (slotBytes s k 4096 (hdrNat s k 12 4))

/-- Check 6 of R129: the hash of the header's owner public key is the owner-key hash in OTP (R585, R573). -/
def ownerHashOk (s : State) (k : Nat) : Bool :=
  sha384 (slotBytes s k 72 97) == (wordsLE ((loadedData s 4).getD [])).take 48

/-- Check 7 of R129: the owner countersignature verifies under the header's owner public key (R584, R585). -/
def ownerSigOk (s : State) (k : Nat) : Bool :=
  ecdsaVerify (slotBytes s k 72 97) (sha384 (slotBytes s k 0 272)) (slotBytes s k 272 96)

/-- Check 5 of R129: the vendor signature verifies under the key that the boot ROM holds (R584, R585). -/
def vendorSigOk (s : State) (k : Nat) : Bool :=
  ecdsaVerify s.romKey (sha384 (slotBytes s k 0 176)) (slotBytes s k 176 96)

/-- The first check of R129 that slot `k` fails; 0 when none does (R130 for a part without an owner key). -/
def slotCode (s : State) (k : Nat) (v : SlotVerdict) : Nat :=
  if v.readable = false then 1
  else if slotFormed s k = false then 2
  else if hdrNat s k 8 1 < recWord s 3 0 0 % 256 then 3
  else if bodyHashOk s k = false then 4
  else if vendorSigOk s k = false then 5
  else if (loadedData s 4).isNone then 0
  else if ownerHashOk s k = false then 6
  else if ownerSigOk s k = false then 7
  else 0

/-! ### Hand-over and recovery mode -/

/-- Rights `x` for each of `n` masters, three bits each. -/
def rightsFor (x n : Nat) : Nat := x * ((8 ^ n - 1) / 7)

/-- The boot ROM writes region 0 of ACL[t] and commits it (R587). -/
def setRegion0 (s : State) (t base limit lo hi : Nat) (en lock : Bool) : State :=
  let s := wrS (wrS s (Reg.ACL.RGN_BASE_PAGE t 0) base) (Reg.ACL.RGN_BASE_LOCK t 0) (b2n lock)
  let s := wrS (wrS s (Reg.ACL.RGN_BASE_EN t 0) (b2n en)) (Reg.ACL.RGN_LIMIT_PAGE t 0) limit
  requestCommit (wrS (wrS s (Reg.ACL.RGN_RT_LO_RIGHTS t 0) lo) (Reg.ACL.RGN_RT_HI_RIGHTS t 0) hi) (Reg.ACL.page t)

/-- What a recovery mode entered before this verification granted on the SPF page is withdrawn (R587). -/
def spfRegionBack (s : State) : State :=
  if rdb s (Reg.ACL.RGN_BASE_EN 15 0) then setRegion0 s 15 0 0 0 0 false false else s

/-- Recovery mode (R138, R587). -/
def enterRecovery (s : State) : State :=
  let s := wr (s.onBoot fun b => { b with stage := .recovery }) Reg.DEV.BOOT_STAT_PHASE 6
  let s := setRegion0 s 2 0x20000 0x21FFF (1 + 3 * 8 ^ 3) 0 true false
  raise (setRegion0 s 15 0x1109 0x1109 (rightsFor 3 4) 0 true false) Reg.DEV.evBOOT_RECOVERY

/-- Hand-over to the image in slot `k` (R131, R133 to R135, R587); `fell` if the other slot has a code. -/
def handOver (s : State) (k : Nat) (fell : Bool) : State :=
  let s := setRegion0 (spfRegionBack s) 2 (0x20000 + k * 0x1000) (0x20FFF + k * 0x1000) (rightsFor 5 8) (rightsFor 5 7)
    true true
  let s := (s.onCore 0 fun c => { c with entry := hdrNat s k 16 4 }).onCore 1 fun c => { c with entry := hdrNat s k 20 4 }
  let s := wrAll (s.onBoot fun b => { b with stage := .running })
    [(Reg.DEV.BOOT_STAT_SLOT, k), (Reg.DEV.BOOT_STAT_FALLBACK, b2n fell), (Reg.DEV.IMG_SEQ, hdrNat s k 6 2),
      (Reg.DEV.IMG_SECVER, hdrNat s k 8 1), (Reg.CORE.STAT_STATE 0, 1), (Reg.CORE.STAT_STATE 1, 1),
      (Reg.DEV.BOOT_WDT_RUNNING, 1), (Reg.DEV.BOOT_STAT_PHASE, 5)]
  raise (raiseIf fell s Reg.DEV.evBOOT_FALLBACK) Reg.DEV.evBOOT_DONE

/-- The results of a verification (R129, R136): code 8 for the slot whose watchdog expired, if the other
slot is a candidate. -/
def slotCodes (s : State) (v0 v1 : SlotVerdict) : Nat × Nat :=
  let c0 := slotCode s 0 v0
  let c1 := slotCode s 1 v1
  if s.boot.wdtSkip = some 0 ∧ c1 = 0 then (8, c1)
  else if s.boot.wdtSkip = some 1 ∧ c0 = 0 then (c0, 8)
  else (c0, c1)

/-- BOOT_VERIFY (R126 step 9, R129 to R138). -/
def bootVerify (v0 v1 : SlotVerdict) (s : State) : State :=
  if s.boot.stage ≠ .flash then s
  else
    let c := slotCodes s v0 v1
    let s := wrAll (s.onBoot fun b => { b with wdtSkip := none })
      [(Reg.DEV.BOOT_STAT_FAIL0, c.1), (Reg.DEV.BOOT_STAT_FAIL1, c.2),
        (Reg.DEV.BOOT_STAT_NO_OWNER, b2n (loadedData s 4).isNone)]
    if 2 ≤ rd s Reg.DEV.RST_CAUSE_WDT_RUN then enterRecovery s
    else if c.1 = 0 then
      (if c.2 = 0 ∧ hdrNat s 0 6 2 < hdrNat s 1 6 2 then handOver s 1 false else handOver s 0 (c.2 != 0))
    else if c.2 = 0 then handOver s 1 true
    else enterRecovery s

def execBootVerify (v0 v1 : SlotVerdict) (s : State) : Host.Outcome State Fault Refusal := .next (bootVerify v0 v1 s)

/-! ### Device reset (R139, R146, R147) -/

/-- Step 1 of R146: the device stops; NV operations in progress are decided under R62 (R65). -/
def resetBegin (s : State) : State :=
  let s := dropRequests (spmAbandon s)
  let c := s.time.cycle
  let s := (s.onTime fun t => { t with outEnd := none }).onBoot fun b => { b with stage := .resetting, resetAt := c }
  follow (nvDecide s)

/-- A device reset is between steps 1 and 3, and this is still the FAB cycle in which it began (R147). -/
def sameCycle (s : State) : Bool := s.boot.stage == .resetting && s.boot.resetAt == s.time.cycle

/-- Where the power-up sequence stands past step 4: a cause starts a device reset (R147). -/
def running4 (s : State) : Bool :=
  match s.boot.stage with
  | .clocks | .memory | .flash | .running | .recovery => true
  | .off | .rising | .settling | .held | .resetting => false

/-- RESET_N_LOW (R139, R147): a cause of its own from step 4 on; before it, the sequence is held there. -/
def resetNLow (s : State) : State :=
  let s := s.onPwr fun p => { p with resetN := false }
  if running4 s then resetBegin (s.onBoot fun b => { b with causePin := true })
  else if s.boot.stage = .resetting then updateFault (s.onBoot fun b => { b with causePin := true })
  else updateFault s

def execResetNLow (s : State) : Host.Outcome State Fault Refusal := .next (resetNLow s)

/-- RESET_N_RELEASE (R139, R146 steps 4 and 5). -/
def resetNRelease (clkin : Bool) (s : State) : State :=
  let s := s.onPwr fun p => { p with resetN := true }
  if s.boot.stage = .held then startClocks clkin s else s

def execResetNRelease (clkin : Bool) (s : State) : Host.Outcome State Fault Refusal := .next (resetNRelease clkin s)

/-- CMD_RESET_START (R141, R147). -/
def cmdResetStart (s : State) : State :=
  if s.boot.cmdReset.isNone then s
  else if running4 s then resetBegin (s.onBoot fun b => { b with causeCmd := true })
  else if sameCycle s then s.onBoot fun b => { b with causeCmd := true }
  else s

def execCmdResetStart (s : State) : Host.Outcome State Fault Refusal := .next (cmdResetStart s)

/-- BOOT_WDT_EXPIRE (R135, R137, R147). -/
def bootWdtExpire (s : State) : State :=
  if rdb s Reg.DEV.BOOT_WDT_RUNNING = false then s
  else if running4 s then resetBegin (s.onBoot fun b => { b with causeWdt := true })
  else if sameCycle s then s.onBoot fun b => { b with causeWdt := true }
  else s

def execBootWdtExpire (s : State) : Host.Outcome State Fault Refusal := .next (bootWdtExpire s)

/-- The fields of PWR that a device reset leaves, or that show what still holds (R56, R65, R71). -/
def pwrKept (s : State) (old : Fld → Nat) (out : Nat) : State :=
  let s := wrAll s [(Reg.PWR.HOLDUP_BUDGET_MS, old Reg.PWR.HOLDUP_BUDGET_MS),
    (Reg.PWR.HOLDUP_VALID, old Reg.PWR.HOLDUP_VALID), (Reg.PWR.RAIL_STAT_FAULTED, out),
    (Reg.PWR.FENCE_STAT_CAUSE_VIN, old Reg.PWR.FENCE_STAT_CAUSE_VIN),
    (Reg.PWR.FENCE_STAT_CAUSE_VNV, old Reg.PWR.FENCE_STAT_CAUSE_VNV),
    (Reg.PWR.FENCE_STAT_CAUSE_HOLDUP, old Reg.PWR.FENCE_STAT_CAUSE_HOLDUP),
    (Reg.PWR.FENCE_STAT_ON_HOLDUP, old Reg.PWR.FENCE_STAT_ON_HOLDUP)]
  wrb s Reg.PWR.FENCE_STAT_CLOSED (fenceWanted s)

/-- DEV.RST_CAUSE and DEV.RST_CNT after a device reset (R135, R146 step 3, R148).  CMD_MASTER and WDT_SLOT are 0
after a reset of another cause (DESIGN CHOICE, log entry 54). -/
def rstRecord (s : State) (old : Fld → Nat) (b : BootH) : State :=
  let run := old Reg.DEV.RST_CAUSE_WDT_RUN
  wrAll s [(Reg.DEV.RST_CAUSE_POR, 0), (Reg.DEV.RST_CAUSE_PIN, b2n b.causePin), (Reg.DEV.RST_CAUSE_CMD, b2n b.causeCmd),
    (Reg.DEV.RST_CAUSE_WDT, b2n b.causeWdt), (Reg.DEV.RST_CAUSE_CMD_MASTER, if b.causeCmd then b.cmdReset.getD 0 else 0),
    (Reg.DEV.RST_CAUSE_WDT_SLOT, if b.causeWdt then old Reg.DEV.BOOT_STAT_SLOT else 0),
    (Reg.DEV.RST_CAUSE_WDT_RUN, if b.causeWdt then satAdd 2 run 1 else run),
    (Reg.DEV.RST_CNT_COUNT, satAdd 16 (old Reg.DEV.RST_CNT_COUNT) 1)]

/-- Every link epoch goes on over a device reset (R480; DEDUCED, log entry 39). -/
def nextEpochs (s : State) (old : Fld → Nat) : State :=
  (List.range 17).foldl (fun s h => wr s (Reg.LINK0.HL_BUF_EPOCH h) (old (Reg.LINK0.HL_BUF_EPOCH h) + 1)) s

/-- The resets of R142 for a device reset. -/
def deviceReset (s : State) : State :=
  let r := State.reset
  let old := rd s
  let skip := if s.boot.causeWdt then some (old Reg.DEV.BOOT_STAT_SLOT) else none
  let t : State := { r with
    mems := { r.mems with otp := s.mems.otp, flash := s.mems.flash }
    pwr := { s.pwr with therm := false }
    boot := { r.boot with wdtSkip := skip }
    spm := { r.spm with frame := s.spm.frame, queue := s.spm.queue, bads := s.spm.bads }
    emitted := s.emitted, romKey := s.romKey, freeCtr := s.freeCtr, pending := s.pending }
  nextEpochs (spmRegs (selKept s (rstRecord (pwrKept t old (255 - s.pwr.rails % 256)) old s.boot))) old

/-- DEVICE_RESET_APPLY (R65, R146 steps 3 to 5): once no NV operation is in progress. -/
def deviceResetApply (clkin : Bool) (s : State) : State :=
  if s.boot.stage = .resetting ∧ nvRunning s = false then awaitResetN clkin (deviceReset s) else s

def execDeviceResetApply (clkin : Bool) (s : State) : Host.Outcome State Fault Refusal :=
  .next (deviceResetApply clkin s)

end Sys2Proof.Machine
end

