-- ==== Sys2Proof/Machine/ClockEvents.lean ====
section
/-! DEFINITION. The ends of clock operations (chapter 03): the lock of the root loop, the first edge after a
domain switch, and gates that close. -/

namespace Sys2Proof.Machine

/-- Step 6 of R126: once the root loop has locked, the boot ROM commits FAB, MGT and SLO to the root at their reset
dividers.  While the loop coasts at step 6 it commits nothing, so a later return of CLKIN leaves those domains on
bypass (DESIGN CHOICE, log entry 23). -/
def bootToRoot (s : State) : State :=
  if s.boot.stage = .clocks ∧ [2, 4, 5].any (fun d =>
      rd s (Reg.CLK.DOM_CTL_SRC d) != 1 || rd s (Reg.CLK.DOM_CTL_DIV d) != resetOf (Reg.CLK.DOM_CTL_DIV d)) = true then
    requestCommit ([2, 4, 5].foldl (fun s d =>
      wrS (wrS s (Reg.CLK.DOM_CTL_SRC d) 1) (Reg.CLK.DOM_CTL_DIV d) (resetOf (Reg.CLK.DOM_CTL_DIV d))) s) Reg.CLK.page
  else s

/-- ROOT_LOCK (R76). -/
def rootLock (s : State) : State := if rd s Reg.CLK.ROOT_STAT_STATE = 1 then bootToRoot (lockRoot s) else s

def execRootLock (s : State) : Host.Outcome State Fault Refusal := .next (rootLock s)

/-- Eight periods of FAB's old source, in 2^-16 of 1/36 ns (R88, R89). -/
def oldEdges (s : State) : Nat :=
  if fabMeasured s then 8 * measPeriod s
  else 8 * srcPeriod (rootLocked s) (vget s.clk.cur .stopped 2) * 65536

/-- Device time over a switch of FAB to the clock `x` (R88): eight old periods and eight new ones in one
step; none when FAB stops. -/
def fabSwitchTime (s : State) (x : Source) : State :=
  if x = .stopped then s
  else
    let t := s.time.sub + oldEdges s + 8 * srcPeriod (rootLocked s) x * 65536
    let s := elapse s (t / 65536)
    addUnits (s.onTime fun y => { y with sub := t % 65536 }) (t / 65536)

/-- Domain `d` runs from `x` and switches no more. -/
def domNow (s : State) (d : Nat) (x : Source) : State :=
  let s := s.onClk fun c => { c with cur := vset c.cur d x, next := vset c.next d none }
  clkRegs (s.onTime fun t => { t with
    fabRem := if d = 2 then 0 else t.fabRem, mgtRem := if d = 4 then 0 else t.mgtRem
    sloRem := if d = 5 then 0 else t.sloRem })

/-- DOM_SWITCH_DONE (R82 to R84, R88): the first new edge is delivered; what waited for it goes on. -/
def domSwitchDone (d : Fin 6) (s : State) : State :=
  match vget s.clk.next none d with
  | none => s
  | some x =>
    if domWaits s d then s
    else
      let s := domNow (if d.val = 2 then fabSwitchTime s x else s) d x
      let s := if d.val = 2 ∧ x ≠ .stopped then fabTick s else s
      let s := herdsResume (herdsTryTrain (clockFollow (runDeferred (raise s Reg.CLK.evDOM_SWITCH_DONE))))
      applyHeld s.clk.held (spmFollow (serveWaiting s))

def execDomSwitchDone (d : Fin 6) (s : State) : Host.Outcome State Fault Refusal := .next (domSwitchDone d s)

/-- GATE_CLOSE (R91): the block's bus is idle. -/
def gateClose (pg : BitVec 10) (s : State) : State :=
  if gatePending s pg.toNat && busIdle s pg.toNat then serveWaiting (closeGate s pg.toNat) else s

def execGateClose (pg : BitVec 10) (s : State) : Host.Outcome State Fault Refusal := .next (gateClose pg s)

/-- GATE_TMO (R91): the access in progress completes with BUS_ERR_TIMEOUT and the gate closes. -/
def gateTmo (pg : BitVec 10) (s : State) : State :=
  if gatePending s pg.toNat && !busIdle s pg.toNat then
    serveWaiting (closeGate (timeoutAccesses s pg.toNat) pg.toNat)
  else s

def execGateTmo (pg : BitVec 10) (s : State) : Host.Outcome State Fault Refusal := .next (gateTmo pg s)

end Sys2Proof.Machine
end

