-- ==== Sys2Proof/Machine/Session.lean ====
section
/-! DEFINITION. The receiving side of Bribin Link and its sessions (chapter 14): header check, sequence
and credit, transactions, EVENT and TELEM, key exchange; and the signatures of SEC (R592). -/

namespace Sys2Proof.Machine

/-! ### Reception -/

/-- Herd blocks are received: none while an active return lane is failed and its new map is not yet in
effect (R475). -/
def linkHears (s : State) (h : Nat) (credit : Bool) : Bool :=
  (if credit then herdCredits s h else herdUp s h) && (s.herd h).newRx.isNone
    && (s.herd h).rxMap.all (fun j => rd s (Reg.HERD.LANE_RX_ROLE h j) == 2)

/-- A message of the herd's block stream arrives, after an idle block if `gap` (R471, R475): discarded until one has
come, or with a header that fails, which is counted; of a message that is the command's own, `f` is what it does. -/
def receive (s : State) (h w w1 : Nat) (gap credit mine : Bool) (f : State → State) : State :=
  if linkHears s h credit = false then s
  else
    let s := if gap then s.onLink h fun l => { l with seek := false } else s
    if (s.link h).seek then s
    else if headerOk w w1 = false then headerBad (s.onLink h fun l => { l with seek := true }) h
    else if mine then f s else s

/-! ### Sequence and credit (R479, R482, R495) -/

/-- E advances over a message of cost `c`, whose buffer is freed at once if `free` (R482, R483). -/
def advanceE (s : State) (h c : Nat) (free : Bool) : State :=
  linkRegs (s.onLink h fun l =>
    { l with rxE := l.rxE + 1, procCost := l.procCost + c, freed := l.freed + (if free then c else 0)
             due := true, nakSent := false }) h

/-- A message in order whose tag fails (R495, R502 cause 3). -/
def tagFailed (s : State) (h k : Nat) : State :=
  let s := bump (bump s (Reg.LINK0.HL_ERR_GCM_FAIL h) 1) (Reg.LINK1.SES_CNT_GCM_RUN k) 1
  let s := raise s Reg.LINK1.evGCM_FAIL
  let s := s.onLink h fun l => { l with due := true, nakDue := true }
  if rd s Reg.LINK1.SES_CTL_GCM_MAX ≤ rd s (Reg.LINK1.SES_CNT_GCM_RUN k) then endSession s k 3 else s

/-- Where a received message stands. -/
inductive Arrival
  /-- not in order: dealt with. -/
  | dropped
  /-- in order, for no session established on the herd, or with ENC at 0. -/
  | open
  /-- in order, of an established session, with a good tag. -/
  | good
deriving DecidableEq, Repr

/-- The message's slot is established on the herd. -/
def ownSession (s : State) (h w : Nat) : Bool := hEnc w && sesUp s (hSlot w) && sesHerd s (hSlot w) == h

/-- The tag of an ENC message that arrives in order, for its plaintext words (R494). -/
def gcmTag (s : State) (h w : Nat) (plain : List Nat) : List Byte :=
  let p := words64LE plain
  (gcmSeal (s.ses (hSlot w)).keyIn (gcmIv false h (hSlot w) (s.link h).rxE) (toLE 7 (if bit w 19 then w - 2 ^ 19 else w))
    p).drop p.length

/-- A sequenced message with a correct header arrives (R479, R489, R495). -/
def arrive (s : State) (h w : Nat) (tagOk : Bool) : State × Arrival :=
  let e := (s.link h).rxE % 65536
  let back := (e + 65536 - hSeq w) % 65536
  if back = 0 then
    if ownSession s h w then
      if tagOk then (wr s (Reg.LINK1.SES_CNT_GCM_RUN (hSlot w)) 0, .good)
      else (tagFailed s h (hSlot w), .dropped)
    else (s, .open)
  else if back ≤ 32768 then (creditDue s h, .dropped)
  else (nakDue s h, .dropped)

/-- Cost of a received message (R482). -/
def hCost (w : Nat) : Nat := (hLen w + 7) / 8

/-- A READ, WRITE or TELEM that no session sent: processed for sequence and credit, discarded, counted
(R489). -/
def discardOpen (s : State) (h w : Nat) : State :=
  bump (advanceE s h (hCost w) true) (Reg.LINK0.HL_ERR_GCM_FAIL h) 1

/-! ### Transactions (R487 to R490) -/

/-- Responses of slot `k` that wait to be sent (R490). -/
def respWaiting (s : State) (h k : Nat) : Nat :=
  ((vget (s.link h).queues [] k).filter (fun b => b.kind == 3 || b.kind == 4)).length

/-- A request breaks R30 for the target of its address (R489). -/
def sizeBad (r : Req) : Bool := match targetOf r.addr with | none => false | some t => !alignOk t r

/-- The session's oldest request not issued may be issued (R488, R490). -/
def mayIssue (s : State) (k : Nat) (q : SesReq) : Bool :=
  (s.ses k).out.length < 16 && respWaiting s (sesHerd s k) k < 16 && !(q.fence && !(s.ses k).out.isEmpty)

/-- Issue one request of session `k`: it frees its buffer, and goes to the fabric unless R489 answers
it. -/
def sesIssue1 (s : State) (k : Nat) (q : SesReq) (bads : Nat) : State :=
  let r := stamped s { q.req with bads := bads }
  let bad := q.compl.isSome || sizeBad r
  let compl := if bad then some (errC r .errAlign) else none
  let s := s.onSes k fun x =>
    { x with backlog := x.backlog.drop 1
             out := x.out ++ [{ q with req := r, cost := 0, compl := compl, rank := if bad then nextRank x.out else 0 }] }
  let s := s.onLink (sesHerd s k) fun l => { l with freed := l.freed + q.cost, due := true }
  if bad then s else issue s r

/-- Issue what may be issued of session `k`; `fuel` is the number of requests waiting. -/
def sesIssue : Nat → State → Nat → Nat → State
  | 0, s, _, _ => s
  | n + 1, s, k, bads =>
    match (s.ses k).backlog with
    | [] => s
    | q :: _ => if mayIssue s k q then sesIssue n (sesIssue1 s k q bads) k bads else s

/-- Issue what may be issued, then send what the herd has to send. -/
def sesRun (s : State) (k bads : Nat) : State :=
  let h := sesHerd s k
  pump (sesIssue (s.ses k).backlog.length s k bads) h

/-- A request of an established session is processed (R488); `lenBad` if its LEN does not match its
SIZE. -/
def sesRequest (s : State) (h w : Nat) (r : Req) (fence lenBad : Bool) (bads : Nat) : State :=
  let k := hSlot w
  let q : SesReq := ⟨hSeq w, r, fence, hCost w, if lenBad then some (errC r .errAlign) else none, 0⟩
  let s := advanceE s h (hCost w) false
  sesRun (s.onSes k fun x => { x with backlog := x.backlog ++ [q] }) k bads

/-- The request of a READ or WRITE (R487). -/
def sesReqOf (k w1 : Nat) (write : Bool) (data : List Byte) : Req :=
  mkReq (4 + k) (bits w1 0 40) write false (bits w1 40 6 + 1) data (write && bit w1 47) 0

/-- A message in sequence is processed for credit, and an END, margin report or exchange does what `f` says (R479,
R483). -/
def processed (s : State) (h w : Nat) (f : State → State) : State := pump (f (advanceE s h (hCost w) true)) h

/-- MSG_READ (R487 to R489). -/
def msgRead (h : Fin 17) (gap : Bool) (hdr w1 : Word64) (more : List Word64) (tag : List Byte) (bads : Fin 5)
    (s : State) :
    State :=
  let w := hdr.toNat
  receive s h w w1.toNat gap false (hKind w == 1) fun s =>
    let a := arrive s h w (tag == gcmTag s h w (w1.toNat :: more.map BitVec.toNat))
    match a.2 with
    | .dropped => pump a.1 h
    | .open => pump (discardOpen a.1 h w) h
    | .good => sesRequest a.1 h w (sesReqOf (hSlot w) w1.toNat false []) (bit w1.toNat 46) false bads

def execMsgRead (h : Fin 17) (gap : Bool) (hdr w1 : Word64) (more : List Word64) (tag : List Byte) (bads : Fin 5)
    (s : State) : Host.Outcome State Fault Refusal := .next (msgRead h gap hdr w1 more tag bads s)

/-- MSG_WRITE (R487 to R489). -/
def msgWrite (h : Fin 17) (gap : Bool) (hdr w1 : Word64) (data : List Word64) (tag : List Byte) (bads : Fin 5)
    (s : State) :
    State :=
  let w := hdr.toNat
  receive s h w w1.toNat gap false (hKind w == 2) fun s =>
    let a := arrive s h w (tag == gcmTag s h w (w1.toNat :: data.map BitVec.toNat))
    match a.2 with
    | .dropped => pump a.1 h
    | .open => pump (discardOpen a.1 h w) h
    | .good =>
      let size := bits w1.toNat 40 6 + 1
      let d := (words64LE (data.map BitVec.toNat)).take size
      sesRequest a.1 h w (sesReqOf (hSlot w) w1.toNat true d) (bit w1.toNat 46)
        (hLen w != 4 + (size + 7) / 8 || d.length != size) bads

def execMsgWrite (h : Fin 17) (gap : Bool) (hdr w1 : Word64) (data : List Word64) (tag : List Byte) (bads : Fin 5)
    (s : State) : Host.Outcome State Fault Refusal := .next (msgWrite h gap hdr w1 data tag bads s)

/-- The RDATA or WRACK that answers a request (R487). -/
def responseBody (k : Nat) (q : SesReq) (c : Completion) : Body :=
  let head := q.seq + c.status.code * 2 ^ 16
  if q.req.write then ⟨4, k, true, [head]⟩
  else
    let size := q.req.size
    ⟨3, k, true, (head + (size - 1) * 2 ^ 20) :: packWords ((size + 7) / 8) c.data⟩

/-- The `n`-th element of a list, with the list without it. -/
def pick {α : Type} : Nat → List α → Option (α × List α)
  | _, [] => none
  | 0, a :: t => some (a, t)
  | n + 1, a :: t => (pick n t).map (fun x => (x.1, a :: x.2))

/-- The request is the first to have completed of a session's (R488). -/
def answerDue (l : List SesReq) (q : SesReq) : Bool := l.all (fun p => p.compl.isNone || decide (q.rank ≤ p.rank))

/-- TRANSACTION_COMPLETE (R488): a request that has completed is answered, in the order of completion; it stays
outstanding while the queue of responses is full (R490, log entry 67). -/
def transactionComplete (k : Fin 8) (n : Fin 16) (bads : Fin 5) (s : State) : State :=
  match pick n (s.ses k).out with
  | none => s
  | some (q, rest) =>
    if answerDue (s.ses k).out q = false ∨ 16 ≤ respWaiting s (sesHerd s k) k then s
    else match q.compl with
      | none => s
      | some c =>
        let s := s.onSes k fun x => { x with out := rest }
        sesRun (queueMsg s (sesHerd s k) (responseBody k q c)) k bads

def execTransactionComplete (k : Fin 8) (n : Fin 16) (bads : Fin 5) (s : State) :
    Host.Outcome State Fault Refusal := .next (transactionComplete k n bads s)

/-! ### CREDIT (R480 to R485) -/

/-- The peer has been reset (R480). -/
def peerReset (s : State) (h : Nat) : State :=
  raise (zeroLink (endHerdSessions s h 5) h) Reg.LINK0.evPEER_RESET

/-- The epoch of a CREDIT (R480): the first since a reset only sets PEER_EPOCH. -/
def takeEpoch (s : State) (h ep : Nat) : State :=
  let changed := (s.link h).peerSeen && rd s (Reg.LINK0.HL_BUF_PEER_EPOCH h) != ep
  let s := if changed then peerReset s h else s
  wr (s.onLink h fun l => { l with peerSeen := true }) (Reg.LINK0.HL_BUF_PEER_EPOCH h) ep

/-- MSG_CREDIT (R480 to R485). -/
def msgCredit (h : Fin 17) (gap : Bool) (hdr w1 : Word64) (s : State) : State :=
  let w := hdr.toNat
  let c := w1.toNat
  receive s h w c gap true (hKind w == 7) fun s =>
    let s := takeEpoch s h (bits c 24 8)
    let s := ackRelease (s.onLink h fun l => { l with limit := bits c 32 16 }) h (bits c 0 16)
    if bit c 16 && herdUp s h then replay s h else pump s h

def execMsgCredit (h : Fin 17) (gap : Bool) (hdr w1 : Word64) (s : State) : Host.Outcome State Fault Refusal :=
  .next (msgCredit h gap hdr w1 s)

/-! ### TELEM and EVENT (R491 to R493) -/

/-- A margin report is taken or ignored (R456, R492). -/
def marginTake (s : State) (w1 : Nat) : State :=
  let h := bits w1 8 5
  let i := bits w1 13 5
  if 16 < h ∨ nTx h ≤ i ∨ (txRole s h i ≠ 2 ∧ txRole s h i ≠ 3) then raise s Reg.LINK2.evMARGIN_IGNORED
  else wrAll s [(Reg.HERD.TX_MARGIN_HEIGHT h i, bits w1 18 12), (Reg.HERD.TX_MARGIN_WIDTH h i, bits w1 30 6),
    (Reg.HERD.TX_MARGIN_VALID h i, 1)]

/-- MSG_TELEM_MARGIN (R456, R489, R492): a SUB other than 2 is discarded. -/
def msgTelemMargin (h : Fin 17) (gap : Bool) (hdr w1 : Word64) (more : List Word64) (tag : List Byte)
    (s : State) : State :=
  let w := hdr.toNat
  receive s h w w1.toNat gap false (hKind w == 6) fun s =>
    let a := arrive s h w (tag == gcmTag s h w (w1.toNat :: more.map BitVec.toNat))
    match a.2 with
    | .dropped => pump a.1 h
    | .open => pump (discardOpen a.1 h w) h
    | .good => processed a.1 h w fun s => if w1.toNat % 256 = 2 then marginTake s w1.toNat else s

def execMsgTelemMargin (h : Fin 17) (gap : Bool) (hdr w1 : Word64) (more : List Word64) (tag : List Byte) (s : State) :
    Host.Outcome State Fault Refusal := .next (msgTelemMargin h gap hdr w1 more tag s)

/-- A message of slot `k` would be sent at once: none of the slot waits, credit and replay space are
there. -/
def sendsNow (s : State) (k : Nat) (b : Body) : Bool :=
  (vget (s.link (sesHerd s k)).queues [] k).isEmpty && canSend s (sesHerd s k) b

/-- The EVENT body of a notice (R491); past 65,535 drops the 16-bit count wraps (DESIGN CHOICE, log entry 63). -/
def eventBody (k : Nat) (n : Notice) (seq drop : Nat) : Body :=
  ⟨5, k, true, [n.ns, n.frac + n.id * 2 ^ 16 + n.trust * 2 ^ 31 + seq * 2 ^ 32, drop % 65536]⟩

/-- EVENT_MESSAGE (R184, R185, R491): the oldest notice leaves once its log sequence number is known; one that waits
for replay space is noted (R484). -/
def eventMessage (k : Fin 8) (s : State) : State :=
  match vget s.evt.notices [] k with
  | [] => s
  | n :: t =>
    match n.logSeq with
    | none => s
    | some q =>
      let b := eventBody k n q (vget s.evt.dropSince 0 k)
      if sesUp s k && sendsNow s k b then
        let s := s.onEvt fun v => { v with notices := vset v.notices k t, dropSince := vset v.dropSince k 0 }
        queueMsg s (sesHerd s k) b
      else if sesUp s k then stalls s (sesHerd s k) b
      else s

def execEventMessage (k : Fin 8) (s : State) : Host.Outcome State Fault Refusal := .next (eventMessage k s)

/-- TELEM_REPORT_MESSAGE (R492): the oldest report leaves. -/
def telemReportMessage (k : Fin 8) (s : State) : State :=
  match (s.ses k).reports with
  | [] => s
  | (p, ws) :: t =>
    let b : Body := ⟨6, k, true, (1 + p * 2 ^ 8) :: ws⟩
    if sesUp s k && sendsNow s k b then
      queueMsg (s.onSes k fun x => { x with reports := t }) (sesHerd s k) b
    else if sesUp s k then stalls s (sesHerd s k) b
    else s

def execTelemReportMessage (k : Fin 8) (s : State) : Host.Outcome State Fault Refusal :=
  .next (telemReportMessage k s)

/-- A report of port `p` is queued for the sessions that subscribe to it (R492). -/
def reportToSessions (s : State) (p : Nat) (b : List Byte) : State :=
  (List.range 8).foldl (fun s k =>
    if bit (rd s (Reg.LINK2.TEL_SUBS_PORTS k)) p = false then s
    else if 16 ≤ (s.ses k).reports.length then
      raise (bump s (Reg.LINK2.TEL_STAT_DROP k) 1) Reg.LINK2.evTEL_DROP
    else s.onSes k fun x => { x with reports := x.reports ++ [(p, packWords 48 b)] }) s

/-! ### Key exchange (R496 to R500) -/

/-- The bytes of a point in a message (R468, R497). -/
def pointIn (ws : List Nat) : List Byte := (words64LE ws).take 97

/-- The authority entry `e` of SES_AUTH holds the hash of the key, which it permits for slot `k` (R500, R573). -/
def authOk (s : State) (e k : Nat) (auth : List Nat) : Bool :=
  let entry := (List.range 12).map (fun i => recWord s 5 (13 * e + i) 0)
  entry.any (· != 0) && wordsLE entry == sha384 (pointIn auth) && bit (recWord s 5 (13 * e + 12) 0) k

/-- Core pair B runs (R500). -/
def pairBRuns (s : State) : Bool := rd s (Reg.CORE.STAT_STATE 1) == 1

/-- The first check of R500 that an INIT for slot `k` fails; 0 when none does. -/
def initReason (s : State) (k len w0slot w1 : Nat) (words auth : List Nat) : Nat :=
  if rd s (Reg.LINK1.SES_STAT_STATE k) ≠ 0 then 1
  else if authOk s (bits w1 11 2) k auth = false then 2
  else if rdb s Reg.SEC.STAT_KEY = false then 5
  else if pairBRuns s = false then 6
  else if !onCurve (pointIn (words.take 13)) || len != 32 || words.length != 17 || auth.length != 13 || w0slot != k
      || w1 / 2 ^ 13 != 0 then 7
  else 0

/-- `n` fresh numbers of 64 bits, which the spec draws from on-die entropy (R498). -/
def freeWords : Nat → State → List Nat × State
  | 0, s => ([], s)
  | n + 1, s =>
    let f := free s
    let r := freeWords n f.2
    (f.1 % 2 ^ 64 :: r.1, r.2)

/-- A private scalar from 1 to n - 1 out of random words, as 12 words that hold it big-endian. -/
def scalarOf (ws : List Nat) : List Nat := packWords32 12 (toBE 48 (1 + beNat (wordsLE ws) % (p384n - 1)))

/-- Words 1 to 31 of REPLY (R497, R498), of an ephemeral private key and a nonce that have been drawn: QD, ND and
the identity public key. -/
def replyWords (s : State) (eph nonce : List Nat) : List Nat :=
  let pub := wordsLE ((List.range 25).map (fun i => rd s (Reg.SEC.ID_PUB_DATA i)))
  2 :: packWords 13 (pointBytes (p384Mul (beNat (wordsLE eph)) p384g)) ++ nonce ++ packWords 13 (pub.take 97)

/-- An INIT is accepted (R498 step 1): the slot is bound to the herd, and REPLY waits for its
signature. -/
def initAccept (s : State) (h k : Nat) (words : List Nat) : State :=
  let d := freeWords 12 s
  let n := freeWords 4 d.2
  let eph := scalarOf d.1
  let c := s.time.cycle
  let r := replyWords s eph n.1
  let s := n.2.onSes k fun x => { x with exch := .signing, init := words, reply := r, initAt := c, eph := eph }
  signNext (wrAll s [(Reg.LINK1.SES_STAT_STATE k, 1), (Reg.LINK1.SES_STAT_HERD k, h),
    (Reg.LINK1.SES_STAT_AUTH k, bits (words.headD 0) 11 2)])

/-- The INIT that holds slot `k` was processed in this FAB cycle on a higher-numbered herd than `h` (R501). -/
def initYields (s : State) (h k : Nat) : Bool :=
  (s.ses k).exch == .signing && (s.ses k).initAt == s.time.cycle && decide (h < sesHerd s k)

/-- Of two INITs processed in one FAB cycle, the one on the lower-numbered herd takes the slot, and the other is
answered with SLOT_BUSY (R501). -/
def initYield (s : State) (h k : Nat) : State := if initYields s h k then exchFail s k 1 else s

/-- KEYX_INIT (R498, R500, R501). -/
def keyxInit (h : Fin 17) (gap : Bool) (hdr w1 : Word64) (words auth : List Word64) (s : State) : State :=
  let w := hdr.toNat
  let w1 := w1.toNat
  let ws := words.map BitVec.toNat
  let au := auth.map BitVec.toNat
  receive s h w w1 gap false (hKind w == 8 && !hEnc w && w1 % 256 == 1) fun s =>
    let a := arrive s h w true
    match a.2 with
    | .dropped => pump a.1 h
    | _ => processed a.1 h w fun s =>
      let k := bits w1 8 3
      let y := initYield s h k
      let c := initReason y k (hLen w) (hSlot w) w1 ws au
      if c = 0 then initAccept y h k (w1 :: ws ++ au) else keyxReject s h k c

def execKeyxInit (h : Fin 17) (gap : Bool) (hdr w1 : Word64) (words auth : List Word64) (s : State) :
    Host.Outcome State Fault Refusal := .next (keyxInit h gap hdr w1 words auth s)

/-- KEYX_REPLY (R498 step 2): REPLY is sent once its signature is made. -/
def keyxReply (k : Fin 8) (s : State) : State :=
  if (s.ses k).exch ≠ .signed then s
  else
    let ws := (s.ses k).reply
    queueMsg (s.onSes k fun x => { x with exch := .replied }) (sesHerd s k) ⟨8, k, false, ws⟩

def execKeyxReply (k : Fin 8) (s : State) : Host.Outcome State Fault Refusal := .next (keyxReply k s)

/-- A FINISH for slot `k` on herd `h` (R498 step 3, R500): a wrong LEN or reserved field is reason 7, one
that precedes REPLY cannot verify. -/
def finishTake (s : State) (h k len : Nat) (ws : List Nat) : State :=
  if inExchange s k = false ∨ sesHerd s k ≠ h then s
  else if len ≠ 14 ∨ ws.length ≠ 13 ∨ ws.headD 0 / 256 ≠ 0 then exchFail s k 7
  else match (s.ses k).exch with
    | .replied => s.onSes k fun x => { x with exch := .verifying, finish := ws }
    | .verifying => s
    | _ => exchFail s k 3

/-- KEYX_FINISH (R498, R500): a KEYX message with another SUB is discarded after its sequence. -/
def keyxFinish (h : Fin 17) (gap : Bool) (hdr : Word64) (words : List Word64) (s : State) : State :=
  let w := hdr.toNat
  let ws := words.map BitVec.toNat
  receive s h w (ws.headD 0) gap false (hKind w == 8 && !hEnc w && ws.headD 0 % 256 != 1) fun s =>
    let a := arrive s h w true
    match a.2 with
    | .dropped => pump a.1 h
    | _ => processed a.1 h w fun s => if ws.headD 0 % 256 = 3 then finishTake s h (hSlot w) (hLen w) ws else s

def execKeyxFinish (h : Fin 17) (gap : Bool) (hdr : Word64) (words : List Word64) (s : State) :
    Host.Outcome State Fault Refusal := .next (keyxFinish h gap hdr words s)

/-- TH of an exchange (R498 step 2): INIT words 1 to 31, then REPLY words 1 to 31. -/
def transcript (x : SesH) : List Byte := sha384 (words64LE (x.init ++ x.reply.take 31))

/-- The 64 bytes of keys of an exchange for slot `k` on herd `h` (R499): Z is of QP and the ephemeral private
key, and info is BRIBIN-1, the slot and the herd. -/
def sesKeys (x : SesH) (k h : Nat) : List Byte :=
  let z := toBE 48 (p384Mul (beNat (wordsLE x.eph)) (pointOf (pointIn ((x.init.drop 1).take 13)))).1
  hkdf384 z (transcript x) ([0x42, 0x52, 0x49, 0x42, 0x49, 0x4E, 0x2D, 0x31] ++ toLE 1 k ++ toLE 1 h)

/-- A session is established (R186, R191, R493, R498 step 4): its keys are derived, and the ephemeral private key
and the transcript are erased (R499). -/
def sesEstablish (s : State) (k : Nat) : State :=
  let ks := sesKeys (s.ses k) k (sesHerd s k)
  let s := s.onSes k fun _ => { SesH.reset with keyIn := ks.take 32, keyOut := ks.drop 32 }
  let s := wr (clearSubs s k) (Reg.EVT2.SUB_STAT_DROP k) 0
  let s := wr (wr s (Reg.LINK1.SES_STAT_STATE k) 2) (Reg.LINK1.SES_CNT_GCM_RUN k) 0
  raise (bump s (Reg.LINK1.SES_CNT_UPS k) 1) (Reg.LINK1.evSES_UP k)

/-- SP verifies (R498 step 3): the authority key of INIT signs the hash of 0x50 and TH. -/
def finishOk (x : SesH) : Bool :=
  ecdsaVerify (pointIn (x.init.drop 18)) (sha384 (0x50 :: transcript x)) (words64LE (x.finish.drop 1))

/-- KEYX_ACCEPT (R498 step 4, R500 reason 3). -/
def keyxAccept (h : Fin 17) (k : Fin 8) (s : State) : State :=
  if (s.ses k).exch ≠ .verifying ∨ sesHerd s k ≠ h then s
  else if finishOk (s.ses k) then queueMsg (sesEstablish s k) (sesHerd s k) ⟨8, k, true, [4 + k * 2 ^ 8]⟩
  else exchFail s k 3

def execKeyxAccept (h : Fin 17) (k : Fin 8) (s : State) : Host.Outcome State Fault Refusal :=
  .next (keyxAccept h k s)

/-- KEYX_TIMEOUT (R500 reason 4). -/
def keyxTimeout (k : Fin 8) (s : State) : State := if (s.ses k).exch = .replied then exchFail s k 4 else s

def execKeyxTimeout (k : Fin 8) (s : State) : Host.Outcome State Fault Refusal := .next (keyxTimeout k s)

/-- KEYX_END (R497, R502 cause 1): an END of the session ends it; any other END is discarded after its
sequence. -/
def keyxEnd (h : Fin 17) (gap : Bool) (hdr w1 : Word64) (more : List Word64) (tag : List Byte) (s : State) : State :=
  let w := hdr.toNat
  receive s h w w1.toNat gap false (hKind w == 8 && (hEnc w || w1.toNat % 256 == 5)) fun s =>
    let a := arrive s h w (tag == gcmTag s h w (w1.toNat :: more.map BitVec.toNat))
    match a.2 with
    | .dropped => pump a.1 h
    | .open => processed a.1 h w fun s => s
    | .good => processed a.1 h w fun s => if w1.toNat % 256 = 5 then endSession s (hSlot w) 1 else s

def execKeyxEnd (h : Fin 17) (gap : Bool) (hdr w1 : Word64) (more : List Word64) (tag : List Byte) (s : State) :
    Host.Outcome State Fault Refusal := .next (keyxEnd h gap hdr w1 more tag s)

/-- SESSION_IDLE (R502 cause 2). -/
def sessionIdle (k : Fin 8) (s : State) : State := endSession s k 2

def execSessionIdle (k : Fin 8) (s : State) : Host.Outcome State Fault Refusal := .next (sessionIdle k s)

/-! ### Signatures (R592, R338 to R341) -/

/-- A report leaves the signing queue (R340, R341, R492): signed, or with zeros where it was made
UNSIGNED. -/
def reportSigned (s : State) (r : Report) (sig : List Byte) : State :=
  let unsigned := bit ((r.bytes.getD 3 0).toNat) 6
  let b := r.bytes.take 288 ++ (if unsigned then zeros 96 else (sig ++ zeros 96).take 96)
  if repRingBad s r.port then raise s (Reg.TSTAT.evREPORT_ERR r.port)
  else reportToSessions (reportWrite s r.port b) r.port b

/-- A signature under the identity key, of what is hashed (R591). -/
def signed (s : State) (msg : List Byte) : List Byte := ecdsaSign (wordsLE (s.sec.key.getD [])) (sha384 msg)

/-- The signature of a REPLY is made (R498 step 2). -/
def replySigned (s : State) (k : Nat) : State :=
  s.onSes k fun x => { x with exch := .signed, reply := x.reply ++ packWords 12 (signed s (0x44 :: transcript x)) }

/-- The signature of a SIGN command is made (R591, R592). -/
def commandSigned (s : State) (d : List Byte) : State :=
  let ws := packWords32 24 (signed s (0x46 :: d))
  let s := s.onSec fun x => { x with sign := none }
  let s := (List.range 24).foldl (fun s i => wr s (Reg.SEC.SIGN_OUT_DATA i) (ws.getD i 0)) s
  raise (wrAll s [(Reg.SEC.STAT_SIGN_BUSY, 0), (Reg.SEC.STAT_SIGN_RES, 1)]) Reg.SEC.evSIGN_DONE

/-- What a finished signature does. -/
def jobDone (s : State) : SigJob → State
  | .reply k => if (s.ses k).exch = .signing then replySigned s k else s
  | .command => (match s.sec.sign with
    | some d => commandSigned s d
    | none => s)
  | .report r => if s.sec.reports.contains r then
      reportSigned (s.onSec fun x => { x with reports := x.reports.erase r }) r (signed s (r.bytes.take 288))
    else s

/-- The kind of a signature. -/
def SigJob.kind : SigJob → Fin 3
  | .reply _ => 0
  | .command => 1
  | .report _ => 2

/-- SIGN_COMPLETE (R592): SEC ends the signature it makes, if it is of the kind named, and takes up the next. -/
def signComplete (job : Fin 3) (s : State) : State :=
  match s.sec.making with
  | none => s
  | some (j, _) =>
    if j.kind ≠ job then s else signNext (jobDone (s.onSec fun x => { x with making := none }) j)

def execSignComplete (job : Fin 3) (s : State) : Host.Outcome State Fault Refusal :=
  .next (signComplete job s)

end Sys2Proof.Machine
end

