-- ==== Sys2Proof/Machine/Commands.lean ====
section
/-! DEFINITION. The commands that are accesses of a master: writes and reads of registers with a row of their
own, register reads and writes in general, memory and flash-window accesses, and the page resets they
request. -/

namespace Sys2Proof.Machine

/-! ### Clocks, time, boot -/

/-- LOSS_ACK (R103). -/
def lossAck (m : Fin 16) (v : Word32) (s : State) : State := regWrite s m Reg.CLK.page 112 v.toNat

def execLossAck (m : Fin 16) (v : Word32) (s : State) : Host.Outcome State Fault Refusal :=
  .next (lossAck m v s)

/-- TIME_STEP (R115): OP 1. -/
def timeStep (m : Fin 16) (s : State) : State := regWrite s m Reg.TIME.page 92 1

def execTimeStep (m : Fin 16) (s : State) : Host.Outcome State Fault Refusal := .next (timeStep m s)

/-- TIME_SET_NOW (R115): OP 2. -/
def timeSetNow (m : Fin 16) (s : State) : State := regWrite s m Reg.TIME.page 92 2

def execTimeSetNow (m : Fin 16) (s : State) : Host.Outcome State Fault Refusal := .next (timeSetNow m s)

/-- TIME_SET_AT_SYNC_IN (R115, R116): OP 3. -/
def timeSetAtSyncIn (m : Fin 16) (s : State) : State := regWrite s m Reg.TIME.page 92 3

def execTimeSetAtSyncIn (m : Fin 16) (s : State) : Host.Outcome State Fault Refusal :=
  .next (timeSetAtSyncIn m s)

/-- TIME_CANCEL (R115): OP 4. -/
def timeCancel (m : Fin 16) (s : State) : State := regWrite s m Reg.TIME.page 92 4

def execTimeCancel (m : Fin 16) (s : State) : Host.Outcome State Fault Refusal := .next (timeCancel m s)

/-- RST_CMD (R141). -/
def rstCmd (m : Fin 16) (v : Word32) (s : State) : State := regWrite s m Reg.DEV.page 76 v.toNat

def execRstCmd (m : Fin 16) (v : Word32) (s : State) : Host.Outcome State Fault Refusal :=
  .next (rstCmd m v s)

/-- FW_OK (R135). -/
def fwOk (m : Fin 16) (s : State) : State := regWrite s m Reg.DEV.page 88 1

def execFwOk (m : Fin 16) (s : State) : Host.Outcome State Fault Refusal := .next (fwOk m s)

/-- BOOT_RETRY (R138). -/
def bootRetry (m : Fin 16) (s : State) : State := regWrite s m Reg.DEV.page 88 2

def execBootRetry (m : Fin 16) (s : State) : Host.Outcome State Fault Refusal := .next (bootRetry m s)

/-! ### Pages and events -/

/-- PAGE_RST (R151): PG_CTL with PAGE_RST at 1. -/
def pageRst (m : Fin 16) (pg : BitVec 10) (v : Word32) (s : State) : State :=
  regWrite s m pg.toNat 8 (setBit v.toNat 1)

def execPageRst (m : Fin 16) (pg : BitVec 10) (v : Word32) (s : State) : Host.Outcome State Fault Refusal :=
  .next (pageRst m pg v s)

/-- PAGE_COMMIT (R163). -/
def pageCommit (m : Fin 16) (pg : BitVec 10) (s : State) : State := regWrite s m pg.toNat 16 1

def execPageCommit (m : Fin 16) (pg : BitVec 10) (s : State) : Host.Outcome State Fault Refusal :=
  .next (pageCommit m pg s)

/-- PG_FREEZE (R172): PG_CTL. -/
def pgFreeze (m : Fin 16) (pg : BitVec 10) (v : Word32) (s : State) : State := regWrite s m pg.toNat 8 v.toNat

def execPgFreeze (m : Fin 16) (pg : BitVec 10) (v : Word32) (s : State) : Host.Outcome State Fault Refusal :=
  .next (pgFreeze m pg v s)

/-- ERR_CLR (R160): PG_CTL with ERR_CLR at 1. -/
def errClr (m : Fin 16) (pg : BitVec 10) (v : Word32) (s : State) : State :=
  regWrite s m pg.toNat 8 (setBit v.toNat 3)

def execErrClr (m : Fin 16) (pg : BitVec 10) (v : Word32) (s : State) : Host.Outcome State Fault Refusal :=
  .next (errClr m pg v s)

/-- LOCK_TAKE (R166). -/
def lockTake (m : Fin 16) (pg : BitVec 10) (s : State) : State := regWrite s m pg.toNat 32 (2 ^ 16)

def execLockTake (m : Fin 16) (pg : BitVec 10) (s : State) : Host.Outcome State Fault Refusal :=
  .next (lockTake m pg s)

/-- LOCK_RELEASE (R167). -/
def lockRelease (m : Fin 16) (pg : BitVec 10) (s : State) : State := regWrite s m pg.toNat 32 (2 ^ 17)

def execLockRelease (m : Fin 16) (pg : BitVec 10) (s : State) : Host.Outcome State Fault Refusal :=
  .next (lockRelease m pg s)

/-- LOCK_BREAK (R168). -/
def lockBreak (m : Fin 16) (pg : BitVec 10) (s : State) : State := regWrite s m pg.toNat 32 (2 ^ 18)

def execLockBreak (m : Fin 16) (pg : BitVec 10) (s : State) : Host.Outcome State Fault Refusal :=
  .next (lockBreak m pg s)

/-- EVT_RAW_CLEAR (R175). -/
def evtRawClear (m : Fin 16) (pg : BitVec 10) (v : Word32) (s : State) : State :=
  regWrite s m pg.toNat 20 v.toNat

def execEvtRawClear (m : Fin 16) (pg : BitVec 10) (v : Word32) (s : State) : Host.Outcome State Fault Refusal :=
  .next (evtRawClear m pg v s)

/-- LOG_RD_WRITE (R182). -/
def logRdWrite (m : Fin 16) (v : Word32) (s : State) : State := regWrite s m Reg.EVT1.page 80 v.toNat

def execLogRdWrite (m : Fin 16) (v : Word32) (s : State) : Host.Outcome State Fault Refusal :=
  .next (logRdWrite m v s)

/-- An address outside the flash window and the stacked DRAM, whose accesses have rows of their own. -/
def plainAddr (a : Nat) : Bool := targetOf a != some 2 && targetOf a != some 3

/-- REGISTER_WRITE (R11, R30, R162). -/
def registerWrite (m : Fin 16) (addr : BitVec 40) (v : Word32) (poison : Bool) (s : State) : State :=
  if plainAddr addr.toNat then busWrite s m addr.toNat v.toNat poison else s

def execRegisterWrite (m : Fin 16) (addr : BitVec 40) (v : Word32) (poison : Bool)
    (s : State) : Host.Outcome State Fault Refusal :=
  .next (registerWrite m addr v poison s)

/-- LOW_HALF_READ (R171). -/
def lowHalfRead (m : Fin 16) (addr : BitVec 40) (fetch : Bool) (s : State) : State :=
  if plainAddr addr.toNat then busRead s m addr.toNat fetch else s

def execLowHalfRead (m : Fin 16) (addr : BitVec 40) (fetch : Bool) (s : State) : Host.Outcome State Fault Refusal :=
  .next (lowHalfRead m addr fetch s)

/-- HIGH_HALF_READ (R171). -/
def highHalfRead (m : Fin 16) (addr : BitVec 40) (fetch : Bool) (s : State) : State :=
  if plainAddr addr.toNat then busRead s m addr.toNat fetch else s

def execHighHalfRead (m : Fin 16) (addr : BitVec 40) (fetch : Bool) (s : State) : Host.Outcome State Fault Refusal :=
  .next (highHalfRead m addr fetch s)

/-- PAGE_RESET_APPLY (R143, R151): the page's bus is idle. -/
def pageResetApply (pg : BitVec 10) (s : State) : State :=
  if resetPending s pg.toNat && busIdle s pg.toNat then
    serveWaiting (unmarkPage (pageReset s pg.toNat) pg.toNat)
  else s

def execPageResetApply (pg : BitVec 10) (s : State) : Host.Outcome State Fault Refusal :=
  .next (pageResetApply pg s)

/-- PAGE_RESET_TIMEOUT (R151). -/
def pageResetTimeout (pg : BitVec 10) (s : State) : State :=
  if resetPending s pg.toNat && !busIdle s pg.toNat then
    serveWaiting (unmarkPage (pageReset (timeoutAccesses s pg.toNat) pg.toNat) pg.toNat)
  else s

def execPageResetTimeout (pg : BitVec 10) (s : State) : Host.Outcome State Fault Refusal :=
  .next (pageResetTimeout pg s)

/-! ### Traffic machine -/

/-- FG_CAL (R249). -/
def fgCal (m : Fin 16) (n : Fin 64) (s : State) : State := regWrite s m (Reg.CNV.page n) 80 1

def execFgCal (m : Fin 16) (n : Fin 64) (s : State) : Host.Outcome State Fault Refusal := .next (fgCal m n s)

/-- BF_SWAP (R281). -/
def bfSwap (m : Fin 16) (p : Fin 16) (s : State) : State := regWrite s m (Reg.EQ.page p) 120 1

def execBfSwap (m : Fin 16) (p : Fin 16) (s : State) : Host.Outcome State Fault Refusal :=
  .next (bfSwap m p s)

/-- SNAP (R295). -/
def snap (m : Fin 16) (p : Fin 16) (s : State) : State := regWrite s m (Reg.EQ.page p) 120 2

def execSnap (m : Fin 16) (p : Fin 16) (s : State) : Host.Outcome State Fault Refusal := .next (snap m p s)

/-- REACQ (R277). -/
def reacq (m : Fin 16) (p : Fin 16) (s : State) : State := regWrite s m (Reg.EQ.page p) 120 4

def execReacq (m : Fin 16) (p : Fin 16) (s : State) : Host.Outcome State Fault Refusal := .next (reacq m p s)

/-- HERD_RETRAIN (R447). -/
def herdRetrain (m : Fin 16) (h : Fin 17) (s : State) : State := regWrite s m (Reg.HERD.page h) 76 1

def execHerdRetrain (m : Fin 16) (h : Fin 17) (s : State) : Host.Outcome State Fault Refusal :=
  .next (herdRetrain m h s)

/-- LANE_TEST (R464): a return lane if `ret`. -/
def laneTest (m : Fin 16) (h : Fin 17) (lane : Fin 32) (ret : Bool) (s : State) : State :=
  regWrite s m (Reg.HERD.page h) 76 (2 + lane * 2 ^ 8 + b2n ret * 2 ^ 13)

def execLaneTest (m : Fin 16) (h : Fin 17) (lane : Fin 32) (ret : Bool)
    (s : State) : Host.Outcome State Fault Refusal :=
  .next (laneTest m h lane ret s)

/-- SES_KILL (R503). -/
def sesKill (m : Fin 16) (slots : BitVec 8) (s : State) : State := regWrite s m Reg.LINK1.page 68 slots.toNat

def execSesKill (m : Fin 16) (slots : BitVec 8) (s : State) : Host.Outcome State Fault Refusal :=
  .next (sesKill m slots s)

/-! ### Precision monitor and filter chain -/

/-- SEQT_LO_WRITE (R353). -/
def seqtLoWrite (m : Fin 16) (i : BitVec 16) (w : Word32) (s : State) : State :=
  busWrite s m (0x1800000 + 8 * i.toNat) w.toNat false

def execSeqtLoWrite (m : Fin 16) (i : BitVec 16) (w : Word32) (s : State) : Host.Outcome State Fault Refusal :=
  .next (seqtLoWrite m i w s)

/-- SEQT_HI_WRITE (R353). -/
def seqtHiWrite (m : Fin 16) (i : BitVec 16) (w : Word32) (s : State) : State :=
  busWrite s m (0x1800000 + 8 * i.toNat + 4) w.toNat false

def execSeqtHiWrite (m : Fin 16) (i : BitVec 16) (w : Word32) (s : State) : Host.Outcome State Fault Refusal :=
  .next (seqtHiWrite m i w s)

/-- INJ_GO (R367). -/
def injGo (m : Fin 16) (s : State) : State := regWrite s m Reg.SEQ.page 80 1

def execInjGo (m : Fin 16) (s : State) : Host.Outcome State Fault Refusal := .next (injGo m s)

/-- PCV_CAL (R369). -/
def pcvCal (m : Fin 16) (c : Fin 24) (s : State) : State := regWrite s m (Reg.PCV.page c) 72 1

def execPcvCal (m : Fin 16) (c : Fin 24) (s : State) : Host.Outcome State Fault Refusal :=
  .next (pcvCal m c s)

/-- RING_RD_WRITE (R381). -/
def ringRdWrite (m : Fin 16) (r : Fin 16) (v : Word32) (s : State) : State :=
  regWrite s m Reg.RING.page (272 + 32 * r) v.toNat

def execRingRdWrite (m : Fin 16) (r : Fin 16) (v : Word32) (s : State) : Host.Outcome State Fault Refusal :=
  .next (ringRdWrite m r v s)

/-- FILT_BANK_SWAP (R412). -/
def filtBankSwap (m : Fin 16) (n : Fin 48) (s : State) : State := regWrite s m (Reg.FILT.page n) 156 1

def execFiltBankSwap (m : Fin 16) (n : Fin 48) (s : State) : Host.Outcome State Fault Refusal :=
  .next (filtBankSwap m n s)

/-- PAR_TRIG (R427). -/
def parTrig (m : Fin 16) (n : Fin 48) (s : State) : State := regWrite s m (Reg.FILT.page n) 156 2

def execParTrig (m : Fin 16) (n : Fin 48) (s : State) : Host.Outcome State Fault Refusal :=
  .next (parTrig m n s)

/-- FILT_RESTART (R409). -/
def filtRestart (m : Fin 16) (n : Fin 48) (s : State) : State := regWrite s m (Reg.FILT.page n) 156 4

def execFiltRestart (m : Fin 16) (n : Fin 48) (s : State) : Host.Outcome State Fault Refusal :=
  .next (filtRestart m n s)

/-- OUT_RD_WRITE (R418). -/
def outRdWrite (m : Fin 16) (n : Fin 48) (v : Word32) (s : State) : State :=
  regWrite s m (Reg.FILT.page n) 200 v.toNat

def execOutRdWrite (m : Fin 16) (n : Fin 48) (v : Word32) (s : State) : Host.Outcome State Fault Refusal :=
  .next (outRdWrite m n v s)

/-- PAR_RD_WRITE (R426). -/
def parRdWrite (m : Fin 16) (n : Fin 48) (v : Word32) (s : State) : State :=
  regWrite s m (Reg.FILT.page n) 236 v.toNat

def execParRdWrite (m : Fin 16) (n : Fin 48) (v : Word32) (s : State) : Host.Outcome State Fault Refusal :=
  .next (parRdWrite m n v s)

/-! ### Stacked memory -/

/-- A memory request of a length its row allows, to an address of target `t` or of no target, is issued. -/
def memIssue (s : State) (t : Nat) (ok : Bool) (r : Req) : State :=
  if ok && (targetOf r.addr).getD t == t then issue s r else s

/-- DRAM_READ (R507, R509). -/
def dramRead (m : Fin 16) (addr : BitVec 40) (len : Fin 65) (fetch bad : Bool) (s : State) : State :=
  memIssue s 3 (len.val != 0) (mkReq m addr.toNat false fetch len [] false (b2n bad))

def execDramRead (m : Fin 16) (addr : BitVec 40) (len : Fin 65) (fetch bad : Bool)
    (s : State) : Host.Outcome State Fault Refusal :=
  .next (dramRead m addr len fetch bad s)

/-- DRAM_WRITE (R512): a whole line. -/
def dramWrite (m : Fin 16) (addr : BitVec 40) (data : List Byte) (poison : Bool) (s : State) : State :=
  memIssue s 3 (data.length == 64) (mkReq m addr.toNat true false data.length data poison 0)

def execDramWrite (m : Fin 16) (addr : BitVec 40) (data : List Byte) (poison : Bool)
    (s : State) : Host.Outcome State Fault Refusal :=
  .next (dramWrite m addr data poison s)

/-- DRAM_PARTIAL_WRITE (R513, R514). -/
def dramPartialWrite (m : Fin 16) (addr : BitVec 40) (data : List Byte) (poison : Bool) (bads : Fin 5)
    (s : State) : State :=
  memIssue s 3 (data.length != 0 && decide (data.length < 64))
    (mkReq m addr.toNat true false data.length data poison bads)

def execDramPartialWrite (m : Fin 16) (addr : BitVec 40) (data : List Byte) (poison : Bool) (bads : Fin 5)
    (s : State) : Host.Outcome State Fault Refusal :=
  .next (dramPartialWrite m addr data poison bads s)

/-- RETIRE_ADD (R522). -/
def retireAdd (m : Fin 16) (page : BitVec 17) (s : State) : State :=
  regWrite s m Reg.RETIRE.page 64 page.toNat

def execRetireAdd (m : Fin 16) (page : BitVec 17) (s : State) : Host.Outcome State Fault Refusal :=
  .next (retireAdd m page s)

/-- WEAK_CLR_ONE (R530). -/
def weakClrOne (m : Fin 16) (idx : BitVec 8) (s : State) : State :=
  regWrite s m Reg.MEMC.page 76 (idx.toNat + 2 ^ 8)

def execWeakClrOne (m : Fin 16) (idx : BitVec 8) (s : State) : Host.Outcome State Fault Refusal :=
  .next (weakClrOne m idx s)

/-- WEAK_CLR_ALL (R530). -/
def weakClrAll (m : Fin 16) (s : State) : State := regWrite s m Reg.MEMC.page 76 (2 ^ 9)

def execWeakClrAll (m : Fin 16) (s : State) : Host.Outcome State Fault Refusal := .next (weakClrAll m s)

/-! ### Serial ports -/

/-- FLASH_WINDOW_READ (R553): a core pair's own cache answers for a line that it holds (R608). -/
def flashWindowRead (m : Fin 16) (addr : BitVec 40) (len : Fin 65) (fetch : Bool) (s : State) : State :=
  let r := mkReq m addr.toNat false fetch len [] false 0
  match (if len.val != 0 && alignOk 2 r && masterIssues s r then cacheHit s r else none) with
  | some d => complete s (stamped s r) ⟨.ok, d⟩
  | none => memIssue s 2 (len.val != 0) r

def execFlashWindowRead (m : Fin 16) (addr : BitVec 40) (len : Fin 65) (fetch : Bool)
    (s : State) : Host.Outcome State Fault Refusal :=
  .next (flashWindowRead m addr len fetch s)

/-- FLASH_WINDOW_WRITE (R554). -/
def flashWindowWrite (m : Fin 16) (addr : BitVec 40) (data : List Byte) (poison : Bool) (s : State) : State :=
  memIssue s 2 (data.length != 0 && decide (data.length ≤ 64))
    (mkReq m addr.toNat true false data.length data poison 0)

def execFlashWindowWrite (m : Fin 16) (addr : BitVec 40) (data : List Byte) (poison : Bool)
    (s : State) : Host.Outcome State Fault Refusal :=
  .next (flashWindowWrite m addr data poison s)

/-- SPF_ERASE (R557). -/
def spfErase (m : Fin 16) (offset : BitVec 26) (type : Fin 4) (s : State) : State :=
  regWrite s m Reg.SPF.page 72 (offset.toNat + type * 2 ^ 26)

def execSpfErase (m : Fin 16) (offset : BitVec 26) (type : Fin 4) (s : State) : Host.Outcome State Fault Refusal :=
  .next (spfErase m offset type s)

/-- Q_CMD_PUSH (R561). -/
def qCmdPush (m : Fin 16) (w : Word32) (s : State) : State := regWrite s m Reg.SPF.page 76 w.toNat

def execQCmdPush (m : Fin 16) (w : Word32) (s : State) : Host.Outcome State Fault Refusal :=
  .next (qCmdPush m w s)

/-- Q_TX_PUSH (R561). -/
def qTxPush (m : Fin 16) (w : Word32) (s : State) : State := regWrite s m Reg.SPF.page 80 w.toNat

def execQTxPush (m : Fin 16) (w : Word32) (s : State) : Host.Outcome State Fault Refusal :=
  .next (qTxPush m w s)

/-- Q_RX_READ (R569). -/
def qRxRead (m : Fin 16) (s : State) : State := busRead s m (regAddr Reg.SPF.page 84) false

def execQRxRead (m : Fin 16) (s : State) : Host.Outcome State Fault Refusal := .next (qRxRead m s)

/-! ### Security -/

/-- OTP_GEN_WRITE (R578). -/
def otpGenWrite (m : Fin 16) (rec : BitVec 8) (s : State) : State :=
  regWrite s m Reg.OTP.page 64 (rec.toNat + 2 ^ 8)

def execOtpGenWrite (m : Fin 16) (rec : BitVec 8) (s : State) : Host.Outcome State Fault Refusal :=
  .next (otpGenWrite m rec s)

/-- PROVISION (R588). -/
def provision (m : Fin 16) (s : State) : State := regWrite s m Reg.SEC.page 64 1

def execProvision (m : Fin 16) (s : State) : Host.Outcome State Fault Refusal := .next (provision m s)

/-- SEC_SIGN (R592). -/
def secSign (m : Fin 16) (s : State) : State := regWrite s m Reg.SEC.page 64 2

def execSecSign (m : Fin 16) (s : State) : Host.Outcome State Fault Refusal := .next (secSign m s)

/-- CORE_INV (R608). -/
def coreInv (m : Fin 16) (n : Fin 2) (s : State) : State := regWrite s m (Reg.CORE.page n) 68 1

def execCoreInv (m : Fin 16) (n : Fin 2) (s : State) : Host.Outcome State Fault Refusal :=
  .next (coreInv m n s)

end Sys2Proof.Machine
end

