-- ==== Sys2Proof/Machine/Dispatch.lean ====
section
/-! DEFINITION. The meaning of each command: one arm per row of the table. -/

namespace Sys2Proof.Machine

/-- The effect of a command on everything but the queue. -/
def exec (i : Instr) (s : State) : Host.Outcome State Fault Refusal :=
  match i with
  | .powerOnReset => Sys2Proof.Machine.execPowerOnReset s
  | .railFault r => Sys2Proof.Machine.execRailFault r s
  | .railReturn r => Sys2Proof.Machine.execRailReturn r s
  | .firstStageStop => Sys2Proof.Machine.execFirstStageStop s
  | .vinSag => Sys2Proof.Machine.execVinSag s
  | .vnvSag => Sys2Proof.Machine.execVnvSag s
  | .sagRecover vnv => Sys2Proof.Machine.execSagRecover vnv s
  | .nvAbandon kind words => Sys2Proof.Machine.execNvAbandon kind words s
  | .holdupMeasured ms => Sys2Proof.Machine.execHoldupMeasured ms s
  | .holdupCharged => Sys2Proof.Machine.execHoldupCharged s
  | .voltMeasUpdate vin vnv => Sys2Proof.Machine.execVoltMeasUpdate vin vnv s
  | .thermSample tj => Sys2Proof.Machine.execThermSample tj s
  | .settleEnd clkin => Sys2Proof.Machine.execSettleEnd clkin s
  | .rootLock => Sys2Proof.Machine.execRootLock s
  | .rootAcqTimeout => Sys2Proof.Machine.execRootAcqTimeout s
  | .clkinLoss => Sys2Proof.Machine.execClkinLoss s
  | .rootLossOfLock => Sys2Proof.Machine.execRootLossOfLock s
  | .clkinReturn qualified => Sys2Proof.Machine.execClkinReturn qualified s
  | .driftWindow ppm => Sys2Proof.Machine.execDriftWindow ppm s
  | .domSwitchDone d => Sys2Proof.Machine.execDomSwitchDone d s
  | .lossAck m v => Sys2Proof.Machine.execLossAck m v s
  | .tstateAccept pins => Sys2Proof.Machine.execTstateAccept pins s
  | .phaseStep ps => Sys2Proof.Machine.execPhaseStep ps s
  | .gateClose pg => Sys2Proof.Machine.execGateClose pg s
  | .gateTmo pg => Sys2Proof.Machine.execGateTmo pg s
  | .syncInEdge sub => Sys2Proof.Machine.execSyncInEdge sub s
  | .syncInMiss => Sys2Proof.Machine.execSyncInMiss s
  | .syncOutRise => Sys2Proof.Machine.execSyncOutRise s
  | .syncOutFall => Sys2Proof.Machine.execSyncOutFall s
  | .timeStep m => Sys2Proof.Machine.execTimeStep m s
  | .timeSetNow m => Sys2Proof.Machine.execTimeSetNow m s
  | .timeSetAtSyncIn m => Sys2Proof.Machine.execTimeSetAtSyncIn m s
  | .timeCancel m => Sys2Proof.Machine.execTimeCancel m s
  | .setAtSyncInTimeout => Sys2Proof.Machine.execSetAtSyncInTimeout s
  | .resetNLow => Sys2Proof.Machine.execResetNLow s
  | .resetNRelease clkin => Sys2Proof.Machine.execResetNRelease clkin s
  | .rstCmd m v => Sys2Proof.Machine.execRstCmd m v s
  | .cmdResetStart => Sys2Proof.Machine.execCmdResetStart s
  | .deviceResetApply clkin => Sys2Proof.Machine.execDeviceResetApply clkin s
  | .flashDiscovery t => Sys2Proof.Machine.execFlashDiscovery t s
  | .bootVerify v0 v1 => Sys2Proof.Machine.execBootVerify v0 v1 s
  | .bootWdtExpire => Sys2Proof.Machine.execBootWdtExpire s
  | .fwOk m => Sys2Proof.Machine.execFwOk m s
  | .bootRetry m => Sys2Proof.Machine.execBootRetry m s
  | .lowHalfRead m addr fetch => Sys2Proof.Machine.execLowHalfRead m addr fetch s
  | .highHalfRead m addr fetch => Sys2Proof.Machine.execHighHalfRead m addr fetch s
  | .pageRst m pg v => Sys2Proof.Machine.execPageRst m pg v s
  | .pageResetApply pg => Sys2Proof.Machine.execPageResetApply pg s
  | .pageResetTimeout pg => Sys2Proof.Machine.execPageResetTimeout pg s
  | .pageCommit m pg => Sys2Proof.Machine.execPageCommit m pg s
  | .pgFreeze m pg v => Sys2Proof.Machine.execPgFreeze m pg v s
  | .errClr m pg v => Sys2Proof.Machine.execErrClr m pg v s
  | .lockTake m pg => Sys2Proof.Machine.execLockTake m pg s
  | .lockRelease m pg => Sys2Proof.Machine.execLockRelease m pg s
  | .lockBreak m pg => Sys2Proof.Machine.execLockBreak m pg s
  | .evtRawClear m pg v => Sys2Proof.Machine.execEvtRawClear m pg v s
  | .registerWrite m addr v poison => Sys2Proof.Machine.execRegisterWrite m addr v poison s
  | .logRdWrite m v => Sys2Proof.Machine.execLogRdWrite m v s
  | .logEntryWrite bads => Sys2Proof.Machine.execLogEntryWrite bads s
  | .faultNRise => Sys2Proof.Machine.execFaultNRise s
  | .lightLoss p sig lo => Sys2Proof.Machine.execLightLoss p sig lo s
  | .lightReturn p sig lo => Sys2Proof.Machine.execLightReturn p sig lo s
  | .agcStep p xi xq yi yq => Sys2Proof.Machine.execAgcStep p xi xq yi yq s
  | .gainRampStep p => Sys2Proof.Machine.execGainRampStep p s
  | .restartSlow p => Sys2Proof.Machine.execRestartSlow p s
  | .cnvLoopLock n => Sys2Proof.Machine.execCnvLoopLock n s
  | .startCalDone n cal skews => Sys2Proof.Machine.execStartCalDone n cal skews s
  | .cnvUnlock n => Sys2Proof.Machine.execCnvUnlock n s
  | .cnvRelock n => Sys2Proof.Machine.execCnvRelock n s
  | .puntyCalDone n ofs gain => Sys2Proof.Machine.execPuntyCalDone n ofs gain s
  | .seamDecision n pairs offset => Sys2Proof.Machine.execSeamDecision n pairs offset s
  | .offlineCalDone n ofs gain skew => Sys2Proof.Machine.execOfflineCalDone n ofs gain skew s
  | .rotDwellEnd n => Sys2Proof.Machine.execRotDwellEnd n s
  | .sliceFault n by1 by2 => Sys2Proof.Machine.execSliceFault n by1 by2 s
  | .puntyTakesSlot n => Sys2Proof.Machine.execPuntyTakesSlot n s
  | .fgCal m n => Sys2Proof.Machine.execFgCal m n s
  | .fgDone n cal => Sys2Proof.Machine.execFgDone n cal s
  | .eqFreqDone e => Sys2Proof.Machine.execEqFreqDone e s
  | .eqBlindDone r => Sys2Proof.Machine.execEqBlindDone r s
  | .acqDone p sync run => Sys2Proof.Machine.execAcqDone p sync run s
  | .acqRetry p => Sys2Proof.Machine.execAcqRetry p s
  | .lockLost w => Sys2Proof.Machine.execLockLost w s
  | .reacq m p => Sys2Proof.Machine.execReacq m p s
  | .bfSwap m p => Sys2Proof.Machine.execBfSwap m p s
  | .bfLoadDone p bads => Sys2Proof.Machine.execBfLoadDone p bads s
  | .cdFadeBegin r => Sys2Proof.Machine.execCdFadeBegin r s
  | .bfFadeBegin r => Sys2Proof.Machine.execBfFadeBegin r s
  | .fadeBlock bf r => Sys2Proof.Machine.execFadeBlock bf r s
  | .cdFadeDone r => Sys2Proof.Machine.execCdFadeDone r s
  | .bfFadeDone r => Sys2Proof.Machine.execBfFadeDone r s
  | .guardWindow r => Sys2Proof.Machine.execGuardWindow r s
  | .snap m p => Sys2Proof.Machine.execSnap m p s
  | .snapDone r => Sys2Proof.Machine.execSnapDone r s
  | .cdSwapAtBlockBoundary r => Sys2Proof.Machine.execCdSwapAtBlockBoundary r s
  | .tstatWindowEnd p xi xq yi yq => Sys2Proof.Machine.execTstatWindowEnd p xi xq yi yq s
  | .tstatWinDone p est => Sys2Proof.Machine.execTstatWinDone p est s
  | .seqEntryCurrent => Sys2Proof.Machine.execSeqEntryCurrent s
  | .sampleStart c => Sys2Proof.Machine.execSampleStart c s
  | .conversionBoundary c raw partner => Sys2Proof.Machine.execConversionBoundary c raw partner s
  | .timerEvent t => Sys2Proof.Machine.execTimerEvent t s
  | .pwmPeriodStart o => Sys2Proof.Machine.execPwmPeriodStart o s
  | .pwmFallTrigger o => Sys2Proof.Machine.execPwmFallTrigger o s
  | .trigTimeout c => Sys2Proof.Machine.execTrigTimeout c s
  | .seqtLoWrite m k w => Sys2Proof.Machine.execSeqtLoWrite m k w s
  | .seqtHiWrite m k w => Sys2Proof.Machine.execSeqtHiWrite m k w s
  | .injGo m => Sys2Proof.Machine.execInjGo m s
  | .pcvCal m c => Sys2Proof.Machine.execPcvCal m c s
  | .pcvCalPeriodic c => Sys2Proof.Machine.execPcvCalPeriodic c s
  | .pcvCalStart c => Sys2Proof.Machine.execPcvCalStart c s
  | .pcvCalEnd c found => Sys2Proof.Machine.execPcvCalEnd c found s
  | .convTimeout c => Sys2Proof.Machine.execConvTimeout c s
  | .refereeDone k ref0 gnd0 ref1 gnd1 => Sys2Proof.Machine.execRefereeDone k ref0 gnd0 ref1 gnd1 s
  | .ringRecordWrite bads => Sys2Proof.Machine.execRingRecordWrite bads s
  | .ringRdWrite m r v => Sys2Proof.Machine.execRingRdWrite m r v s
  | .accuWindowEnd => Sys2Proof.Machine.execAccuWindowEnd s
  | .accuWinDone => Sys2Proof.Machine.execAccuWinDone s
  | .filtInput n bads => Sys2Proof.Machine.execFiltInput n bads s
  | .filtBankSwap m n => Sys2Proof.Machine.execFiltBankSwap m n s
  | .filtLoadDone n bads => Sys2Proof.Machine.execFiltLoadDone n bads s
  | .filtRestart m n => Sys2Proof.Machine.execFiltRestart m n s
  | .parTrig m n => Sys2Proof.Machine.execParTrig m n s
  | .outRecordWrite n bads => Sys2Proof.Machine.execOutRecordWrite n bads s
  | .outRdWrite m n v => Sys2Proof.Machine.execOutRdWrite m n v s
  | .parRdWrite m n v => Sys2Proof.Machine.execParRdWrite m n v s
  | .streamStart r => Sys2Proof.Machine.execStreamStart r s
  | .streamDataMessage r => Sys2Proof.Machine.execStreamDataMessage r s
  | .markMessage p => Sys2Proof.Machine.execMarkMessage p s
  | .squelchRequest p => Sys2Proof.Machine.execSquelchRequest p s
  | .eqWordWithNolock w => Sys2Proof.Machine.execEqWordWithNolock w s
  | .rxBlockLock h j => Sys2Proof.Machine.execRxBlockLock h j s
  | .trainRequest h j hdr w gap => Sys2Proof.Machine.execTrainRequest h j hdr w gap s
  | .trainState h j hdr w gap => Sys2Proof.Machine.execTrainState h j hdr w gap s
  | .trainMap h j hdr w gap => Sys2Proof.Machine.execTrainMap h j hdr w gap s
  | .trainTimeout h => Sys2Proof.Machine.execTrainTimeout h s
  | .alignTimeout h => Sys2Proof.Machine.execAlignTimeout h s
  | .partnerAbsent h => Sys2Proof.Machine.execPartnerAbsent h s
  | .partnerSilent h => Sys2Proof.Machine.execPartnerSilent h s
  | .rxLos h lanes => Sys2Proof.Machine.execRxLos h lanes s
  | .rxSignalReturn h j => Sys2Proof.Machine.execRxSignalReturn h j s
  | .rxLol h lanes cdr => Sys2Proof.Machine.execRxLol h lanes cdr s
  | .adaptWindow h j levels blocks => Sys2Proof.Machine.execAdaptWindow h j levels blocks s
  | .eyeScanDone h j e0 e1 e2 => Sys2Proof.Machine.execEyeScanDone h j e0 e1 e2 s
  | .txLaneFault h lanes => Sys2Proof.Machine.execTxLaneFault h lanes s
  | .switchMarker h => Sys2Proof.Machine.execSwitchMarker h s
  | .herdRetrain m h => Sys2Proof.Machine.execHerdRetrain m h s
  | .laneTest m h lane ret => Sys2Proof.Machine.execLaneTest m h lane ret s
  | .laneTestTimeout h lane ret => Sys2Proof.Machine.execLaneTestTimeout h lane ret s
  | .returnLanesDeskewed h blocks => Sys2Proof.Machine.execReturnLanesDeskewed h blocks s
  | .msgRead h gap hdr w1 more tag bads => Sys2Proof.Machine.execMsgRead h gap hdr w1 more tag bads s
  | .msgWrite h gap hdr w1 data tag bads => Sys2Proof.Machine.execMsgWrite h gap hdr w1 data tag bads s
  | .msgCredit h gap hdr w1 => Sys2Proof.Machine.execMsgCredit h gap hdr w1 s
  | .msgTelemMargin h gap hdr w1 more tag => Sys2Proof.Machine.execMsgTelemMargin h gap hdr w1 more tag s
  | .transactionComplete n k bads => Sys2Proof.Machine.execTransactionComplete n k bads s
  | .eventMessage n => Sys2Proof.Machine.execEventMessage n s
  | .telemReportMessage n => Sys2Proof.Machine.execTelemReportMessage n s
  | .creditInterval h => Sys2Proof.Machine.execCreditInterval h s
  | .replayTimeout h => Sys2Proof.Machine.execReplayTimeout h s
  | .keyxInit h gap hdr w1 words auth => Sys2Proof.Machine.execKeyxInit h gap hdr w1 words auth s
  | .keyxReply n => Sys2Proof.Machine.execKeyxReply n s
  | .keyxFinish h gap hdr words => Sys2Proof.Machine.execKeyxFinish h gap hdr words s
  | .keyxAccept h n => Sys2Proof.Machine.execKeyxAccept h n s
  | .keyxTimeout n => Sys2Proof.Machine.execKeyxTimeout n s
  | .keyxEnd h gap hdr w1 more tag => Sys2Proof.Machine.execKeyxEnd h gap hdr w1 more tag s
  | .sessionIdle n => Sys2Proof.Machine.execSessionIdle n s
  | .sesKill m slots => Sys2Proof.Machine.execSesKill m slots s
  | .dramRead m addr len fetch bad => Sys2Proof.Machine.execDramRead m addr len fetch bad s
  | .dramRefetch bad => Sys2Proof.Machine.execDramRefetch bad s
  | .dramWrite m addr data poison => Sys2Proof.Machine.execDramWrite m addr data poison s
  | .dramPartialWrite m addr data poison bads => Sys2Proof.Machine.execDramPartialWrite m addr data poison bads s
  | .scrubLine bads => Sys2Proof.Machine.execScrubLine bads s
  | .retireAdd m page => Sys2Proof.Machine.execRetireAdd m page s
  | .weakClrOne m idx => Sys2Proof.Machine.execWeakClrOne m idx s
  | .weakClrAll m => Sys2Proof.Machine.execWeakClrAll m s
  | .memoryTrainingDone fuse => Sys2Proof.Machine.execMemoryTrainingDone fuse s
  | .spmSelectFall => Sys2Proof.Machine.execSpmSelectFall s
  | .spmWriteFrame addr => Sys2Proof.Machine.execSpmWriteFrame addr s
  | .spmReadFrame addr bads => Sys2Proof.Machine.execSpmReadFrame addr bads s
  | .spmStatFrame addr => Sys2Proof.Machine.execSpmStatFrame addr s
  | .spmBadOp op addr => Sys2Proof.Machine.execSpmBadOp op addr s
  | .spmWriteWord w bads => Sys2Proof.Machine.execSpmWriteWord w bads s
  | .spmAccessDone bads => Sys2Proof.Machine.execSpmAccessDone bads s
  | .spmReadWordDue => Sys2Proof.Machine.execSpmReadWordDue s
  | .spmFrameEnd nbits w bads => Sys2Proof.Machine.execSpmFrameEnd nbits w bads s
  | .flashWindowRead m addr len fetch => Sys2Proof.Machine.execFlashWindowRead m addr len fetch s
  | .flashReadTimeout => Sys2Proof.Machine.execFlashReadTimeout s
  | .flashWindowWrite m addr data poison => Sys2Proof.Machine.execFlashWindowWrite m addr data poison s
  | .flashFenceTimeout => Sys2Proof.Machine.execFlashFenceTimeout s
  | .flashPoll idle worn => Sys2Proof.Machine.execFlashPoll idle worn s
  | .flashStuck => Sys2Proof.Machine.execFlashStuck s
  | .flashResetDone => Sys2Proof.Machine.execFlashResetDone s
  | .spfErase m offset type => Sys2Proof.Machine.execSpfErase m offset type s
  | .qCmdPush m w => Sys2Proof.Machine.execQCmdPush m w s
  | .qTxPush m w => Sys2Proof.Machine.execQTxPush m w s
  | .qRxRead m => Sys2Proof.Machine.execQRxRead m s
  | .qSequenceDone got => Sys2Proof.Machine.execQSequenceDone got s
  | .otpGenWrite m rec => Sys2Proof.Machine.execOtpGenWrite m rec s
  | .otpSealed => Sys2Proof.Machine.execOtpSealed s
  | .provision m => Sys2Proof.Machine.execProvision m s
  | .provisionKeyDrawn scalar => Sys2Proof.Machine.execProvisionKeyDrawn scalar s
  | .rngFail => Sys2Proof.Machine.execRngFail s
  | .rngRecover => Sys2Proof.Machine.execRngRecover s
  | .secSign m => Sys2Proof.Machine.execSecSign m s
  | .signComplete job => Sys2Proof.Machine.execSignComplete job s
  | .lockstepMismatch n => Sys2Proof.Machine.execLockstepMismatch n s
  | .coreRestartDone n => Sys2Proof.Machine.execCoreRestartDone n s
  | .coreInv m n => Sys2Proof.Machine.execCoreInv m n s

end Sys2Proof.Machine
end

