-- ==== Sys2Proof/Machine/Step.lean ====
section
/-! DEFINITION. One step of the block: the command at the front of the queue, or with an empty queue one
FAB cycle in which the herds send what is theirs to send (log entry 13). -/

namespace Sys2Proof.Machine

/-- What happens when no command waits: a FAB cycle passes (R87); every herd that carries STREAM blocks begins the
data messages handed to it (R309, R322); a replay goes on (R485); MAP words that are due leave (R458); lanes send STATE
words (R440), and idle blocks follow (R476). -/
def idle (s : State) : State :=
  let s := (List.range 17).foldl replayOn ((List.range 16).foldl softDrain (fabTick s))
  (List.range 17).foldl (fun s h => sendIdle (sendStates (mapsDue s h) h) h) s

/-- One step. -/
def step (s : State) : Host.Outcome State Fault Refusal :=
  match s.pending with
  | [] => .next (idle s)
  | c :: rest => exec c { s with pending := rest }

/-- The state with the command that a table word spells at the front of its queue; the table gives no row
bits, so no word spells one. -/
def State.withFetchWord (s : State) (nbits w : Nat) : State :=
  match Sys2Proof.decodeTableWord nbits w with
  | none => s
  | some c => { s with pending := c :: s.pending }

end Sys2Proof.Machine
end

