-- ==== Sys2Proof/Safety.lean ====
section
/-! DEFINITION. The words the statements are written in: a command completes with an effect, an event is
raised, a register access passes its checks, what a byte of stacked memory reads as. -/

namespace Sys2Proof.Machine

/-- The command completes from the state, and what it leaves has the property. -/
def Gives (c : Instr) (s : State) (P : State → Prop) : Prop := ∃ t, exec c s = .next t ∧ P t

/-- The event's RAW bit is 1 (R175). -/
def Raised (t : State) (id : Nat) : Prop := rawSet t id = true

/-- The fabric serves a request at once: it accepts requests, its clock runs and is not being switched, and
no request and no commit waits. -/
def fabricQuiet (s : State) : Bool :=
  fabricUp s && !domSwitching s 2 && s.bus.waiting.isEmpty && s.bus.commits.isEmpty

/-- The request of a 32-bit access to a page register: a write of `v`, or a read. -/
def pageReq (s : State) (m pg off v : Nat) (write : Bool) : Req :=
  stamped s (mkReq m (regAddr pg off) write false 4 (if write then toLE 4 v else []) false 0)

/-- The access to the register at `off` of page `pg` passes every check of R162 at once and waits for
nothing; its master issues requests (R21, R22). -/
def passes (s : State) (m pg off v : Nat) (write : Bool) : Bool :=
  let r := pageReq s m pg off v write
  fabricQuiet s && masterIssues s r && decide (off < 4096) && decide (off % 4 = 0)
    && (match targetOf r.addr with
        | none => false
        | some t => decide (5 ≤ t) && !pageDenied s t r)
    && !pageLocked s r && !pageWaits s r && !pageDark s r

/-- A write passes its checks. -/
def WritePasses (s : State) (m pg off v : Nat) : Prop := passes s m pg off v true = true

/-- A read passes its checks. -/
def ReadPasses (s : State) (m pg off : Nat) : Prop := passes s m pg off 0 false = true

/-- The last completion at a master's port (R31). -/
def lastDone (s : State) (m : Nat) : Completion := vget s.bus.done Completion.none m

/-- The master's access has completed with OK. -/
def DoneOk (t : State) (m : Nat) : Prop := (lastDone t m).status = .ok

/-- What a byte of stacked memory reads as, by its offset: 0 in a unit never written (R515). -/
def dramSeen (s : State) (o : Nat) : Byte :=
  if Store.read false s.mems.written (o / 4096) then Store.read 0 s.mems.dram o else 0

/-- The bits that an OTP word holds. -/
def otpWord (s : State) (a : Nat) : Nat := Store.read 0 s.mems.otp a

/-- What the equaliser follows keeps it in FREQ, BLIND, SYNC or TRACK: its page runs, the port's converters are
ready and no squelch cause other than FORCE holds (R273). -/
def eqStays (s : State) (p : Nat) : Bool :=
  blockRuns s (Reg.EQ.page p) && (List.range 4).all (fun l => rdb s (Reg.CNV.STAT_RDY (4 * p + l)))
    && clrBit (sqCauses s p) 1 == 0

/-- A message of slot `k` is on its way on herd `h`: it waits in the slot's queue, or it has been sent and is not
released yet (R476, R484). -/
def OnItsWay (t : State) (h k : Nat) (b : Body) : Prop :=
  b ∈ vget (t.link h).queues [] k ∨ ∃ m ∈ (t.link h).buf, m.body = b

/-- A message with header `w` is taken from herd `h`'s block stream: its blocks are received, none is discarded up to an
idle block, and its header is correct (R471, R475). -/
def heardOf (s : State) (h : Nat) (gap credit : Bool) (kind w w1 : Nat) : Bool :=
  linkHears s h credit && (gap || !(s.link h).seek) && headerOk w w1 && hKind w == kind

/-- A sequenced message of an established session arrives in order with a good tag (R479, R495). -/
def arrives (s : State) (h : Nat) (gap : Bool) (kind w w1 : Nat) : Bool :=
  heardOf s h gap false kind w w1 && ownSession s h w && hSeq w == (s.link h).rxE % 65536

/-- A KEYX message outside a session arrives in order (R479, R497). -/
def arrivesPlain (s : State) (h : Nat) (gap : Bool) (w w1 : Nat) : Bool :=
  heardOf s h gap false 8 w w1 && !hEnc w && hSeq w == (s.link h).rxE % 65536

/-- A TRAIN word of a kind arrives on a return lane with a correct header (R439, R467, R471). -/
def trainHeard (s : State) (h j : Nat) (gap : Bool) (kind hdr w : Nat) : Bool :=
  hears s h j && (gap || !vget (s.herd h).seek false j) && headerOk hdr w && hKind hdr == 9 && bits w 6 2 == kind

/-- A memory access of `len` bytes passes the checks of target `t` (R21, R30, R597). -/
def MemPasses (s : State) (t m a len kind : Nat) : Prop :=
  fabricQuiet s = true ∧ masterIssues s (mkReq m a (kind == 1) (kind == 2) len [] false 0) = true ∧ targetOf a = some t
    ∧ alignOk t (mkReq m a (kind == 1) (kind == 2) len [] false 0) = true ∧ aclGrants s t m a kind = true

/-- No access to the line and none of the master waits in the memory controller, and none that goes before the
master's (R29, R527, R528). -/
def dramFree (s : State) (m a : Nat) : Bool :=
  s.memc.pending.all (fun q => lineOf q.req.addr != lineOf a && q.req.master != m)
    && !dramYields s (mkReq m a false false 64 [] false 0) none

/-- SPF runs, with nothing in progress and nothing waiting. -/
def spfIdle (s : State) : Bool :=
  blockRuns s Reg.SPF.page && s.spf.op.isNone && !s.spf.inSeq && s.spf.work.isEmpty && s.spf.queue.isEmpty

/-- SPF runs, and no program of master `m` is in progress. -/
def spfTurn (s : State) (m : Nat) : Bool := blockRuns s Reg.SPF.page && windowTurn s m []

/-- SPM runs, and has received the header of the frame in progress, which is for `op`. -/
def spmIn (s : State) (op : SpmOp) : Bool := spmActs s && s.spm.op == op

/-- The symbols of a run of port `r`'s equaliser, oldest first. -/
def runSyms (s : State) (r : PortRun) : List EqSym := (eqRunNow s r.port r.run.toEqSpan).syms.reverse

/-- A run has gone through the equaliser of its port, if that is in TRACK and runs. -/
def fedBy (s : State) (r : PortRun) : State :=
  if rd s (Reg.EQ.STAT_STATE r.port) = 5 ∧ blockRuns s (Reg.EQ.page r.port) = true then eqFeed s r.port r.run else s

/-- The symbol periods of port `p`'s next data message, as many as have come. -/
def nextSyms (s : State) (p : Nat) : List EqSym := (s.soft p).syms.take 512

/-- Every memory of the block is in its canonical form. -/
def MemInv (s : State) : Prop := s.mems.wf = true

/-! ### Numbers that name a unit -/

/-- The lanes that a herd's state names are lanes it can have. -/
def lanesOk (h : HerdH) : Bool :=
  (h.txMap ++ h.newTx.getD [] ++ h.lateTx ++ h.testTx).all (· < 19)
    && (h.rxMap ++ h.newRx.getD [] ++ h.lateRx ++ h.ready ++ h.testRx).all (· < 4)

/-- The slices that a converter's state names are slices it has. -/
def slicesOk (c : CnvH) : Bool := c.step ≤ 64 && c.inFail.all (· < 64) && c.hole.all (· < 64)

/-- Every lane, slice, ring, herd, record and port that the state names exists. -/
def inRange (s : State) : Bool :=
  s.herds.toList.all lanesOk && s.cnvs.toList.all slicesOk && s.ringQ.all (·.dest < 16) && (List.range 8).all (sesHerd s · < 17)
    && s.otp.op.all (·.rid ≤ 8) && s.sec.reports.all (·.port < 16)

/-! ### What a command may change -/

/-- A part of the state beside the registers in effect; of a block with several instances, one of them. -/
inductive Part
  | shad | sram | flash | dram | otpWords | seqt
  | done (m : Nat) | token | waiting | latches | frozen | deferred | marks | accepting | commits
  | pwr | clk | time | boot | evt | port (p : Nat) | cnv (n : Nat) | eq (p : Nat) | soft (p : Nat) | tstat (p : Nat)
  | pcv (c : Nat) | seq | pwm (o : Nat) | accu | ringQ | filt (n : Nat) | herd (h : Nat) | line (h : Nat) | link (h : Nat) | ses (k : Nat)
  | memc | spm | spf | otp | sec | core (n : Nat) | emitted | freeCtr | pending
deriving DecidableEq, Repr

/-- The part is the same in both states; `dram` takes in the checks of its lines and the written marks. -/
def Part.same (s t : State) : Part → Prop
  | .shad => t.shad = s.shad
  | .sram => t.mems.sram = s.mems.sram
  | .flash => t.mems.flash = s.mems.flash
  | .dram => t.mems.dram = s.mems.dram ∧ t.mems.checks = s.mems.checks ∧ t.mems.written = s.mems.written
  | .otpWords => t.mems.otp = s.mems.otp
  | .seqt => t.mems.seqt = s.mems.seqt
  | .done m => lastDone t m = lastDone s m
  | .token => t.bus.token = s.bus.token
  | .waiting => t.bus.waiting = s.bus.waiting
  | .latches => t.bus.latches = s.bus.latches
  | .frozen => t.bus.frozen = s.bus.frozen
  | .deferred => t.bus.deferred = s.bus.deferred
  | .marks => t.bus.marks = s.bus.marks
  | .accepting => t.bus.accepting = s.bus.accepting
  | .commits => t.bus.commits = s.bus.commits
  | .pwr => t.pwr = s.pwr
  | .clk => t.clk = s.clk
  | .time => t.time = s.time
  | .boot => t.boot = s.boot
  | .evt => t.evt = s.evt
  | .port p => t.port p = s.port p
  | .cnv n => t.cnv n = s.cnv n
  | .eq p => t.eq p = s.eq p
  | .soft p => t.soft p = s.soft p
  | .tstat p => t.tstat p = s.tstat p
  | .pcv c => t.pcv c = s.pcv c
  | .seq => t.seq = s.seq
  | .pwm o => t.pwm o = s.pwm o
  | .accu => t.accu = s.accu
  | .ringQ => t.ringQ = s.ringQ
  | .filt n => t.filt n = s.filt n
  | .herd h => t.herd h = s.herd h
  | .line h => t.line h = s.line h
  | .link h => t.link h = s.link h
  | .ses k => t.ses k = s.ses k
  | .memc => t.memc = s.memc
  | .spm => t.spm = s.spm
  | .spf => t.spf = s.spf
  | .otp => t.otp = s.otp
  | .sec => t.sec = s.sec
  | .core n => t.core n = s.core n
  | .emitted => t.emitted = s.emitted
  | .freeCtr => t.freeCtr = s.freeCtr
  | .pending => t.pending = s.pending

/-- What may change: every register of some pages, single fields, the RAW bits of some events, parts. -/
structure Scope where
  pages : List Nat
  flds  : List Fld
  evs   : List Nat
  parts : List Part

/-- What either of two scopes lets change. -/
def Scope.and (a b : Scope) : Scope := ⟨a.pages ++ b.pages, a.flds ++ b.flds, a.evs ++ b.evs, a.parts ++ b.parts⟩

/-- What any scope of a list lets change. -/
def Scope.all (l : List Scope) : Scope := l.foldr Scope.and ⟨[], [], [], []⟩

/-- Fields. -/
def Scope.regs (l : List Fld) : Scope := ⟨[], l, [], []⟩

/-- Parts. -/
def Scope.hidden (l : List Part) : Scope := ⟨[], [], [], l⟩

/-- Raises of some events, with the log and the notices that follow (R179 to R185). -/
def Scope.raising (l : List Nat) : Scope :=
  ⟨[], [Reg.EVT1.LOG_STAT_GAP, Reg.EVT1.LOG_DROP_COUNT] ++ (List.range 8).map Reg.EVT2.SUB_STAT_DROP,
    l ++ [Reg.EVT0.evLOG_FULL, Reg.EVT0.evSUB_DROP], [.evt]⟩

/-- Whole pages, with their events. -/
def Scope.whole (l : List Nat) : Scope := ⟨l, [], l.flatMap (fun pg => (List.range 32).map (32 * pg + ·)), []⟩

/-- Outside a scope nothing differs: no other field, no other RAW bit, no other part. -/
structure Keeps (F : Scope) (s t : State) : Prop where
  field : ∀ f : Fld, f.off < 4096 → f.off % 4 = 0 → f.off ≠ 20 → f.lo < 32 → f.page ∉ F.pages →
    (∀ g ∈ F.flds, g.key ≠ f.key) → rd t f = rd s f
  raw   : ∀ id, id ∉ F.evs → rawSet t id = rawSet s id
  part  : ∀ p : Part, p ∉ F.parts → p.same s t

/-- The frame of a command at a state: what it leaves is the same outside the scope. -/
def Within (F : Scope) (c : Instr) (s : State) : Prop := ∀ t, exec c s = .next t → Keeps F s t

/-- What the passing of time marks: device time and its companions, the windows in progress (R87, R361). -/
def Scope.lapse : Scope := .hidden ([.clk, .time, .freeCtr] ++ (List.range 64).map Part.cnv ++ (List.range 16).map
  Part.tstat)

/-- What bringing port `p` and its equaliser to their causes may change (R213 to R217, R273 to R275, R187). -/
def Scope.follow (p : Nat) : Scope := .all [.regs [Reg.EQ.STAT_STATE p, Reg.EQ.STAT_ACQ p, Reg.EQ.STAT_CD_BANK p,
  Reg.EQ.STAT_BF_BANK p, Reg.EQ.STAT_CD_FADE p, Reg.EQ.STAT_BF_FADE p, Reg.EQ.STAT_CD_PEND p, Reg.EQ.STAT_BF_PEND
  p, Reg.EQ.STAT_GUARD p, Reg.EQ.CFG_NOW_CFG p, Reg.EQ.PILOT_NOW_PILOT p, Reg.EQ.SEED_NOW_SEED p,
  Reg.EQ.CD_NOW_PSNM p, Reg.EQ.CD_BANK_A_PSNM p, Reg.EQ.CD_BANK_B_PSNM p, Reg.EQ.BF_STAT_STANDBY_EMPTY p,
  Reg.EQ.FADE_CD_POS p, Reg.EQ.FADE_BF_POS p, Reg.EQ.ANN_CNT_DONE p, Reg.PORT.SQ_NOW_CAUSE p,
  Reg.PORT.SQ_SEEN_CAUSE p, Reg.PORT.SQ_TS_LO_NS p, Reg.PORT.SQ_TS_HI_NS p, Reg.PORT.RESTART_US_US p,
  Reg.PORT.STAT_CARRY p, Reg.PORT.STAT_RESTARTING p, Reg.SOFT.STAT_SQ_IN p, Reg.SOFT.STAT_NOLOCK_IN p,
  Reg.EVT2.FAULT_STAT_SEEN, Reg.EVT2.FAULT_NOW_PORT, Reg.EVT2.FAULT_NOW_DISARMED, Reg.EVT2.FAULT_NOW_CLOCK,
  Reg.EVT2.FAULT_NOW_THERM, Reg.EVT2.FAULT_NOW_RAIL], .raising [Reg.EQ.evCD_FADE_DONE p, Reg.EQ.evBF_FADE_DONE p,
  Reg.EQ.evCD_CLAMP p, Reg.PORT.evSQUELCH_ON p, Reg.PORT.evSQUELCH_OFF p, Reg.PORT.evRESTART_DONE p,
  Reg.EVT0.evFAULT_ASSERT], .hidden [.port p, .eq p, .tstat p, .cnv (4 * p), .cnv (4 * p + 1), .cnv (4 * p + 2),
  .cnv (4 * p + 3)]]

/-- The same for every port. -/
def Scope.followAll : Scope := .all (((List.range 16).map Scope.follow))

/-- The service state of converter `n`: its slices, rotation and readiness (R231 to R249). -/
def Scope.cnvService (n : Nat) : Scope := .all [.regs ([Reg.CNV.STAT_STATE n, Reg.CNV.STAT_LOCKED n,
  Reg.CNV.STAT_RDY n, Reg.CNV.STAT_ROT_PHASE n, Reg.CNV.STAT_SLOT n, Reg.CNV.STAT_SPARE n, Reg.CNV.FAIL_STAT_CAUSE1
  n, Reg.CNV.FAIL_STAT_CAUSE2 n, Reg.CNV.FAIL_STAT_FIRST n, Reg.CNV.FAIL_STAT_FIRST_V n, Reg.CNV.FAIL_STAT_SECOND
  n, Reg.CNV.FAIL_STAT_SECOND_V n, Reg.CNV.ROT_CNT_ROUNDS n] ++ (List.range 65).map (Reg.CNV.SLICE_A_OFS n) ++
  (List.range 65).map (Reg.CNV.SLICE_A_GAIN n) ++ (List.range 65).map (Reg.CNV.SLICE_B_SKEW n) ++ (List.range
  65).map (Reg.CNV.SLICE_B_STATE n) ++ (List.range 65).map (Reg.CNV.SLICE_B_CAL_CNT n)), .hidden [.cnv n,
  .freeCtr]]

/-- What sending on herd `h` may change: its counters, its record of what is unreleased (R476 to R485). -/
def Scope.linkOut (h : Nat) : Scope := .all [.regs [Reg.LINK0.HL_SEQ_TX_NEXT h, Reg.LINK0.HL_SEQ_RX_EXP h,
  Reg.LINK0.HL_BUF_RPL_USED h, Reg.LINK0.HL_ERR_NAK_TX h], .raising [Reg.LINK0.evRPL_STALL], .hidden [.link h,
  .line h, .soft h, .emitted]]

/-- What the end or the rejection of slot `k`'s exchange or session may change (R493, R500, R502). -/
def Scope.sesState (k : Nat) : Scope := .all [.regs ([Reg.LINK1.SES_STAT_STATE k, Reg.LINK1.SES_STAT_END_REASON k,
  Reg.LINK1.KEYX_LAST_SLOT, Reg.LINK1.KEYX_LAST_HERD, Reg.LINK1.KEYX_LAST_REASON, Reg.LINK2.TEL_SUBS_PORTS k] ++
  (List.range 32).map (Reg.EVT2.SUBS_PAGES k)), .raising [Reg.LINK1.evSES_DOWN k, Reg.LINK1.evKEYX_REJECT], .hidden
  [.ses k, .evt, .sec]]

/-- The state, the lane maps and the lanes' roles of herd `h` (R435 to R465). -/
def Scope.herdMaps (h : Nat) : Scope := .all [.regs ([Reg.HERD.STAT_STATE h, Reg.HERD.STAT_FAILOVER h,
  Reg.HERD.STAT_ABSENT h, Reg.HERD.STAT_L_ACTIVE h, Reg.HERD.STAT_RX_ACTIVE h, Reg.HERD.STAT_TX_SPARES h,
  Reg.HERD.STAT_RX_SPARES h, Reg.HERD.CNT_RETRY h] ++ (List.range 19).map (Reg.HERD.LANE_TX_ROLE h) ++ (List.range
  19).map (Reg.HERD.LANE_TX_DONE h) ++ (List.range 19).map (Reg.HERD.LANE_TX_LOGICAL h) ++ (List.range 19).map
  (Reg.HERD.LANE_TX_CAUSE h) ++ (List.range 4).map (Reg.HERD.LANE_RX_ROLE h) ++ (List.range 4).map
  (Reg.HERD.LANE_RX_LOGICAL h) ++ (List.range 4).map (Reg.HERD.LANE_RX_CAUSE h) ++ (List.range 4).map
  (Reg.HERD.LANE_RX_CDR h) ++ (List.range 4).map (Reg.HERD.LANE_RX_BLK h)), .hidden [.herd h, .line h]]

/-- A budget check of port `p` (R320, R321). -/
def Scope.softBudget (p : Nat) : Scope := .all [.regs [Reg.SOFT.BUDGET_NEED p, Reg.SOFT.BUDGET_CAP p,
  Reg.SOFT.STAT_OVER_BUDGET p], .raising [Reg.SOFT.evOVER_BUDGET p], .hidden [.soft p]]

/-- What herd `h` no longer carries is discarded (R322). -/
def Scope.discards (h : Nat) : Scope := .all [.regs [Reg.SOFT.DROP_CNT_COUNT h], .raising [Reg.SOFT.evHERD_DISCARD
  h], .hidden [.soft h]]

/-- The state and the lanes of herd `h`, and what is discarded where it leaves UP (R322, R435 to R465). -/
def Scope.leaving (h : Nat) : Scope := .all ((([herdMaps h] ++ if h < 16 then [Scope.discards h] else [])))

/-- Herd `h` begins to train (R447). -/
def Scope.trains (h : Nat) : Scope := .all [.herdMaps h, .regs ((List.range 19).map (Reg.HERD.LANE_COEF_TAPS h))]

/-- The receive lanes of every herd whose clock has lost its partner (R101). -/
def Scope.partnersLost : Scope := .all ([.raising (((List.range 17).flatMap fun h => [Reg.HERD.evRX_LOL h,
  Reg.HERD.evALIGN_FAIL h, Reg.HERD.evHERD_DOWN h, Reg.HERD.evLANE_FAIL h, Reg.HERD.evNO_SPARE h])), .hidden
  [.emitted]] ++ ((List.range 17).map Scope.leaving))

/-- What an access of the memory controller or of a DMA master may change beside the bytes it stores: its records
and tables (R507 to R519, R601). -/
def Scope.dramUse : Scope := .all [.regs [Reg.MEMC.POISON_CNT_CRC, Reg.MEMC.POISON_CNT_STORED,
  Reg.MEMC.POISON_LAST_LO_ADDR, Reg.MEMC.POISON_LAST_HI_ADDR, Reg.MEMC.POISON_LAST_HI_MASTER,
  Reg.MEMC.POISON_LAST_HI_STORED, Reg.MEMC.POISON_LAST_HI_VALID, Reg.MEMC.REFETCH_CNT_COUNT,
  Reg.MEMC.PARTIAL_CNT_COUNT, Reg.MEMC.STAT_WEAK_USED, Reg.MEMC.WEAK_OVF_COUNT, Reg.MEMC.WRITTEN_UNITS,
  Reg.RETIRE.HIT_CNT_COUNT, Reg.RETIRE.HIT_LAST_MASTER, Reg.RETIRE.HIT_LAST_PAGE, Reg.RETIRE.HIT_LAST_VALID,
  Reg.RETIRE.HIT_LAST_WRITE], .raising [Reg.MEMC.evPOISON_READ, Reg.MEMC.evPARTIAL_REFUSED, Reg.MEMC.evWEAK_LINE,
  Reg.MEMC.evWEAK_FULL, Reg.RETIRE.evRETIRED_HIT], .hidden [.memc, .freeCtr]]

/-- A denial recorded at target `t` (R601). -/
def Scope.denial (t : Nat) : Scope := .all [.regs [Reg.ACL.DENY_CNT_COUNT t, Reg.ACL.DENY_LAST_MASTER t,
  Reg.ACL.DENY_LAST_KIND t, Reg.ACL.DENY_LAST_VALID t, Reg.ACL.DENY_ADDR_PAGE t], .raising [Reg.ACL.evDENIED t]]

/-- What a DMA transfer may change beside the bytes it stores. -/
def Scope.dma : Scope := .all ([.dramUse] ++ ((List.range 17).map Scope.denial))

/-- The registers that follow SPF's state (R70, R558, R570). -/
def Scope.spfShows : Scope := .regs [Reg.SPF.STAT_BUSY, Reg.SPF.STAT_ERASE_HELD, Reg.SPF.Q_STAT_ENTRIES,
  Reg.SPF.Q_STAT_TX_WORDS, Reg.SPF.Q_STAT_RX_WORDS, Reg.PWR.FENCE_STAT_OTP_BUSY, Reg.PWR.FENCE_STAT_KEY_BUSY,
  Reg.PWR.FENCE_STAT_FLASH_BUSY]

/-- What SPF may change when it takes up its next work: its queues, the words it sends, the busy flags, and the
completions it delivers (R560 to R563, R70). -/
def Scope.spfNext : Scope := .all [.spfShows, .regs [Reg.SPF.Q_STAT_REFUSED], .raising [Reg.SPF.evQ_DONE,
  Reg.SPF.evQ_REFUSED], .hidden ([.spf, .spm, .emitted] ++ (List.range 16).map Part.done ++ (List.range 8).map
  Part.ses ++ (List.range 2).map Part.core)]

/-- What a change of the fence's causes may change: the fence, the decisions of R62, and what SPF takes up (R60 to
R64). -/
def Scope.fence : Scope := .all [.spfNext, .regs [Reg.PWR.FENCE_STAT_CLOSED, Reg.PWR.FENCE_STAT_CAUSE_HOLDUP,
  Reg.PWR.FENCE_STAT_CAUSE_HOST, Reg.PWR.FENCE_CNT_COUNT], .raising [Reg.PWR.evFENCE_CLOSE, Reg.PWR.evFENCE_OPEN],
  .hidden [.otp, .sec]]

/-- What the sequencer may change as it goes on: its pass, its entries, the injected conversion (R351 to R367). -/
def Scope.seqRun : Scope := .all [.lapse, .regs [Reg.SEQ.STAT_RUN, Reg.SEQ.STAT_CUR, Reg.SEQ.STAT_WAIT_TRIG,
  Reg.SEQ.STAT_INJ_BUSY, Reg.SEQ.STAT_INJ_END, Reg.SEQ.PASS_CNT_COUNT, Reg.SEQ.ERR_CNT_BAD, Reg.SEQ.ERR_CNT_DEAD,
  Reg.SEQ.ERR_CNT_MISS, Reg.SEQ.ERR_CNT_CLASS, Reg.SEQ.LATE_CNT_COUNT, Reg.SEQ.INJ_RES_RESULT, Reg.SEQ.INJ_RES_OR,
  Reg.SEQ.INJ_RES_COVER, Reg.SEQ.INJ_RES_CLASS_T, Reg.SEQ.INJ_RES_CHK, Reg.SEQ.INJ_TS_LO_NS, Reg.SEQ.INJ_TS_HI_NS],
  .hidden ([.seq] ++ (List.range 24).map Part.pcv)]

/-- The states of the precision converters (R368 to R374). -/
def Scope.pcvState : Scope := .regs (((List.range 24).flatMap fun c => [Reg.PCV.STAT_STATE c, Reg.PCV.STAT_CAL_PEND
  c, Reg.PCV.STAT_COVERING c, Reg.PCV.STAT_FAIL_CAUSE c, Reg.PCV.STAT_SUSPECT c, Reg.PCV.STAT_MISMATCH c]))

/-- The root oscillator, the domains and the clock monitor (R77 to R86, R95 to R103). -/
def Scope.rootState : Scope := .all [.regs [Reg.CLK.ROOT_STAT_STATE, Reg.CLK.ROOT_STAT_ACQ_CNT,
  Reg.CLK.DOM_STAT_RUNNING, Reg.CLK.DOM_STAT_ON_BYPASS, Reg.CLK.DOM_STAT_BUSY, Reg.CLK.DOM_STAT_OVERSPEED,
  Reg.CLK.MON_STAT_PRESENT, Reg.CLK.MON_STAT_LOST, Reg.CLK.MON_STAT_UNLOCK, Reg.CLK.MON_STAT_SQUELCH], .hidden
  [.clk]]

/-- What the beginning of a device reset may change (R146 step 1). -/
def Scope.resetState : Scope := .all [.followAll, .regs [Reg.SPM.STAT_FRAME], .hidden ([.boot, .waiting, .commits,
  .latches, .accepting, .spm, .spf, .memc, .otp, .sec, .time] ++ (List.range 8).map Part.ses ++ (List.range 16).map
  Part.done)]

/-- The window results of converter `n` (R252 to R254). -/
def Scope.cnvStats (n : Nat) : Scope := .all [.regs ([Reg.CNV.WIN_SEQ_SEQ n, Reg.CNV.WIN_FLAGS_SQ n,
  Reg.CNV.WIN_FLAGS_SAT n, Reg.CNV.WIN_FLAGS_PARTIAL n, Reg.CNV.WIN_FLAGS_DEGR n, Reg.CNV.NSAMP_LO_COUNT n,
  Reg.CNV.NSAMP_HI_COUNT n, Reg.CNV.SUM_LO_SUM n, Reg.CNV.SUM_HI_SUM n, Reg.CNV.SUMSQ_LO_SUMSQ n,
  Reg.CNV.SUMSQ_HI_SUMSQ n, Reg.CNV.OR_LO_COUNT n, Reg.CNV.OR_HI_COUNT n, Reg.CNV.MINMAX_MIN n, Reg.CNV.MINMAX_MAX
  n, Reg.CNV.MINMAX_VALID n, Reg.CNV.HIST_OR_COUNT n] ++ (List.range 256).map (Reg.CNV.HIST_COUNT n)), .raising
  [Reg.CNV.evWIN_DONE n, Reg.CNV.evSTAT_SAT n]]

/-- What any access of master `m` may change: its completion, and a session's or SPM's request that waits for it
(R31). -/
def Scope.access (m : Nat) : Scope := .hidden ([.done m, .token] ++ (if 4 ≤ m ∧ m < 12 then [.ses (m - 4)] else [])
  ++ (if m = 3 then [.spm] else []))

/-- What a write of PG_CTL may change (R143, R151, R160, R172). -/
def Scope.pgCtl (pg : Nat) : Scope := .all [.regs [Reg.HDR.PG_CTL_FREEZE pg, Reg.HDR.PG_STAT_RST_BUSY pg,
  Reg.HDR.PG_ERR_OFFSET pg, Reg.HDR.PG_ERR_MASTER pg, Reg.HDR.PG_ERR_STATUS pg, Reg.HDR.PG_ERR_WRITE pg,
  Reg.HDR.PG_ERR_COUNT pg], .hidden [.shad, .frozen, .marks]]

/-- The fields of one register. -/
def Scope.register (pg off : Nat) : Scope := .regs (((rowAt pg off).map (·.fields)).getD [] |>.map fun f => ⟨pg,
  off, f.lo, f.width⟩)

/-- RAW bits that fall. -/
def Scope.raws (l : List Nat) : Scope := ⟨[], [], l, []⟩

/-- What the block of a page may change when it follows its gate: its page, and the ports, pairs and herds that
follow it (R92, R636). -/
def Scope.block (pg : Nat) : Scope := .all [.followAll, .seqRun, .pcvState, .whole [pg], .regs (((List.range
  16).flatMap fun p => [Reg.SOFT.DROP_CNT_COUNT p])), .raising ([Reg.SEQ.evENTRY_DEAD, Reg.SEQ.evINJ_DONE,
  Reg.SEQ.evPASS_DONE, Reg.SEQ.evSEQ_STOP] ++ ((List.range 16).flatMap fun p => [Reg.SOFT.evHERD_DISCARD p])),
  .hidden ([.emitted] ++ (List.range 16).map Part.soft ++ (List.range 17).map Part.herd ++ (List.range 17).map
  Part.line ++ (List.range 17).map Part.link ++ (List.range 48).map Part.filt)]

/-- What a time command may change: device time, the windows it jumps (R115, R331). -/
def Scope.timeJump : Scope := .all [.regs [Reg.TIME.STAT_PEND, Reg.TIME.STAT_FAILED, Reg.TIME.STAT_REFUSED,
  Reg.TIME.STAT_STEPS, Reg.TIME.STAT_TRUST], .raising [Reg.TIME.evCMD_FAIL, Reg.TIME.evTIME_CMD_DONE], .hidden
  ([.time, .accu] ++ (List.range 16).map Part.tstat)]

/-- What a sequenced message of slot `k` that arrives on herd `h` may change at the receiver (R479, R483, R495,
R496). -/
def Scope.heard (h k : Nat) : Scope := .all ([.regs [Reg.LINK0.HL_ERR_GCM_FAIL h, Reg.LINK0.HL_CNT_HDR_ERR h,
  Reg.LINK1.SES_CNT_GCM_RUN k], .raising [Reg.LINK0.evHDR_ERR, Reg.LINK1.evGCM_FAIL], .hidden [.freeCtr]] ++
  ((List.range 8).map Scope.sesState))

/-! ### Bytes of memory -/

/-- `o` lies in none of the ranges, given as first byte and length. -/
def outside (l : List (Nat × Nat)) (o : Nat) : Prop := ∀ r ∈ l, o < r.1 ∨ r.1 + r.2 ≤ o

/-- Outside the ranges of DRAM offsets, every byte reads as before. -/
def DramOutside (s t : State) (l : List (Nat × Nat)) : Prop := ∀ o, outside l o → dramSeen t o = dramSeen s o

/-- Outside the ranges of flash offsets, every byte is as before. -/
def FlashOutside (s t : State) (l : List (Nat × Nat)) : Prop :=
  ∀ o, outside l o → Store.read flashDef t.mems.flash o = Store.read flashDef s.mems.flash o

/-- Outside the ranges of OTP words, every word is as before. -/
def OtpOutside (s t : State) (l : List (Nat × Nat)) : Prop := ∀ a, outside l a → otpWord t a = otpWord s a

/-- Outside the ranges of words, the sequencer table is as before. -/
def SeqtOutside (s t : State) (l : List (Nat × Nat)) : Prop :=
  ∀ w, outside l w → Store.read 0 t.mems.seqt w = Store.read 0 s.mems.seqt w

/-- Parts that are the same in both states. -/
def Kept (l : List Part) (s t : State) : Prop := ∀ p ∈ l, p.same s t

/-- The request of a write with its poison bit. -/
def writeReq (s : State) (m pg off v : Nat) (poison : Bool) : Req :=
  stamped s (mkReq m (regAddr pg off) true false 4 (toLE 4 v) poison 0)

/-- A commit of the page would request its gate: the page has one, it is open, and EN is committed as 0 (R165). -/
def gateAsked (s : State) (pg : Nat) : Bool :=
  !ungated pg && !rdb s (Reg.HDR.PG_STAT_GATED pg) && rdS s (Reg.HDR.PG_CTL_EN pg) % 2 == 0

/-- PG_ERR of a page records a refused access (R161). -/
def PageErr (s t : State) (pg off m code w : Nat) : Prop :=
  rd t (Reg.HDR.PG_ERR_OFFSET pg) = off / 4 ∧ rd t (Reg.HDR.PG_ERR_MASTER pg) = m
    ∧ rd t (Reg.HDR.PG_ERR_STATUS pg) = code ∧ rd t (Reg.HDR.PG_ERR_WRITE pg) = w
    ∧ rd t (Reg.HDR.PG_ERR_COUNT pg) = satAdd 8 (rd s (Reg.HDR.PG_ERR_COUNT pg)) 1

/-- A denial of kind `kind` by master `m` at address `a` is recorded at target `t` (R601). -/
def DenyKept (s u : State) (t m a kind : Nat) : Prop :=
  rd u (Reg.ACL.DENY_CNT_COUNT t) = satAdd 32 (rd s (Reg.ACL.DENY_CNT_COUNT t)) 1
    ∧ rd u (Reg.ACL.DENY_LAST_MASTER t) = m ∧ rd u (Reg.ACL.DENY_LAST_KIND t) = kind
    ∧ rd u (Reg.ACL.DENY_LAST_VALID t) = 1 ∧ rd u (Reg.ACL.DENY_ADDR_PAGE t) = a / 4096 % 2 ^ 28
    ∧ Raised u (Reg.ACL.evDENIED t)

/-- What a refused access to a page may change. -/
def Scope.refusal (t pg m : Nat) : Scope := .all [.access m, .denial t, .regs [Reg.HDR.PG_ERR_OFFSET pg,
  Reg.HDR.PG_ERR_MASTER pg, Reg.HDR.PG_ERR_STATUS pg, Reg.HDR.PG_ERR_WRITE pg, Reg.HDR.PG_ERR_COUNT pg]]

/-- An access to a retired page is recorded, counted and raised (R523). -/
def HitKept (s u : State) (m a w : Nat) : Prop :=
  rd u Reg.RETIRE.HIT_LAST_PAGE = dramOff a / 65536 % 2 ^ 17 ∧ rd u Reg.RETIRE.HIT_LAST_MASTER = m
    ∧ rd u Reg.RETIRE.HIT_LAST_WRITE = w ∧ rd u Reg.RETIRE.HIT_LAST_VALID = 1
    ∧ rd u Reg.RETIRE.HIT_CNT_COUNT = satAdd 32 (rd s Reg.RETIRE.HIT_CNT_COUNT) 1 ∧ Raised u Reg.RETIRE.evRETIRED_HIT

/-- The fields whose value in effect another field or state limits at a commit: TIME.SYNC_OUT_PHASE, EQ.CD_TARGET
(R264), the lock of an ACL region (R600), PWM phases, the filter's decimations (R407), TONE_OFF (R421) and PAR_POST,
and HERD.CTL.MIN_L. -/
def limitedField (k : Kind) (off lo : Nat) : Bool :=
  match k with
  | .time => off == 124
  | .eq => off == 68
  | .acl => lo == 30
  | .pwm => lo == 16
  | .filt => (off == 68 && 8 ≤ lo) || off == 108 || off == 144
  | .herd => off == 64 && lo == 0
  | _ => false

end Sys2Proof.Machine
end

