-- ==== Sys2Proof/Certificates/Slice0/Obligations.lean ====
section
/-! DEFINITION. What the provers are to prove: each statement with the rules of spec/ it stands for. -/

open Sys2Proof Sys2Proof.Machine

/-! ### Package and power -/

/-- Rails, sag monitors and the power-on reset complete (R48, R55, R56, R58, R59, R126, R638): each with its own
effect. POWER_ON_RESET while no NV operation runs: with every rail in regulation the power-on reset releases, with a
rail out it waits for that rail at step 2, PWRGOOD low; a rail fault of a rail in regulation of a powered device, which
takes PWRGOOD low; the return of a rail of a powered device, and of the last rail that a power-on reset waits for; a
sag whose cause bit is 0; the stop of the first stage of a powered device, after which every signal land of a driver
is high impedance. The model's choices in it: a power-on reset while an NV operation runs has no effect, and what one
keeps (log entry 21); rail 7 of the model, the NV island (log entry 4); a second sag within the dwell raises nothing
(log entry 54); the pins as functions of the state (log entry 30). -/
def Obligations.RailsAndSagsComplete : Prop :=
  (∀ s : State, nvRunning s = false → s.pwr.failed % 256 = 0 → Gives .powerOnReset s fun t =>
    t.boot.stage = .settling ∧ pwrgoodPin t = .high ∧ rd t Reg.DEV.BOOT_STAT_PHASE = 1 ∧ t.mems.otp = s.mems.otp
      ∧ t.mems.flash = s.mems.flash ∧ t.mems.sram = [] ∧ t.mems.dram = []) ∧
  (∀ s : State, nvRunning s = false → s.pwr.failed % 256 ≠ 0 → Gives .powerOnReset s fun t =>
    t.boot.stage = .rising ∧ t.pwr.goodSeen = false ∧ pwrgoodPin t = .low ∧ t.bus.accepting = false) ∧
  (∀ (s : State) (r : Fin 8), bit s.pwr.rails r = true → powered s = true → Gives (.railFault r) s fun t =>
    bit t.pwr.rails r = false ∧ pwrgoodPin t = .low ∧ bit (rd t Reg.PWR.RAIL_STAT_FAULTED) r = true
      ∧ Raised t Reg.PWR.evRAIL_FAULT
      ∧ (r = 0 → rd t Reg.PWR.FENCE_STAT_ON_HOLDUP = 1 ∧ t.pwr.bankFull = false)) ∧
  (∀ (s : State) (r : Fin 8), s.boot.stage = .rising → clrBit s.pwr.failed r % 256 = 0 →
    Gives (.railReturn r) s fun t => t.boot.stage = .settling ∧ pwrgoodPin t = .high) ∧
  (∀ (s : State) (r : Fin 8), powered s = true → Gives (.railReturn r) s fun t =>
    bit t.pwr.rails r = true ∧ (r = 0 → rd t Reg.PWR.FENCE_STAT_ON_HOLDUP = 0)) ∧
  (∀ s : State, powered s = true → Gives .firstStageStop s fun t =>
    t.boot.stage = .off ∧ t.pwr.rails = 128 ∧ t.pwr.goodSeen = false ∧ faultNPin t = .z ∧ evtNPin t = .z
      ∧ syncOutPin t = .z ∧ pwrgoodPin t = .z ∧ spmPinsFloat t = true ∧ lanesIdle t = true ∧ t.bus.accepting = false
      ∧ (∀ d : Fin 6, vget t.clk.cur .stopped d = .stopped)) ∧
  (∀ s : State, rd s Reg.PWR.FENCE_STAT_CAUSE_VIN = 0 → Gives .vinSag s fun t =>
    rd t Reg.PWR.FENCE_STAT_CAUSE_VIN = 1 ∧ rd t Reg.PWR.FENCE_STAT_CLOSED = 1 ∧ Raised t Reg.PWR.evVIN_SAG) ∧
  (∀ s : State, rd s Reg.PWR.FENCE_STAT_CAUSE_VNV = 0 → Gives .vnvSag s fun t =>
    rd t Reg.PWR.FENCE_STAT_CAUSE_VNV = 1 ∧ rd t Reg.PWR.FENCE_STAT_CLOSED = 1 ∧ Raised t Reg.PWR.evVNV_SAG) ∧
  (∀ (s : State) (vnv : Bool), Gives (.sagRecover vnv) s fun t =>
    (if vnv then rd t Reg.PWR.FENCE_STAT_CAUSE_VNV = 0 else rd t Reg.PWR.FENCE_STAT_CAUSE_VIN = 0)
      ∧ (rd t Reg.PWR.FENCE_STAT_CLOSED = 0 ↔ rd t Reg.PWR.FENCE_STAT_CAUSE_VIN = 0
          ∧ rd t Reg.PWR.FENCE_STAT_CAUSE_VNV = 0 ∧ rd t Reg.PWR.FENCE_CTL_HOLD = 0 ∧ rd t Reg.PWR.HOLDUP_VALID ≠ 0
          ∧ t.pwr.bankFull = true ∧ 50 ≤ rd t Reg.PWR.HOLDUP_BUDGET_MS))

/-- The hold-up bank, the measurements and the abandonment of NV operations complete (R57, R59, R62 to R64, R66 to
R68, R70, R638). The model's choices in it: THERM_WARN is raised on an upward crossing (log entry 54), and how far an
abandoned operation got is the command's operand (log entry 48). -/
def Obligations.HoldupAndMeasuresComplete : Prop :=
  (∀ (s : State) (ms : BitVec 16), rd s Reg.PWR.HOLDUP_VALID = 0 → Gives (.holdupMeasured ms) s fun t =>
    rd t Reg.PWR.HOLDUP_BUDGET_MS = ms.toNat ∧ rd t Reg.PWR.HOLDUP_VALID = 1
      ∧ (ms.toNat < 100 → Raised t Reg.PWR.evHOLDUP_LOW)) ∧
  (∀ s : State, rd s Reg.PWR.FENCE_STAT_ON_HOLDUP = 0 → Gives .holdupCharged s fun t => t.pwr.bankFull = true) ∧
  (∀ (s : State) (vin vnv : BitVec 16), Gives (.voltMeasUpdate vin vnv) s fun t =>
    rd t Reg.PWR.VIN_MEAS_MV = vin.toNat ∧ rd t Reg.PWR.VNV_MEAS_MV = vnv.toNat) ∧
  (∀ (s : State) (tj : BitVec 8), Gives (.thermSample tj) s fun t =>
    rd t Reg.PWR.THERM_TJ_MAX_C = tj.toNat
      ∧ (sext 8 (rd s Reg.PWR.THERM_TJ_MAX_C) < rd s Reg.PWR.THERM_WARN_C → rd s Reg.PWR.THERM_WARN_C ≤ tj.toInt →
          Raised t Reg.PWR.evTHERM_WARN)
      ∧ (120 ≤ tj.toInt → t.pwr.therm = true)) ∧
  (∀ (s : State) (o : OtpOp) (n : Nat), s.otp.op = some o → o.dec = .abandon → Gives (.nvAbandon 0 n) s fun t =>
    t.otp.op = none ∧ rd t Reg.OTP.STAT_LAST = 6 ∧ rd t Reg.PWR.NV_LAST_KIND = 1 ∧ rd t Reg.PWR.NV_LAST_OUTCOME = 1
      ∧ Raised t Reg.PWR.evNV_ABANDON) ∧
  (∀ (s : State) (n : Nat), s.sec.prov = true → s.sec.provDec = .abandon → Gives (.nvAbandon 1 n) s fun t =>
    t.sec.prov = false ∧ rd t Reg.SEC.STAT_PROV_RES = 5 ∧ rd t Reg.PWR.NV_LAST_KIND = 2
      ∧ Raised t Reg.PWR.evNV_ABANDON) ∧
  (∀ (s : State) (o : FlashOp) (n : Nat), s.spf.op = some o → o.dec = .abandon → o.stuck = false →
    Gives (.nvAbandon 2 n) s fun t => rd t Reg.PWR.NV_LAST_OUTCOME = 1 ∧ Raised t Reg.PWR.evNV_ABANDON
      ∧ rd t Reg.PWR.NV_LAST_KIND = (match o.kind with | .program _ => 3 | .erase _ _ => 4))

/-! ### Clocks and device time -/

/-- The root loop's lock and losses, the clock monitors and the T-state input complete (R76, R98 to R100, R102, R104 to
R107, R126). CLKIN_RETURN with edges back and not yet qualified shows them only. The model's choices in it:
PSTEP_LAST_PS
saturates and TSTATE is debounced by the time the code has been held (log entries 2 and 54), what a drift window says of
PRESENT (log entry 27), and that a phase step leaves device time where it is (log entry 29). -/
def Obligations.ClockMonitorsComplete : Prop :=
  (∀ s : State, rd s Reg.CLK.ROOT_STAT_STATE = 1 → Gives .rootAcqTimeout s fun t =>
    rd t Reg.CLK.ROOT_STAT_STATE = 3 ∧ rd t Reg.CLK.MON_STAT_LOST = 1 ∧ rd t Reg.CLK.MON_STAT_SQUELCH = 1
      ∧ Raised t Reg.CLK.evCLKIN_LOSS) ∧
  (∀ s : State, rd s Reg.CLK.ROOT_STAT_STATE = 1 ∨ rd s Reg.CLK.ROOT_STAT_STATE = 2 → Gives .clkinLoss s fun t =>
    rd t Reg.CLK.ROOT_STAT_STATE = 3 ∧ rd t Reg.CLK.MON_STAT_LOST = 1 ∧ rd t Reg.CLK.MON_STAT_UNLOCK = 0
      ∧ rd t Reg.CLK.MON_STAT_PRESENT = 0 ∧ rd t Reg.CLK.MON_STAT_SQUELCH = 1 ∧ rd t Reg.TIME.STAT_TRUST = 0
      ∧ Raised t Reg.CLK.evCLKIN_LOSS) ∧
  (∀ s : State, rd s Reg.CLK.ROOT_STAT_STATE = 2 → Gives .rootLossOfLock s fun t =>
    rd t Reg.CLK.ROOT_STAT_STATE = 3 ∧ rd t Reg.CLK.MON_STAT_UNLOCK = 1 ∧ rd t Reg.CLK.MON_STAT_PRESENT = 1
      ∧ Raised t Reg.CLK.evCLKIN_LOSS) ∧
  (∀ (s : State) (q : Bool), rd s Reg.CLK.MON_STAT_LOST ≠ 0 → Gives (.clkinReturn q) s fun t =>
    rd t Reg.CLK.MON_STAT_PRESENT = 1 ∧ rd t Reg.CLK.MON_STAT_SQUELCH = rd s Reg.CLK.MON_STAT_SQUELCH
      ∧ (if q then rd t Reg.CLK.MON_STAT_LOST = 0 ∧ rd t Reg.CLK.ROOT_STAT_STATE = 1 ∧ Raised t Reg.CLK.evCLKIN_RETURN
         else rd t Reg.CLK.MON_STAT_LOST = rd s Reg.CLK.MON_STAT_LOST)) ∧
  (∀ (s : State) (ppm : Int), Gives (.driftWindow ppm) s fun t =>
    rd t Reg.CLK.MON_STAT_PRESENT = 1 ∧ rd t Reg.CLK.MON_STAT_DEV_PPM = unsext 16 (clampI (-32767) 32767 ppm)
      ∧ (rd s Reg.CLK.MON_CTL_TOL_PPM ≤ ppm.natAbs → rd t Reg.CLK.MON_STAT_DRIFT ≠ 0)
      ∧ (2 * ppm.natAbs < rd s Reg.CLK.MON_CTL_TOL_PPM → rd t Reg.CLK.MON_STAT_DRIFT = 0)) ∧
  (∀ (s : State) (code : BitVec 3) (held : Nat), Gives (.tstateAccept ⟨code, held⟩) s fun t =>
    rd t Reg.CLK.TSTATE_RAW = code.toNat
      ∧ (if rd s Reg.CLK.TSTATE_DEB ≤ held then rd t Reg.CLK.TSTATE_NOW = code.toNat
          ∧ (code.toNat ≠ rd s Reg.CLK.TSTATE_NOW → Raised t Reg.CLK.evTSTATE_CHG)
         else rd t Reg.CLK.TSTATE_NOW = rd s Reg.CLK.TSTATE_NOW)) ∧
  (∀ (s : State) (ps : Int), Gives (.phaseStep ps) s fun t =>
    rd t Reg.CLK.PSTEP_LAST_PS = unsext 16 (clampI (-32768) 32767 ps)
      ∧ (100 ≤ ps.natAbs → Raised t Reg.CLK.evPHASE_STEP)
      ∧ (400 < ps.natAbs → Raised t Reg.CLK.evPHASE_STEP_LARGE) ∧ t.time = s.time) ∧
  (∀ s : State, rd s Reg.CLK.ROOT_STAT_STATE = 1 → Gives .rootLock s fun t =>
    rd t Reg.CLK.ROOT_STAT_STATE = 2 ∧ Raised t Reg.CLK.evROOT_LOCK)

/-- Domain switches, gates and the acknowledgement of a loss complete (R82, R83, R91, R103). A gate closes with an
idle bus (GATE_CLOSE) or at its time-out (GATE_TMO). The model's choices in it: what a switch under R85 waits for, and
that no time passes in a switch (log entry 28). -/
def Obligations.SwitchesAndGatesComplete : Prop :=
  (∀ (s : State) (d : Fin 6) (x : Source), vget s.clk.next none d = some x → domWaits s d = false →
    s.clk.held = 0 → s.bus.waiting = [] → s.bus.deferred = [] → Gives (.domSwitchDone d) s fun t =>
      vget t.clk.cur .stopped d = x ∧ vget t.clk.next none d = none ∧ Raised t Reg.CLK.evDOM_SWITCH_DONE) ∧
  (∀ (s : State) (pg : BitVec 10), gatePending s pg.toNat = true → busIdle s pg.toNat = true → s.bus.waiting = [] →
    Gives (.gateClose pg) s fun t => rd t (Reg.HDR.PG_STAT_GATED pg.toNat) = 1
      ∧ rd t (Reg.HDR.PG_STAT_COMMIT_HELD pg.toNat) = 0) ∧
  (∀ (s : State) (pg : BitVec 10), gatePending s pg.toNat = true → s.bus.waiting ≠ [] →
    s.bus.waiting.all (inProgress s pg.toNat) = true → Gives (.gateTmo pg) s fun t =>
      rd t (Reg.HDR.PG_STAT_GATED pg.toNat) = 1 ∧ rd t (Reg.HDR.PG_STAT_COMMIT_HELD pg.toNat) = 0
        ∧ t.bus.waiting = [] ∧ rd t Reg.CLK.GATE_LAST_PAGE = pg.toNat ∧ rd t Reg.CLK.GATE_LAST_VALID = 1
        ∧ Raised t Reg.CLK.evGATE_TMO) ∧
  (∀ (s : State) (m : Fin 16) (v : Word32), WritePasses s m Reg.CLK.page 112 v.toNat → v.getLsbD 0 = true →
    rd s Reg.CLK.ROOT_STAT_STATE = 2 → rd s Reg.CLK.MON_STAT_SQUELCH ≠ 0 → Gives (.lossAck m v) s fun t =>
      DoneOk t m ∧ rd t Reg.CLK.MON_STAT_SQUELCH = 0)

/-- SYNC_IN, SYNC_OUT and the commands of device time complete (R110 to R116). The model's choices in it: the edge
comes the operand's time after the last FAB edge, ADJ_FRAC is rounded to the unit and the phase is taken modulo the
period (log entry 29), and SYNC_OUT_FALL moves elapsed time on to its instant (log entry 11). -/
def Obligations.DeviceTimeCompletes : Prop :=
  (∀ (s : State) (sub : Nat), rd s Reg.TIME.STAT_PEND = 0 → Gives (.syncInEdge sub) s fun t =>
    t.time.units = s.time.units
      ∧ t.time.lastEdge = some ((s.time.units + min sub (domPeriod s 2)) % timeMod) ∧ t.time.cmdDelta = 0
      ∧ rd t Reg.TIME.SYNC_IN_TS_LO_NS
          = (s.time.units + min sub (domPeriod s 2)) % timeMod / 36 % 2 ^ 32) ∧
  (∀ (s : State) (l : Nat), s.time.lastEdge = some l → rd s Reg.TIME.STAT_SYNC_IN_OK ≠ 0 → Gives .syncInMiss s fun t =>
    rd t Reg.TIME.STAT_SYNC_IN_OK = 0 ∧ Raised t Reg.TIME.evSYNC_IN_MISS) ∧
  (∀ s : State, rd s Reg.TIME.SYNC_OUT_CTL_EN ≠ 0 → s.bus.accepting = true → 36 * s.time.nextOut ≤ s.time.units →
    Gives .syncOutRise s fun t => t.time.outEnd = some (s.time.uptime + 36 * outWidth s)
      ∧ t.time.nextOut = firstOut s (s.time.units + 1)) ∧
  (∀ (s : State) (e : Nat), s.time.outEnd = some e → Gives .syncOutFall s fun t =>
    t.time.outEnd = none ∧ e ≤ t.time.uptime) ∧
  (∀ (s : State) (m : Fin 16), WritePasses s m Reg.TIME.page 92 1 → rd s Reg.TIME.STAT_PEND = 0 →
    Gives (.timeStep m) s fun t => DoneOk t m ∧ Raised t Reg.TIME.evTIME_CMD_DONE
      ∧ t.time.units = (((s.time.units : Int) + 36 * sext 64 (adjNs s) + adjFrac s) % (timeMod : Int)).toNat) ∧
  (∀ (s : State) (m : Fin 16), WritePasses s m Reg.TIME.page 92 2 → rd s Reg.TIME.STAT_PEND = 0 →
    Gives (.timeSetNow m) s fun t => DoneOk t m ∧ Raised t Reg.TIME.evTIME_CMD_DONE
      ∧ t.time.units = (36 * adjNs s + adjFrac s) % timeMod) ∧
  (∀ (s : State) (m : Fin 16), WritePasses s m Reg.TIME.page 92 3 → rd s Reg.TIME.STAT_PEND = 0 →
    rd s Reg.TIME.STAT_SYNC_IN_OK ≠ 0 → Gives (.timeSetAtSyncIn m) s fun t => DoneOk t m
      ∧ rd t Reg.TIME.STAT_PEND = 1 ∧ t.time.pendAdj = (36 * adjNs s + adjFrac s) % timeMod
      ∧ t.time.units = s.time.units) ∧
  (∀ (s : State) (m : Fin 16), WritePasses s m Reg.TIME.page 92 4 → Gives (.timeCancel m) s fun t =>
    DoneOk t m ∧ rd t Reg.TIME.STAT_PEND = 0 ∧ t.time.units = s.time.units) ∧
  (∀ s : State, rd s Reg.TIME.STAT_PEND ≠ 0 → Gives .setAtSyncInTimeout s fun t =>
    rd t Reg.TIME.STAT_PEND = 0 ∧ rd t Reg.TIME.STAT_FAILED = 1 ∧ Raised t Reg.TIME.evCMD_FAIL)

/-! ### Start-up, reset and recovery -/

/-- The power-up sequence, verification and recovery complete (R126, R129, R131, R135, R136, R138). SETTLE_END and
RESET_N_RELEASE are stated with no SPM frame in progress and no word of an earlier one
waiting; RESET_N_RELEASE at step 4. The model's choices in it: the stages between the steps, and commands with the
results of the steps (log entries 2, 14 and 23); code 8 for the slot of an expired watchdog (log entry 26); where the
fields of the flash's tables stand (log entry 64). -/
def Obligations.StartUpCompletes : Prop :=
  (∀ (s : State) (clkin : Bool), s.boot.stage = .settling → s.pwr.resetN = true → s.spm.queue = [] →
    spmInFrame s = false → Gives (.settleEnd clkin) s fun t => t.boot.stage = .clocks ∧ rd t Reg.DEV.BOOT_STAT_PHASE = 2
      ∧ rd t Reg.CLK.ROOT_STAT_STATE = (if clkin then 1 else 3)) ∧
  (∀ (s : State) (clkin : Bool), s.boot.stage = .settling → s.pwr.resetN = false →
    Gives (.settleEnd clkin) s fun t => t.boot.stage = .held) ∧
  (∀ (s : State) (clkin : Bool), s.boot.stage = .held → s.spm.queue = [] →
    spmInFrame s = false → Gives (.resetNRelease clkin) s fun t =>
    t.pwr.resetN = true ∧ t.boot.stage = .clocks ∧ rd t Reg.DEV.BOOT_STAT_PHASE = 2) ∧
  (∀ (s : State) (fuse : List FuseMap), s.boot.stage = .clocks → rd s Reg.CLK.ROOT_STAT_STATE ≠ 1 →
    Gives (.memoryTrainingDone fuse) s fun t => t.boot.stage = .memory ∧ rd t Reg.DEV.BOOT_STAT_PHASE = 3
      ∧ rd t Reg.MEMC.STAT_TRAINED = 1 ∧ rd t Reg.MEMC.WRITTEN_UNITS = 0 ∧ t.mems.written = []) ∧
  (∀ (s : State) (f : Sfdp), s.boot.stage = .memory → Gives (.flashDiscovery f) s fun t =>
    t.boot.stage = .flash ∧ rd t Reg.DEV.BOOT_STAT_PHASE = 4
      ∧ (if sfdpCode f = 0 then Raised t Reg.SPF.evDISC_DONE
         else Raised t Reg.SPF.evDISC_FAIL ∧ rd t Reg.SPF.STAT_MODE = 3 ∧ rd t Reg.SPF.STAT_DISC_FAIL = sfdpCode f)) ∧
  (∀ (s : State) (v0 v1 : SlotVerdict), s.boot.stage = .flash → rd s Reg.DEV.RST_CAUSE_WDT_RUN < 2 →
    (slotCodes s v0 v1).1 = 0 ∨ (slotCodes s v0 v1).2 = 0 → Gives (.bootVerify v0 v1) s fun t =>
      t.boot.stage = .running ∧ rd t Reg.DEV.BOOT_STAT_PHASE = 5 ∧ rd t Reg.DEV.BOOT_WDT_RUNNING = 1
        ∧ Raised t Reg.DEV.evBOOT_DONE) ∧
  (∀ (s : State) (v0 v1 : SlotVerdict), s.boot.stage = .flash →
    2 ≤ rd s Reg.DEV.RST_CAUSE_WDT_RUN ∨ ((slotCodes s v0 v1).1 ≠ 0 ∧ (slotCodes s v0 v1).2 ≠ 0) →
    Gives (.bootVerify v0 v1) s fun t => t.boot.stage = .recovery ∧ rd t Reg.DEV.BOOT_STAT_PHASE = 6
      ∧ Raised t Reg.DEV.evBOOT_RECOVERY) ∧
  (∀ (s : State) (m : Fin 16), WritePasses s m Reg.DEV.page 88 1 → Gives (.fwOk m) s fun t =>
    DoneOk t m ∧ rd t Reg.DEV.BOOT_WDT_RUNNING = 0 ∧ rd t Reg.DEV.RST_CAUSE_WDT_RUN = 0) ∧
  (∀ (s : State) (m : Fin 16), WritePasses s m Reg.DEV.page 88 2 → s.boot.stage = .recovery →
    Gives (.bootRetry m) s fun t => DoneOk t m ∧ t.boot.stage = .flash ∧ rd t Reg.DEV.BOOT_STAT_PHASE = 4)

/-- The causes of a device reset, and the reset, complete (R139, R141, R146 to R148). The model's choices in it: of
several RST_CMD before the reset starts, the first names the master (log entry 54); the reset waits for NV operations
and the words of SPM (log entries 14 and 25), loads no record again once PHASE has passed 0 (log entry 22), and keeps
the power block's present conditions (log entry 24). -/
def Obligations.DeviceResetCompletes : Prop :=
  (∀ s : State, running4 s = true → Gives .resetNLow s fun t =>
    t.pwr.resetN = false ∧ t.boot.stage = .resetting ∧ t.boot.causePin = true ∧ t.bus.accepting = false) ∧
  (∀ (s : State) (m : Fin 16) (v : Word32), WritePasses s m Reg.DEV.page 76 v.toNat → v.toNat % 65536 = 0xB007 →
    bits v.toNat 16 4 = 1 → Gives (.rstCmd m v) s fun t => DoneOk t m
      ∧ t.boot.cmdReset = some (s.boot.cmdReset.getD m)) ∧
  (∀ (s : State) (m : Fin 16) (v : Word32), WritePasses s m Reg.DEV.page 76 v.toNat → v.toNat % 65536 ≠ 0xB007
    ∨ bits v.toNat 16 4 ≠ 1 →
    Gives (.rstCmd m v) s fun t => DoneOk t m ∧ t.boot = s.boot ∧ Raised t Reg.DEV.evRST_KEY_BAD) ∧
  (∀ (s : State), running4 s = true → s.boot.cmdReset.isSome = true → Gives .cmdResetStart s fun t =>
    t.boot.stage = .resetting ∧ t.boot.causeCmd = true) ∧
  (∀ s : State, running4 s = true → rd s Reg.DEV.BOOT_WDT_RUNNING ≠ 0 → Gives .bootWdtExpire s fun t =>
    t.boot.stage = .resetting ∧ t.boot.causeWdt = true) ∧
  (∀ (s : State) (clkin : Bool), s.boot.stage = .resetting → nvRunning s = false → s.spm.queue = [] →
    Gives (.deviceResetApply clkin) s fun t => t.boot.stage = (if s.pwr.resetN then .clocks else .held)
      ∧ (s.pwr.resetN = true → rd t Reg.DEV.BOOT_STAT_PHASE = 2) ∧ t.mems.otp = s.mems.otp
      ∧ t.mems.flash = s.mems.flash ∧ t.mems.sram = [] ∧ rd t Reg.DEV.RST_CAUSE_POR = 0
      ∧ rd t Reg.DEV.RST_CAUSE_PIN = b2n s.boot.causePin ∧ rd t Reg.DEV.RST_CAUSE_CMD = b2n s.boot.causeCmd
      ∧ rd t Reg.DEV.RST_CAUSE_WDT = b2n s.boot.causeWdt
      ∧ rd t Reg.DEV.RST_CNT_COUNT = satAdd 16 (rd s Reg.DEV.RST_CNT_COUNT) 1)

/-! ### Register pages, events and the log -/

/-- Writes of the header complete (R151, R160, R163 to R168, R172, R175). A PAGE_COMMIT that requests a gate is held
until the gate has closed, and is counted then (R164, R165); one on the CLK page while a domain switches is held
(R84). The model's choices in it: a write of PG_LOCK with several bits acts BREAK, TAKE, RELEASE (log entry 32); a CLK
commit held behind a switch completes at once (log entry 54). -/
def Obligations.HeaderWritesComplete : Prop :=
  (∀ (s : State) (m : Fin 16) (pg : BitVec 10) (v : Word32), WritePasses s m pg.toNat 8 (setBit v.toNat 1) →
    Gives (.pageRst m pg v) s fun t => DoneOk t m ∧ rd t (Reg.HDR.PG_STAT_RST_BUSY pg.toNat) = 1) ∧
  (∀ (s : State) (m : Fin 16) (pg : BitVec 10), WritePasses s m pg.toNat 16 1 →
    pg.toNat ≠ Reg.CLK.page ∨ rd s Reg.CLK.DOM_STAT_BUSY = 0 → Gives (.pageCommit m pg) s fun t =>
      rd t (Reg.HDR.PG_CTL_EN pg.toNat) = rdS s (Reg.HDR.PG_CTL_EN pg.toNat) % 2
      ∧ rd t (Reg.HDR.PG_STAT_EN_EFF pg.toNat) = rd t (Reg.HDR.PG_CTL_EN pg.toNat)
      ∧ (if gateAsked s pg.toNat then rd t (Reg.HDR.PG_STAT_COMMIT_HELD pg.toNat) = 1
           ∧ t.bus.commits = s.bus.commits ++ [writeReq s m pg.toNat 16 1 false] ∧ lastDone t m = lastDone s m
           ∧ rd t (Reg.HDR.PG_COMMIT_COUNT pg.toNat) = rd s (Reg.HDR.PG_COMMIT_COUNT pg.toNat)
         else DoneOk t m ∧ rd t (Reg.HDR.PG_COMMIT_COUNT pg.toNat) = (rd s (Reg.HDR.PG_COMMIT_COUNT pg.toNat)
           + (s.bus.commits.filter (fun r => pageOf r.addr == pg.toNat)).length + 1) % 2 ^ 32)) ∧
  (∀ (s : State) (m : Fin 16), WritePasses s m Reg.CLK.page 16 1 → rd s Reg.CLK.DOM_STAT_BUSY ≠ 0 →
    Gives (.pageCommit m 1#10) s fun t => DoneOk t m ∧ rd t (Reg.HDR.PG_STAT_COMMIT_HELD Reg.CLK.page) = 1
      ∧ t.clk.held = s.clk.held + 1 ∧ t.shad = s.shad) ∧
  (∀ (s : State) (m : Fin 16) (pg : BitVec 10) (v : Word32), WritePasses s m pg.toNat 8 v.toNat →
    Gives (.pgFreeze m pg v) s fun t => DoneOk t m ∧ rdb t (Reg.HDR.PG_CTL_FREEZE pg.toNat) = v.getLsbD 2) ∧
  (∀ (s : State) (m : Fin 16) (pg : BitVec 10) (v : Word32), WritePasses s m pg.toNat 8 (setBit v.toNat 3) →
    Gives (.errClr m pg v) s fun t => DoneOk t m ∧ rd t (Reg.HDR.PG_ERR_OFFSET pg.toNat) = 0
      ∧ rd t (Reg.HDR.PG_ERR_MASTER pg.toNat) = 0 ∧ rd t (Reg.HDR.PG_ERR_STATUS pg.toNat) = 0
      ∧ rd t (Reg.HDR.PG_ERR_WRITE pg.toNat) = 0 ∧ rd t (Reg.HDR.PG_ERR_COUNT pg.toNat) = 0) ∧
  (∀ (s : State) (m : Fin 16) (pg : BitVec 10), WritePasses s m pg.toNat 32 0x10000 →
    rd s (Reg.HDR.PG_LOCK_HELD pg.toNat) = 0 → Gives (.lockTake m pg) s fun t => DoneOk t m
      ∧ rd t (Reg.HDR.PG_LOCK_HELD pg.toNat) = 1 ∧ rd t (Reg.HDR.PG_LOCK_OWNER pg.toNat) = m) ∧
  (∀ (s : State) (m : Fin 16) (pg : BitVec 10), WritePasses s m pg.toNat 32 0x20000 →
    Gives (.lockRelease m pg) s fun t => DoneOk t m ∧ rd t (Reg.HDR.PG_LOCK_HELD pg.toNat) = 0) ∧
  (∀ (s : State) (m : Fin 16) (pg : BitVec 10), WritePasses s m pg.toNat 32 0x40000 →
    rd s (Reg.HDR.PG_LOCK_HELD pg.toNat) ≠ 0 → Gives (.lockBreak m pg) s fun t => DoneOk t m
      ∧ rd t (Reg.HDR.PG_LOCK_HELD pg.toNat) = 0 ∧ rd t Reg.EVT0.LOCK_LAST_PAGE = pg.toNat
      ∧ rd t Reg.EVT0.LOCK_LAST_OLD = rd s (Reg.HDR.PG_LOCK_OWNER pg.toNat) % 16 ∧ rd t Reg.EVT0.LOCK_LAST_BY = m
      ∧ Raised t Reg.EVT0.evLOCK_BREAK) ∧
  (∀ (s : State) (m : Fin 16) (pg : BitVec 10) (v : Word32), WritePasses s m pg.toNat 20 v.toNat →
    Gives (.evtRawClear m pg v) s fun t => DoneOk t m ∧ ∀ b : Fin 32, bit (rd t (Reg.HDR.PG_EVT_RAW_RAW pg.toNat)) b
      = (bit (rd s (Reg.HDR.PG_EVT_RAW_RAW pg.toNat)) b && !v.getLsbD b))

/-- Register writes and two-half reads, page resets, the log and the fault pin complete (R11, R143, R151, R160, R171,
R178 to R182, R188). REGISTER_WRITE is stated on the event enables of a page and on the SRAM; a log entry with no gap
to record, whose write the memory takes. The model's choices in it: an access is one transaction whose completion stands
at the master's port (log entry 17); a notice waits until the log has taken its raise (log entry 34). -/
def Obligations.AccessesAndLogComplete : Prop :=
  (∀ (s : State) (m : Fin 16) (pg : BitVec 10) (v : Word32), WritePasses s m pg.toNat 24 v.toNat →
    Gives (.registerWrite m (BitVec.ofNat 40 (regAddr pg.toNat 24)) v false) s fun t =>
      DoneOk t m ∧ rd t (Reg.HDR.PG_EVT_EN_EN pg.toNat) = v.toNat) ∧
  (∀ (s : State) (m : Fin 16) (a : BitVec 22) (v : Word32), fabricQuiet s = true →
    masterIssues s (mkReq m (0x8000000 + a.toNat) true false 4 [] false 0) = true → a.toNat % 64 ≤ 60 →
    aclGrants s 1 m (0x8000000 + a.toNat) 1 = true →
    Gives (.registerWrite m (0x8000000#40 + a.setWidth 40) v false) s fun t => DoneOk t m
      ∧ bytesAt 0 t.mems.sram a.toNat 4 = toLE 4 v.toNat
      ∧ ∀ o, o < a.toNat ∨ a.toNat + 4 ≤ o → Store.read 0 t.mems.sram o = Store.read 0 s.mems.sram o) ∧
  (∀ (s : State) (m : Fin 16) (pg : BitVec 10) (k : Kind) (i off hi : Nat) (comp : List Nat),
    ReadPasses s m pg.toNat off → kindOf pg.toNat = some (k, i) → pairLow k off = some (hi, comp) →
    Gives (.lowHalfRead m (BitVec.ofNat 40 (regAddr pg.toNat off)) false) s fun t => DoneOk t m
      ∧ (lastDone t m).data = toLE 4 (shownWord s pg.toNat off)
      ∧ latchOf t m pg.toNat
          = some ⟨m, pg.toNat, (hi, shownWord s pg.toNat hi) :: comp.map (fun o => (o, shownWord s pg.toNat o))⟩) ∧
  (∀ (s : State) (m : Fin 16) (pg : BitVec 10) (k : Kind) (i off x : Nat) (l : Latch),
    ReadPasses s m pg.toNat off → kindOf pg.toNat = some (k, i) → pairLow k off = none →
    latchOf s m pg.toNat = some l → l.words.headD (0, 0) = (off, x) → l.words ≠ [] → pg.toNat ≠ Reg.SPF.page →
    Gives (.highHalfRead m (BitVec.ofNat 40 (regAddr pg.toNat off)) false) s fun t => DoneOk t m
      ∧ (lastDone t m).data = toLE 4 x ∧ latchOf t m pg.toNat = none) ∧
  (∀ (s : State) (pg : BitVec 10), resetPending s pg.toNat = true → busIdle s pg.toNat = true → s.bus.waiting = [] →
    (kindOf pg.toNat).isSome = true → Gives (.pageResetApply pg) s fun t =>
      rd t (Reg.HDR.PG_STAT_RST_BUSY pg.toNat) = 0 ∧ rd t (Reg.HDR.PG_EVT_EN_EN pg.toNat) = 0
        ∧ rd t (Reg.HDR.PG_COMMIT_COUNT pg.toNat) = 0
        ∧ rd t (Reg.HDR.PG_LOCK_HELD pg.toNat) = rd s (Reg.HDR.PG_LOCK_HELD pg.toNat) % 2
        ∧ rd t (Reg.HDR.PG_LOCK_OWNER pg.toNat) = rd s (Reg.HDR.PG_LOCK_OWNER pg.toNat) % 16) ∧
  (∀ (s : State) (pg : BitVec 10), resetPending s pg.toNat = true → s.bus.waiting ≠ [] →
    s.bus.waiting.all (inProgress s pg.toNat) = true → (kindOf pg.toNat).isSome = true → pg.toNat ≠ Reg.CLK.page →
    Gives (.pageResetTimeout pg) s fun t => rd t (Reg.HDR.PG_STAT_RST_BUSY pg.toNat) = 0 ∧ t.bus.waiting = []
      ∧ rd t Reg.CLK.GATE_LAST_PAGE = pg.toNat ∧ rd t Reg.CLK.GATE_LAST_VALID = 1 ∧ Raised t Reg.CLK.evGATE_TMO) ∧
  (∀ (s : State) (m : Fin 16) (v : Word32), WritePasses s m Reg.EVT1.page 80 v.toNat →
    Gives (.logRdWrite m v) s fun t =>
    DoneOk t m ∧ rd t Reg.EVT1.LOG_RD_COUNT
      = (if logSize s < (rd s Reg.EVT1.LOG_WR_COUNT + 2 ^ 32 - v.toNat) % 2 ^ 32
        then rd s Reg.EVT1.LOG_WR_COUNT % 2 ^ 32
         else v.toNat)) ∧
  (∀ (s : State) (bads : Fin 5) (e : LogEntry) (rest : List LogEntry), logRuns s = true → s.evt.logQ = e :: rest →
    logLevel s < logSize s → rd s Reg.EVT1.LOG_STAT_GAP = 0 →
    (logPut s (logBytes e.ns e.frac e.id e.trust (rd s Reg.EVT1.LOG_WR_COUNT)) bads).2 = true →
    Gives (.logEntryWrite bads) s fun t =>
      rd t Reg.EVT1.LOG_WR_COUNT = (rd s Reg.EVT1.LOG_WR_COUNT + 1) % 2 ^ 32
        ∧ (∀ q ∈ t.evt.logQ, q.serial ≠ e.serial)) ∧
  (∀ (s : State) (bads : Fin 5) (e : LogEntry) (rest : List LogEntry), logRuns s = true → s.evt.logQ = e :: rest →
    logSize s ≤ logLevel s → Gives (.logEntryWrite bads) s fun t =>
      rd t Reg.EVT1.LOG_WR_COUNT = rd s Reg.EVT1.LOG_WR_COUNT ∧ rd t Reg.EVT1.LOG_STAT_FULL = 1
        ∧ Raised t Reg.EVT0.evLOG_FULL) ∧
  (∀ s : State, s.evt.faultLow = true → faultWanted s = false → Gives .faultNRise s fun t =>
    t.evt.faultLow = false ∧ Raised t Reg.EVT0.evFAULT_RELEASE)

/-! ### Ports, converters, equalisers and statistics -/

/-- The light detectors, the gains and the port restart complete (R196 to R200, R205 to R210, R213, R216). LIGHT_LOSS
is stated for a dip of 1.0 ns below the threshold in effect, which is declared, and for one of less than 0.2 ns or
none, which is not; LIGHT_RETURN for taps sampled at or above threshold plus hysteresis for the rest of RETURN_US,
and for a tap that is low again, which counts from zero. The model's choices in it: the steps of gain as 80th powers
of 10, a microsecond of qualification as 100 SLO cycles (log entry 35), the causes that a following of the port shows
(log entries 35 and 63), and a sample's code (log entry 55). -/
def Obligations.OpticalComplete : Prop :=
  (∀ (s : State) (p : Fin 16) (dbm : Int) (ps : Nat), (s.port p).sig = .good → dbm < sigThr s p → 1000 ≤ ps →
    Gives (.lightLoss p (some (dbm, ps)) none) s fun t =>
    (t.port p).sig = .loss ∧ (t.port p).lo = (s.port p).lo ∧ rd t (Reg.PORT.STAT_SIG_OK p) = 0
      ∧ rd t (Reg.PORT.LOS_CNT_SIG p) = satAdd 16 (rd s (Reg.PORT.LOS_CNT_SIG p)) 1
      ∧ bit (rd t (Reg.PORT.SQ_NOW_CAUSE p)) 2 = true ∧ Raised t (Reg.PORT.evLOS_SIG p)) ∧
  (∀ (s : State) (p : Fin 16) (dbm : Int) (ps : Nat), (s.port p).lo = .good → dbm < loThr s p → 1000 ≤ ps →
    Gives (.lightLoss p none (some (dbm, ps))) s fun t =>
    (t.port p).lo = .loss ∧ (t.port p).sig = (s.port p).sig ∧ rd t (Reg.PORT.STAT_LO_OK p) = 0
      ∧ rd t (Reg.PORT.LOS_CNT_LO p) = satAdd 16 (rd s (Reg.PORT.LOS_CNT_LO p)) 1
      ∧ bit (rd t (Reg.PORT.SQ_NOW_CAUSE p)) 3 = true ∧ Raised t (Reg.PORT.evLOS_LO p)) ∧
  (∀ (s : State) (p : Fin 16) (a b : Int) (m n : Nat), sigThr s p ≤ a ∨ m < 200 → loThr s p ≤ b ∨ n < 200 →
    Gives (.lightLoss p (some (a, m)) (some (b, n))) s fun t => (t.port p).sig = (s.port p).sig
      ∧ (t.port p).lo = (s.port p).lo ∧ rd t (Reg.PORT.LOS_CNT_SIG p) = rd s (Reg.PORT.LOS_CNT_SIG p)
      ∧ rd t (Reg.PORT.LOS_CNT_LO p) = rd s (Reg.PORT.LOS_CNT_LO p)) ∧
  (∀ (s : State) (p : Fin 16) (a b : Int) (m n : Nat), blockRuns s (Reg.PORT.page p) = true →
    (s.port p).sig = .loss → (s.port p).lo = .loss → sigThr s p + rd s (Reg.PORT.LOS_RET_HYST p) ≤ a →
    loThr s p + rd s (Reg.PORT.LOS_RET_HYST p) ≤ b → 0 < m → 0 < n →
    100 * rd s (Reg.PORT.LOS_RET_RETURN_US p) ≤ (s.port p).sigQual + m →
    100 * rd s (Reg.PORT.LOS_RET_RETURN_US p) ≤ (s.port p).loQual + n →
    Gives (.lightReturn p (some (a, m)) (some (b, n))) s fun t => (t.port p).sig = .good ∧ (t.port p).lo = .good
      ∧ rd t (Reg.PORT.STAT_SIG_OK p) = 1 ∧ rd t (Reg.PORT.STAT_LO_OK p) = 1
      ∧ Raised t (Reg.PORT.evLIGHT_RETURN p)) ∧
  (∀ (s : State) (p : Fin 16) (a : Int) (m : Nat), blockRuns s (Reg.PORT.page p) = true → (s.port p).sig = .loss →
    a < sigThr s p + rd s (Reg.PORT.LOS_RET_HYST p) → 0 < m → Gives (.lightReturn p (some (a, m)) none) s fun t =>
      (t.port p).sig = .loss ∧ (t.port p).sigQual = 0 ∧ rd t (Reg.PORT.STAT_SIG_OK p) = 0) ∧
  (∀ (s : State) (p : Fin 16) (xi xq yi yq : List Samp), blockRuns s (Reg.PORT.page p) = true →
    rd s (Reg.PORT.CTL_AGC_EN p) ≠ 0 → (s.port p).sig = .good → (s.port p).lo = .good →
    Gives (.agcStep p xi xq yi yq) s fun t => ∀ l : Fin 4, cnvDelivers s (4 * p + l) = true →
      let cs := ([xi, xq, yi, yq].getD l []).map fun x => (delivered s (4 * p + l) x).1
      gainOf t p l =
        (if cs = [] then gainOf s p l
         else if rmsHigh (sumsqOf cs) cs.length (rd s (Reg.PORT.AGC_CTL_TARGET p))
           (rd s (Reg.PORT.AGC_CTL_DEADBAND p)) then
           gainOf s p l - 1
         else if rmsLow (sumsqOf cs) cs.length (rd s (Reg.PORT.AGC_CTL_TARGET p))
             (rd s (Reg.PORT.AGC_CTL_DEADBAND p)) then min 255 (gainOf s p l + 1)
         else gainOf s p l)) ∧
  (∀ (s : State) (p : Fin 16), blockRuns s (Reg.PORT.page p) = true → rd s (Reg.PORT.CTL_AGC_EN p) = 0 →
    Gives (.gainRampStep p) s fun t =>
      gainOf t p 0 = toward (gainOf s p 0) (rd s (Reg.PORT.TIA_GAIN_XI p)) % 256
        ∧ gainOf t p 1 = toward (gainOf s p 1) (rd s (Reg.PORT.TIA_GAIN_XQ p)) % 256
        ∧ gainOf t p 2 = toward (gainOf s p 2) (rd s (Reg.PORT.TIA_GAIN_YI p)) % 256
        ∧ gainOf t p 3 = toward (gainOf s p 3) (rd s (Reg.PORT.TIA_GAIN_YQ p)) % 256) ∧
  (∀ (s : State) (p : Fin 16), bit (rd s (Reg.PORT.SQ_NOW_CAUSE p)) 4 = true → Gives (.restartSlow p) s fun t =>
    Raised t (Reg.PORT.evRESTART_SLOW p) ∧ rd t (Reg.PORT.SQ_NOW_CAUSE p) = rd s (Reg.PORT.SQ_NOW_CAUSE p))

/-- A converter starts up, loses lock and is back in the state it left once it has relocked, READY raised, and is
calibrated in the foreground (R230, R232, R245, R249). The model's choices in it: a relock gives the state that the
number of failed elements gives, and a foreground calibration includes a punty that serves a slot (log entry 36); the
loop that has lost lock in FG_CAL or FAILED (log entry 63). -/
def Obligations.ConverterStatesComplete : Prop :=
  (∀ (s : State) (n : Fin 64), cnvState s n = 1 → blockRuns s (Reg.CNV.page n) = true →
    Gives (.cnvLoopLock n) s fun t => cnvState t n = 2
      ∧ (rd s (Reg.CNV.RETIRE_VALID n) ≠ 0 → rd s (Reg.CNV.RETIRE_SLICE n) ≤ 64 →
          sliceFailed t n (rd s (Reg.CNV.RETIRE_SLICE n)) = true)) ∧
  (∀ (s : State) (n : Fin 64) (cal : List (Int × Int × Int)) (skews : List Int), cnvState s n = 2 →
    blockRuns s (Reg.CNV.page n) = true → Gives (.startCalDone n cal skews) s fun t => cnvState t n = byCount t n
      ∧ (byCount t n ≠ 5 → Raised t (Reg.CNV.evREADY n))) ∧
  (∀ (s : State) (n : Fin 64), cnvState s n = 3 ∨ cnvState s n = 4 → blockRuns s (Reg.CNV.page n) = true →
    (s.cnv n).locked = true → Gives (.cnvUnlock n) s fun t => cnvState t n = 6 ∧ rd t (Reg.CNV.STAT_LOCKED n) = 0
      ∧ rd t (Reg.CNV.STAT_RDY n) = 0 ∧ Raised t (Reg.CNV.evUNLOCK n)
      ∧ (byCount s n = cnvState s n → Gives (.cnvRelock n) t fun u => cnvState u n = cnvState s n
          ∧ rd u (Reg.CNV.STAT_LOCKED n) = 1 ∧ rdb u (Reg.CNV.STAT_RDY n) = rdb s (Reg.CNV.STAT_RATE_OK n)
          ∧ Raised u (Reg.CNV.evREADY n))) ∧
  (∀ (s : State) (n : Fin 64), cnvState s n = 6 → (s.cnv n).locked = false → blockRuns s (Reg.CNV.page n) = true →
    Gives (.cnvRelock n) s fun t => cnvState t n = byCount s n ∧ rd t (Reg.CNV.STAT_LOCKED n) = 1
      ∧ (byCount s n ≠ 5 → Raised t (Reg.CNV.evREADY n)
          ∧ rdb t (Reg.CNV.STAT_RDY n) = rdb s (Reg.CNV.STAT_RATE_OK n))) ∧
  (∀ (s : State) (m : Fin 16) (n : Fin 64), WritePasses s m (Reg.CNV.page n) 80 1 →
    Gives (.fgCal m n) s fun t => DoneOk t m
      ∧ (if blockRuns s (Reg.CNV.page n) = false then cnvState t n = cnvState s n
         else if (cnvState s n = 3 ∨ cnvState s n = 4) ∧ bit (rd s (Reg.PORT.SQ_NOW_CAUSE (n / 4))) 0 = true then
           cnvState t n = 7
         else Raised t (Reg.CNV.evCMD_REFUSED n) ∧ cnvState t n = cnvState s n)) ∧
  (∀ (s : State) (n : Fin 64) (cal : List (Int × Int × Int)), cnvState s n = 7 →
    blockRuns s (Reg.CNV.page n) = true → Gives (.fgDone n cal) s fun t =>
    cnvState t n = (if byCount t n < 5 ∧ (s.cnv n).locked = false then 6 else byCount t n)
      ∧ Raised t (Reg.CNV.evFG_DONE n))

/-- Rotation, seams and slice failures complete (R233 to R239, R243 to R248). The model's choices in it: a sample's
code from the quantiser's bits and the trims (log entry 55), the third condition of a self-check (log entry 56), a
second failure in a state of the loop (log entry 36), and what a failure of the punty counts (log entry 63). -/
def Obligations.RotationCompletes : Prop :=
  (∀ (s : State) (n : Fin 64) (ofs gain : Int), rotPhase s n = 1 → cnvState s n = 3 → trimOk ofs gain 0 = true →
    blockRuns s (Reg.CNV.page n) = true →
    Gives (.puntyCalDone n ofs gain) s fun t => rd t (Reg.CNV.SLICE_A_OFS n 64) = unsext 16 ofs
      ∧ rd t (Reg.CNV.SLICE_A_GAIN n 64) = unsext 16 gain
      ∧ rotPhase t n = (if rdb s (Reg.CNV.ROT_CTL_EN n) then 0 else 5)) ∧
  (∀ (s : State) (n : Fin 64) (pairs : List SeamPair) (offset : Int), cnvState s n = 3 →
    rotPhase s n = 2 ∨ rotPhase s n = 4 → blockRuns s (Reg.CNV.page n) = true → pairs.length = 4096 →
    Gives (.seamDecision n pairs offset) s fun t =>
      let d := pairDiffs s n pairs
      if seamMatched s n d.length (sumOf d) (sumsqOf d) then
        rotPhase t n = (if rotPhase s n = 2 then 3 else if rdb s (Reg.CNV.ROT_CTL_EN n) then 0 else 5)
      else if (s.cnv n).seams + 1 < rd s (Reg.CNV.ROT_CTL_SEAM_MAX n) then
        rotPhase t n = rotPhase s n ∧ (t.cnv n).seams = (s.cnv n).seams + 1
      else Raised t (Reg.CNV.evSEAM_FAIL n)
        ∧ (rotPhase s n = 2 → rd t (Reg.CNV.SEAM_CNT_IN_FAIL n) = satAdd 16 (rd s (Reg.CNV.SEAM_CNT_IN_FAIL n)) 1)
        ∧ (rotPhase s n = 4 → rd t (Reg.CNV.SEAM_CNT_OUT_FAIL n) = satAdd 16 (rd s (Reg.CNV.SEAM_CNT_OUT_FAIL n)) 1)) ∧
  (∀ (s : State) (n : Fin 64) (ofs gain skew : Int), rotPhase s n = 3 → cnvState s n = 3 → (s.cnv n).step ≤ 64 →
    blockRuns s (Reg.CNV.page n) = true →
    Gives (.offlineCalDone n ofs gain skew) s fun t =>
      if trimOk ofs gain skew then rotPhase t n = 4
        ∧ rd t (Reg.CNV.SLICE_A_OFS n (stepSlice s n)) = unsext 16 ofs
        ∧ rd t (Reg.CNV.SLICE_A_GAIN n (stepSlice s n)) = unsext 16 gain
        ∧ rd t (Reg.CNV.SLICE_B_SKEW n (stepSlice s n)) = unsext 12 skew
      else sliceFailed t n (stepSlice s n) = true) ∧
  (∀ (s : State) (n : Fin 64), cnvState s n = 3 → rotPhase s n = 0 → (s.cnv n).hole = none →
    blockRuns s (Reg.CNV.page n) = true → Gives (.rotDwellEnd n) s fun t => rotPhase t n =
      (if rdb s (Reg.CNV.ROT_CTL_EN n) then (if stepSlice s n = 64 then 1 else 2) else 5)) ∧
  (∀ (s : State) (n : Fin 64) (sl : Fin 65) (why : SelfCheck), 4 ≤ cnvState s n → blockRuns s (Reg.CNV.page n) = true →
    checkFails s n why = true → Gives (.sliceFault n ⟨sl, why⟩ none) s fun t => sliceFailed t n sl = true) ∧
  (∀ (s : State) (n : Fin 64) (sl : Fin 65) (why : SelfCheck), checkFails s n why = false →
    Gives (.sliceFault n ⟨sl, why⟩ none) s fun t => cnvState t n = cnvState s n ∧ (t.cnv n).hole = (s.cnv n).hole
      ∧ sliceFailed t n sl = sliceFailed s n sl) ∧
  (∀ (s : State) (n : Fin 64) (sl : Fin 64) (why : SelfCheck), cnvState s n = 3 → sliceFailed s n sl = false →
    (s.cnv n).hole = none →
    ¬(2 ≤ rotPhase s n ∧ rotPhase s n ≤ 4 ∧ stepSlice s n = sl) →
    blockRuns s (Reg.CNV.page n) = true → checkFails s n why = true →
    Gives (.sliceFault n ⟨sl.castSucc, why⟩ none) s fun t => (t.cnv n).hole = some sl.val ∧ cnvState t n = 3) ∧
  (∀ (s : State) (n : Fin 64) (j : Fin 64), (s.cnv n).hole = some j.val → cnvState s n = 3 →
    sliceFailed s n j = false → rd s (Reg.CNV.SLICE_B_STATE n 64) < 4 → blockRuns s (Reg.CNV.page n) = true →
    Gives (.puntyTakesSlot n) s fun t =>
      (t.cnv n).hole = none ∧ sliceFailed t n j = true ∧ rd t (Reg.CNV.STAT_SLOT n) = j
        ∧ rd t (Reg.CNV.SLICE_B_STATE n 64) = 4 ∧ cnvState t n = byCount t n)

/-- Acquisition, and its loss, complete (R266, R268, R271, R275 to R278). A state that follows only from the command
holds while the equaliser's own conditions do (`eqStays`). The model's choices in it: the arithmetic of the signal path
and what pilot synchronisation has to find (log entry 57), and the estimators' results as operands (log entry 2). -/
def Obligations.AcquisitionCompletes : Prop :=
  (∀ (s : State) (p : Fin 16) (khz : Int) (bl : List EqBlock), rd s (Reg.EQ.STAT_STATE p) = 2 → eqRuns s p = true →
    Gives (.eqFreqDone ⟨p, khz, bl⟩) s fun t => rd t (Reg.EQ.STAT_STATE p) = 3 ∧ rd t (Reg.EQ.STAT_ACQ p) = 0
      ∧ (t.eq p).freq = clampI (-6000000) 6000000 khz) ∧
  (∀ (s : State) (p : Fin 16) (run : EqRun), rd s (Reg.EQ.STAT_STATE p) = 3 → eqRuns s p = true →
    Gives (.eqBlindDone ⟨p, run⟩) s fun t => rd t (Reg.EQ.STAT_STATE p) = 4 ∧ rd t (Reg.EQ.STAT_ACQ p) = 0
      ∧ (bfUse t p).taps = (eqRunNow s p run.toEqSpan).taps) ∧
  (∀ (s : State) (p : Fin 16) (y : PilotSync) (run : EqRun), rd s (Reg.EQ.STAT_STATE p) = 4 → eqRuns s p = true →
    syncHolds s p y run.toEqSpan = true → Gives (.acqDone p y run) s fun t => rd t (Reg.EQ.STAT_POL_SWAP p) = b2n y.swap
      ∧ rd t (Reg.EQ.ACQ_US_US p) = min (usSince s (s.eq p).acqStart) 0xFFFFFFFF ∧ Raised t (Reg.EQ.evACQ_DONE p)
      ∧ (eqStays s p = true → rd t (Reg.EQ.STAT_STATE p) = 5 ∧ rd t (Reg.EQ.STAT_ACQ p) = 1
          ∧ (t.eq p).pil = (y.wait % pilotPer s p, y.idx % 32767)
          ∧ (bfUse t p).taps = (eqRunNow s p run.toEqSpan).taps)) ∧
  (∀ (s : State) (p : Fin 16), 2 ≤ rd s (Reg.EQ.STAT_STATE p) → rd s (Reg.EQ.STAT_STATE p) ≤ 4 → eqRuns s p = true →
    Gives (.acqRetry p) s fun t => rd t (Reg.EQ.STAT_STATE p) ≤ 2 ∧ Raised t (Reg.EQ.evACQ_RETRY p)
      ∧ rd t (Reg.EQ.LOCK_CNT_RETRY p) = satAdd 16 (rd s (Reg.EQ.LOCK_CNT_RETRY p)) 1) ∧
  (∀ (s : State) (w : PilotWindow), rd s (Reg.EQ.STAT_STATE w.port) = 5 → eqRuns s w.port = true →
    lockFails s w = true → Gives (.lockLost w) s fun t =>
      rd t (Reg.EQ.STAT_STATE w.port) ≤ 2 ∧ rd t (Reg.EQ.STAT_ACQ w.port) = 0 ∧ Raised t (Reg.EQ.evLOCK_LOST w.port)
        ∧ rd t (Reg.EQ.LOCK_CNT_LOST w.port) = satAdd 16 (rd s (Reg.EQ.LOCK_CNT_LOST w.port)) 1) ∧
  (∀ (s : State) (m p : Fin 16), WritePasses s m (Reg.EQ.page p) 120 4 → rd s (Reg.EQ.STAT_STATE p) = 5 →
    Gives (.reacq m p) s fun t => DoneOk t m
      ∧ (if eqRuns s p = false then rd t (Reg.EQ.STAT_STATE p) = 5
         else rd t (Reg.EQ.STAT_STATE p) ≤ 2 ∧ rd t (Reg.EQ.STAT_ACQ p) = 0))

/-- Swap requests, loads, fades, the guard and snapshots complete (R281, R283, R284, R287, R289, R291 to R295).
What has entered the butterfly since the last command goes through it first (`eqFeed`). The model's choices in it: what
counts as in progress outside TRACK and when SNAP_DST is taken (log entry 37), the arithmetic of the signal path (log
entry 57), and the lags of a guard window (log entry 63). -/
def Obligations.BanksAndGuardComplete : Prop :=
  (∀ (s : State) (m p : Fin 16), WritePasses s m (Reg.EQ.page p) 120 1 → Gives (.bfSwap m p) s fun t => DoneOk t m
    ∧ (if eqRuns s p = false then (t.eq p).bfLoad = (s.eq p).bfLoad ∧ (t.eq p).bfPend = (s.eq p).bfPend
       else if rd s (Reg.EQ.STAT_STATE p) = 5
          ∧ ((s.eq p).bfLoad.isSome ∨ (s.eq p).bfReady = true ∨ (s.eq p).bfFade.isSome) then
         (t.eq p).bfPend = some (bfSrc s p) ∧ rd t (Reg.EQ.STAT_BF_PEND p) = 1
       else (t.eq p).bfLoad = some (bfSrc s p) ∧ rd t (Reg.EQ.STAT_BF_FADE p) = 1)) ∧
  (∀ (s : State) (p : Fin 16) (bads : List (Fin 5)) (a : Nat), (s.eq p).bfLoad = some a → (s.eq p).bfPend = none →
    eqRuns s p = true →
    Gives (.bfLoadDone p bads) s fun t => (t.eq p).bfLoad = none
      ∧ (let r := dmaReadLines 14 (fun i => (bads.getD i 0).val) 17 0 a s
         let bad := imageBad (eqNtaps s p) (packWords32 272 (r.2.flatMap (fun c => c.data)))
         if lineReason r.2 ≠ 0 ∨ bad = true then Raised t (Reg.EQ.evBANK_REFUSED p)
           ∧ rd t (Reg.EQ.BF_STAT_REFUSE p) = (if lineReason r.2 ≠ 0 then lineReason r.2 else 4)
           ∧ (bfStandby t p).empty = true
         else if rd s (Reg.EQ.STAT_STATE p) = 5 then (t.eq p).bfReady = true
         else rdb t (Reg.EQ.STAT_BF_BANK p) = !rdb s (Reg.EQ.STAT_BF_BANK p))) ∧
  (∀ (s : State) (p : Fin 16) (run : EqRun), rd s (Reg.EQ.STAT_STATE p) = 5 → (s.eq p).cdReady = true →
    (s.eq p).cdPlain = false → rd s (Reg.EQ.STAT_GUARD p) = 0 → eqStays s p = true →
      Gives (.cdFadeBegin ⟨p, run⟩) s fun t =>
      (t.eq p).cdFade = some (rd s (Reg.EQ.ANNEAL_CD_BLK p)) ∧ rd t (Reg.EQ.STAT_CD_FADE p) = 1
        ∧ rd t (Reg.EQ.FADE_CD_POS p) = 0 ∧ rd t (Reg.EQ.CD_NOW_PSNM p)
          = unsext 22 (cdInterp (cdUse s p) (cdStandby s p) 1 (rd s (Reg.EQ.ANNEAL_CD_BLK p)))) ∧
  (∀ (s : State) (p : Fin 16) (run : EqRun), rd s (Reg.EQ.STAT_STATE p) = 5 → (s.eq p).bfReady = true →
    eqStays s p = true → Gives (.bfFadeBegin ⟨p, run⟩) s fun t =>
      (t.eq p).bfFade = some (rd s (Reg.EQ.ANNEAL_BF_BLK p)) ∧ (t.eq p).bfReady = false
        ∧ rd t (Reg.EQ.FADE_BF_POS p) = 0) ∧
  (∀ (s : State) (p : Fin 16) (run : EqRun) (n : Nat), (s.eq p).bfFade = some n → rd s (Reg.EQ.FADE_BF_POS p) + 1 < n →
    eqRuns s p = true → Gives (.fadeBlock true ⟨p, run⟩) s fun t =>
      rd t (Reg.EQ.FADE_BF_POS p) = (rd s (Reg.EQ.FADE_BF_POS p) + 1) % 4096) ∧
  (∀ (s : State) (p : Fin 16) (run : EqRun) (n : Nat), (s.eq p).cdFade = some n → rd s (Reg.EQ.FADE_CD_POS p) + 1 < n →
    rd s (Reg.EQ.STAT_STATE p) = 5 → eqStays s p = true → Gives (.fadeBlock false ⟨p, run⟩) s fun t =>
      if rdb s (Reg.EQ.STAT_GUARD p) then rd t (Reg.EQ.FADE_CD_POS p) = rd s (Reg.EQ.FADE_CD_POS p)
      else rd t (Reg.EQ.FADE_CD_POS p) = (rd s (Reg.EQ.FADE_CD_POS p) + 1) % 4096
        ∧ rd t (Reg.EQ.CD_NOW_PSNM p)
          = unsext 22 (cdInterp (cdUse s p) (cdStandby s p) (rd s (Reg.EQ.FADE_CD_POS p) + 2) n)) ∧
  (∀ (s : State) (p : Fin 16) (run : EqRun) (n : Nat), (s.eq p).cdFade = some n → rd s (Reg.EQ.FADE_CD_POS p) + 1 = n →
    rd s (Reg.EQ.STAT_GUARD p) = 0 → rd s (Reg.EQ.STAT_STATE p) = 5 → eqRuns s p = true →
      Gives (.cdFadeDone ⟨p, run⟩) s fun t =>
      (t.eq p).cdFade = none ∧ rdb t (Reg.EQ.STAT_CD_BANK p) = !rdb s (Reg.EQ.STAT_CD_BANK p)
        ∧ Raised t (Reg.EQ.evCD_FADE_DONE p)) ∧
  (∀ (s : State) (p : Fin 16) (run : EqRun) (n : Nat), (s.eq p).bfFade = some n → rd s (Reg.EQ.FADE_BF_POS p) + 1 = n →
    eqRuns s p = true → Gives (.bfFadeDone ⟨p, run⟩) s fun t => (t.eq p).bfFade = none
      ∧ rdb t (Reg.EQ.STAT_BF_BANK p) = !rdb s (Reg.EQ.STAT_BF_BANK p) ∧ Raised t (Reg.EQ.evBF_FADE_DONE p)) ∧
  (∀ (s : State) (p : Fin 16) (run : EqRun), (s.eq p).cdReady = true → (s.eq p).cdPlain = true →
    2 ≤ rd s (Reg.EQ.STAT_STATE p) →
    eqRuns s p = true → Gives (.cdSwapAtBlockBoundary ⟨p, run⟩) s fun t =>
      rdb t (Reg.EQ.STAT_CD_BANK p) = !rdb s (Reg.EQ.STAT_CD_BANK p)) ∧
  (∀ (s : State) (p : Fin 16) (run : EqRun), rd s (Reg.EQ.STAT_STATE p) = 5 → eqRuns s p = true →
    rd s (Reg.EQ.STAT_GUARD p) = 0 → Gives (.guardWindow ⟨p, run⟩) s fun t =>
      let a := eqFeed s p run
      if windowLow a p then Raised t (Reg.EQ.evGUARD_ON p)
        ∧ rd t (Reg.EQ.GUARD_CNT_ENTER p) = satAdd 16 (rd s (Reg.EQ.GUARD_CNT_ENTER p)) 1
        ∧ (eqStays s p = true → rd t (Reg.EQ.STAT_GUARD p) = 1 ∧ (bfUse t p).taps = (s.eq p).winTaps
          ∧ (t.eq p).tim.ppb = (s.eq p).winTim.ppb)
      else rd t (Reg.EQ.STAT_GUARD p) = 0 ∧ (bfUse t p).taps = (eqRunNow s p run.toEqSpan).taps
        ∧ (t.eq p).tim = (a.eq p).tim) ∧
  (∀ (s : State) (p : Fin 16) (run : EqRun), rd s (Reg.EQ.STAT_STATE p) = 5 → eqRuns s p = true →
    rd s (Reg.EQ.STAT_GUARD p) ≠ 0 → Gives (.guardWindow ⟨p, run⟩) s fun t =>
      let a := eqFeed s p run
      rd t (Reg.EQ.GUARD_CNT_WIN p) = satAdd 16 (rd s (Reg.EQ.GUARD_CNT_WIN p)) 1
        ∧ (if windowLow a p then rd t (Reg.EQ.STAT_GUARD p) = rd s (Reg.EQ.STAT_GUARD p) ∧ (t.eq p).goodWin = 0
           else if rd s (Reg.EQ.GUARD_REL p) ≤ (s.eq p).goodWin + 1 then
             rd t (Reg.EQ.STAT_GUARD p) = 0 ∧ Raised t (Reg.EQ.evGUARD_OFF p)
           else rd t (Reg.EQ.STAT_GUARD p) = rd s (Reg.EQ.STAT_GUARD p) ∧ (t.eq p).goodWin = (s.eq p).goodWin + 1)) ∧
  (∀ (s : State) (m p : Fin 16), WritePasses s m (Reg.EQ.page p) 120 2 → Gives (.snap m p) s fun t => DoneOk t m
    ∧ (if eqRuns s p = false then rd t (Reg.EQ.STAT_SNAP_BUSY p) = rd s (Reg.EQ.STAT_SNAP_BUSY p)
       else if rdb s (Reg.EQ.STAT_SNAP_BUSY p) then Raised t (Reg.EQ.evSNAP_FAIL p)
       else rd t (Reg.EQ.STAT_SNAP_BUSY p) = 1)) ∧
  (∀ (s : State) (p : Fin 16) (run : EqRun), rd s (Reg.EQ.STAT_SNAP_BUSY p) ≠ 0 → (s.eq p).snapWait = false →
    eqRuns s p = true → Gives (.snapDone ⟨p, run⟩) s fun t =>
      rd t (Reg.EQ.STAT_SNAP_BUSY p) = 0
        ∧ (if rd t (Reg.EQ.BF_STAT_SNAP_ERR p) = 0 then Raised t (Reg.EQ.evSNAP_DONE p)
           else Raised t (Reg.EQ.evSNAP_FAIL p)))

/-- Measurement windows complete (R251 to R254, R327 to R329, R332, R333). TSTAT_WINDOW_END is stated once device
time has reached the end of the window; a converter whose block runs shows what its samples of the window come to. The
model's choices in it: which window takes what a step of device time meets (log entry 40), a sample's code (log entry
55), and the estimates' arithmetic (log entry 65). -/
def Obligations.StatisticsComplete : Prop :=
  (∀ (s : State) (p : Fin 16) (xi xq yi yq : List Samp) (w : Win), (s.tstat p).win = some w →
    blockRuns s (Reg.TSTAT.page p) = true → 36 * w.fin ≤ s.time.units →
    Gives (.tstatWindowEnd p xi xq yi yq) s fun t =>
      (t.tstat p).ended = (s.tstat p).ended ++ [⟨w, (s.tstat p).back, winFlags s p, [slotSums s (4 * p) w xi,
          slotSums s (4 * p + 1) w xq, slotSums s (4 * p + 2) w yi, slotSums s (4 * p + 3) w yq],
          iqSums s (4 * p) w xi xq, iqSums s (4 * p + 2) w yi yq, (s.tstat p).dark, (s.tstat p).est⟩]
        ∧ (blockRuns s (Reg.CNV.page (4 * p)) = true →
            let x := laneStats s (4 * p) w (free s).1 xi
            rd t (Reg.CNV.NSAMP_LO_COUNT (4 * p)) = x.nsamp % 2 ^ 32
              ∧ rd t (Reg.CNV.SUM_LO_SUM (4 * p)) = unsext 64 (clampI (-(2 ^ 63)) (2 ^ 63 - 1) x.sum) % 2 ^ 32
              ∧ rd t (Reg.CNV.OR_LO_COUNT (4 * p)) = x.beyond % 2 ^ 32
              ∧ rd t (Reg.CNV.WIN_SEQ_SEQ (4 * p)) = (rd s (Reg.CNV.WIN_SEQ_SEQ (4 * p)) + 1
                + (s.cnv (4 * p)).winOut.length) % 2 ^ 32
              ∧ Raised t (Reg.CNV.evWIN_DONE (4 * p)))) ∧
  (∀ (s : State) (p : Fin 16) (est : Estimates) (d : Ended) (rest : List Ended), (s.tstat p).ended = d :: rest →
    blockRuns s (Reg.TSTAT.page p) = true → Gives (.tstatWinDone p est) s fun t => (t.tstat p).ended = rest
      ∧ rd t (Reg.TSTAT.WIN_SEQ_SEQ p) = (rd s (Reg.TSTAT.WIN_SEQ_SEQ p) + 1) % 2 ^ 32
      ∧ rd t (Reg.TSTAT.LAST_START_LO_NS p) = d.win.start % 2 ^ 32
      ∧ rd t (Reg.TSTAT.LAST_END_LO_NS p) = d.win.fin % 2 ^ 32
      ∧ rd t (Reg.TSTAT.EST_VALID_VALID p) = estValid d ∧ Raised t (Reg.TSTAT.evWIN_DONE p))

/-! ### Precision monitor and filter chain -/

/-- The sequencer, its table and its triggers complete (R352 to R356, R359, R361 to R365, R367, R368). The model's
choices
in it: an entry to which two rules apply, and an injected one that cannot run and gives its result at once (log entry
41); the wait that TRIG_TIMEOUT gives up (log entry 59). -/
def Obligations.SequencerCompletes : Prop :=
  (∀ s : State, blockRuns s Reg.SEQ.page = true → rd s Reg.SEQ.STAT_RUN ≠ 0 → s.seq.cur = none →
    Gives .seqEntryCurrent s fun t =>
      let w := Work.fresh (seqtWord s (2 * s.seq.pos)) (seqtWord s (2 * s.seq.pos + 1)) s.seq.pos s.time.tick
      (bit w.lo 30 = false → w.bad false = true → Raised t Reg.SEQ.evENTRY_BAD
        ∧ rd t Reg.SEQ.ERR_CNT_BAD = satAdd 8 (rd s Reg.SEQ.ERR_CNT_BAD) 1) ∧
      (bit w.lo 30 = false → w.bad false = false → pairDead s w.pcv = false →
        let at0 := if w.trig = 0 || eventNow s w.trig then some (w.since + w.delay) else none
        t.seq.cur = some { w with trigAt := at0 }
          ∧ rd t Reg.SEQ.STAT_WAIT_TRIG = b2n at0.isNone ∧ rd t Reg.SEQ.STAT_CUR = s.seq.pos % 65536)) ∧
  (∀ (s : State) (i : Fin 16), blockRuns s Reg.TMR.page = true → bit (rd s Reg.TMR.CTL_EN) i = true →
    Gives (.timerEvent i) s fun t => vget t.seq.timerAt none i
      = some (seriesNext s.time.tick (vget s.seq.timerAt none i) (rd s (Reg.TMR.PHASE_CYC i))
        (rd s (Reg.TMR.PER_CYC i)))) ∧
  (∀ (s : State) (o : Fin 64), blockRuns s Reg.PWM.page = true → rd s (Reg.PWM.CFG_PERIOD o) = (s.pwm o).per →
    rd s (Reg.PWM.CFG_PHASE o) = (s.pwm o).phase → Gives (.pwmPeriodStart o) s fun t =>
      (t.pwm o).on = ((s.pwm o).carry + rd t (Reg.PWM.DUTY_NOW_NOW o) * (s.pwm o).per) / 65536
        ∧ (t.pwm o).carry = ((s.pwm o).carry + rd t (Reg.PWM.DUTY_NOW_NOW o) * (s.pwm o).per) % 65536
        ∧ (t.pwm o).high = decide (0 < (t.pwm o).on)) ∧
  (∀ (s : State) (o : Fin 64) (e : Nat), (s.pwm o).start = some e → blockRuns s Reg.PWM.page = true →
    (s.pwm o).high = true → (s.pwm o).on < (s.pwm o).per → Gives (.pwmFallTrigger o) s fun t =>
      (t.pwm o).high = false) ∧
  (∀ (s : State) (w : Work), blockRuns s Reg.SEQ.page = true → s.seq.cur = some w →
    Gives (.trigTimeout none) s fun t => t.seq.cur = none ∧ Raised t Reg.SEQ.evTRIG_MISS
      ∧ rd t Reg.SEQ.ERR_CNT_MISS = satAdd 8 (rd s Reg.SEQ.ERR_CNT_MISS) 1) ∧
  (∀ (s : State) (c : Fin 24) (w : Work), blockRuns s Reg.SEQ.page = true → (s.pcv c).work = some w →
    w.taken = 0 ∨ w.each = true → (s.pcv c).conv = none → Gives (.trigTimeout (some c)) s fun t =>
      Raised t Reg.SEQ.evTRIG_MISS
      ∧ rd t Reg.SEQ.ERR_CNT_MISS = satAdd 8 (rd s Reg.SEQ.ERR_CNT_MISS) 1) ∧
  (∀ (s : State) (m : Fin 16) (i : BitVec 16) (w : Word32), fabricQuiet s = true →
    masterIssues s (mkReq m (0x1800000 + 8 * i.toNat) true false 4 [] false 0) = true →
    aclGrants s 4 m (0x1800000 + 8 * i.toNat) 1 = true → Gives (.seqtLoWrite m i w) s fun t => DoneOk t m
      ∧ t.mems.seqt = s.mems.seqt
      ∧ t.seq.latches.find? (fun l => l.1 == m.val) = some (m.val, i.toNat, w.toNat)) ∧
  (∀ (s : State) (m : Fin 16) (i : BitVec 16) (w : Word32), fabricQuiet s = true →
    masterIssues s (mkReq m (0x1800000 + 8 * i.toNat + 4) true false 4 [] false 0) = true →
    aclGrants s 4 m (0x1800000 + 8 * i.toNat + 4) 1 = true → Gives (.seqtHiWrite m i w) s fun t => DoneOk t m
      ∧ seqtWord t (2 * i.toNat + 1) = w.toNat
      ∧ seqtWord t (2 * i.toNat) = (match s.seq.latches.find? (fun l => l.1 == m.val && l.2.1 == i.toNat) with
          | some l => l.2.2 % 2 ^ 32
          | none => seqtWord s (2 * i.toNat))) ∧
  (∀ (s : State) (m : Fin 16), WritePasses s m Reg.SEQ.page 80 1 → Gives (.injGo m) s fun t => DoneOk t m
    ∧ (let w := Work.fresh (rd s Reg.SEQ.INJ_LO_ENTRY) (rd s Reg.SEQ.INJ_HI_ENTRY) 0 s.time.tick
       if rdb s Reg.SEQ.STAT_INJ_BUSY then Raised t Reg.SEQ.evINJ_REFUSED
         ∧ rd t Reg.SEQ.ERR_CNT_INJREF = satAdd 4 (rd s Reg.SEQ.ERR_CNT_INJREF) 1
       else if w.bad true ∨ pairDead s w.pcv = true then rd t Reg.SEQ.STAT_INJ_BUSY = 0 ∧ t.seq.inj = none
         ∧ rd t Reg.SEQ.STAT_INJ_END = (if w.bad true then 3 else 2) ∧ Raised t Reg.SEQ.evINJ_DONE
       else rd t Reg.SEQ.STAT_INJ_BUSY = 1 ∧ t.seq.inj = some w))

/-- Samples, conversions, calibrations and referees complete (R346, R347, R355 to R357, R367 to R377). The model's
choices
in it: a conversion's code computed from the voltage that its command brings, with VFS free (log entry 59); the
referee's conversions of both converters as one command, and the end of an injected conversion (log entry 41); a
conversion of a stopped sequencer waits (log entry 63). -/
def Obligations.ConversionsComplete : Prop :=
  (∀ (s : State) (c : Fin 24) (w : Work), blockRuns s (Reg.PCV.page c) = true →
    blockRuns s Reg.SEQ.page = true → pst s c = 2 → injWaits s c = none →
    (s.pcv c).work = some w → w.trigAt = some s.time.tick → canStart s c .entry false w = true →
      Gives (.sampleStart c) s fun t =>
      (t.pcv c).conv = some ⟨.entry, s.time.tick, nowNs s, rd s Reg.TIME.STAT_TRUST⟩) ∧
  (∀ (s : State) (c : Fin 24) (w : Work), blockRuns s (Reg.PCV.page c) = true →
    blockRuns s Reg.SEQ.page = true → pst s c = 2 → injWaits s c = some w →
    canStart s c .inj false w = true → Gives (.sampleStart c) s fun t =>
      (t.pcv c).conv = some ⟨.inj, s.time.tick, nowNs s, rd s Reg.TIME.STAT_TRUST⟩) ∧
  (∀ (s : State) (c : Fin 24) (w : Work), blockRuns s (Reg.PCV.page c) = true →
    blockRuns s Reg.SEQ.page = true → pst s c = 2 → injWaits s c = none →
    (s.pcv c).work = none → s.seq.cur = some w → serve s w.pcv = some c.val → s.seq.referee.contains (c / 2) = false →
    calReady s c = false → w.trigAt = some s.time.tick → canStart s c .entry true w = true →
      Gives (.sampleStart c) s fun t =>
      (t.pcv c).work.isSome = true
        ∧ (t.pcv c).conv = some ⟨.entry, s.time.tick, nowNs s, rd s Reg.TIME.STAT_TRUST⟩) ∧
  (∀ (s : State) (c : Fin 24) (v partner : Int) (k : Conv) (w : Work), blockRuns s (Reg.PCV.page c) = true →
    blockRuns s Reg.SEQ.page = true → (s.pcv c).conv = some k → k.kind = .entry → (s.pcv c).work = some w → w.taken
      + 1 < 2 ^ (w.avg + 1) →
    Gives (.conversionBoundary c v partner) s fun t => (t.pcv c).conv = none
      ∧ (t.pcv c).work.map (fun x => (x.taken, x.sum)) = some (w.taken + 1, w.sum + (codeOf (reading c w.gain v)).1)
      ∧ rd t (Reg.PCV.CONV_CNT_COUNT c) = (rd s (Reg.PCV.CONV_CNT_COUNT c) + 1) % 2 ^ 32) ∧
  (∀ (s : State) (c : Fin 24) (v partner : Int) (k : Conv) (w : Work), blockRuns s (Reg.PCV.page c) = true →
    blockRuns s Reg.SEQ.page = true → (s.pcv c).conv = some k → k.kind = .entry → (s.pcv c).work = some w →
      2 ^ (w.avg + 1) ≤ w.taken + 1 →
    w.clsT = false → inputT s w.input = false → w.dest < 16 → (∀ y ∈ s.ringQ, y.tick < k.tick + 100) →
    Gives (.conversionBoundary c v partner) s fun t => (t.pcv c).conv = none
      ∧ t.ringQ.dropLast = s.ringQ
      ∧ t.ringQ.getLast?.map (fun x => (x.result, x.orf, x.ns, x.dest))
          = some ((w.sum + (codeOf (reading c w.gain v)).1) / 2 ^ w.shift % 2 ^ 26,
            w.orf || (codeOf (reading c w.gain v)).2, k.stamp, w.dest)) ∧
  (∀ (s : State) (c : Fin 24) (v partner : Int) (k : Conv) (w : Work), blockRuns s (Reg.PCV.page c) = true →
    blockRuns s Reg.SEQ.page = true → (s.pcv c).conv = some k → k.kind = .inj → s.seq.inj = some w →
      2 ^ (w.avg + 1) ≤ w.taken + 1 →
    Gives (.conversionBoundary c v partner) s fun t => t.seq.inj = none ∧ rd t Reg.SEQ.STAT_INJ_BUSY = 0
      ∧ rd t Reg.SEQ.STAT_INJ_END = 1 ∧ Raised t Reg.SEQ.evINJ_DONE) ∧
  (∀ (s : State) (m : Fin 16) (c : Fin 24), WritePasses s m (Reg.PCV.page c) 72 1 → pst s c = 1 ∨ pst s c = 2 →
    Gives (.pcvCal m c) s fun t => DoneOk t m ∧ rd t (Reg.PCV.STAT_CAL_PEND c) = 1) ∧
  (∀ (s : State) (c : Fin 24), rd s (Reg.PCV.CTL_CAL_PER_S c) ≠ 0 → blockRuns s (Reg.PCV.page c) = true →
    pst s c = 1 ∨ pst s c = 2 → Gives (.pcvCalPeriodic c) s fun t => rd t (Reg.PCV.STAT_CAL_PEND c) = 1) ∧
  (∀ (s : State) (c : Fin 24), blockRuns s (Reg.PCV.page c) = true → calReady s c = true →
    Gives (.pcvCalStart c) s fun t => pst t c = 1 ∧ rd t (Reg.PCV.STAT_CAL_PEND c) = 0) ∧
  (∀ (s : State) (c : Fin 24) (found : List (Int × Int)), pst s c = 1 → blockRuns s (Reg.PCV.page c) = true →
    Gives (.pcvCalEnd c found) s fun t => rd t (Reg.PCV.CAL_RES_OFS c) = unsext 16 (found.headD (0, 0)).1
      ∧ rd t (Reg.PCV.CAL_RES_GAIN c) = unsext 16 (found.headD (0, 0)).2
      ∧ (if calBreaks found then pst t c = 3 ∧ rd t (Reg.PCV.STAT_FAIL_CAUSE c) = 1 ∧ Raised t (Reg.PCV.evPCV_FAIL c)
         else pst t c = 2 ∧ Raised t (Reg.PCV.evCAL_DONE c)
           ∧ ((s.pcv c).first = true → Raised t (Reg.PCV.evREADY c)))) ∧
  (∀ (s : State) (c : Fin 24) (k : Conv), (s.pcv c).conv = some k → blockRuns s (Reg.PCV.page c) = true →
    Gives (.convTimeout c) s fun t => pst t c = 3 ∧ rd t (Reg.PCV.STAT_FAIL_CAUSE c) = 2
      ∧ Raised t (Reg.PCV.evPCV_FAIL c)) ∧
  (∀ (s : State) (k : Fin 12) (ref0 gnd0 ref1 gnd1 : List Int), s.seq.referee.contains k.val = true →
    blockRuns s (Reg.PCV.page (2 * k)) = true → blockRuns s (Reg.PCV.page (2 * k + 1)) = true → pst s (2 * k) = 2 →
      pst s (2 * k + 1) = 2 → Gives (.refereeDone k ref0 gnd0 ref1 gnd1) s fun t =>
      let a := disagrees s (2 * k) (refereeSum (2 * k) ref0) (refereeSum (2 * k) gnd0)
      let b := disagrees s (2 * k + 1) (refereeSum (2 * k + 1) ref1) (refereeSum (2 * k + 1) gnd1)
      t.seq.referee.contains k.val = false
        ∧ (∀ c : Fin 24, c.val / 2 = k → rd t (Reg.PCV.CONV_CNT_COUNT c)
          = (rd s (Reg.PCV.CONV_CNT_COUNT c) + 32) % 2 ^ 32)
        ∧ (if a ≠ b then (pst t (if a then 2 * k else 2 * k + 1) = 3
             ∧ rd t (Reg.PCV.STAT_FAIL_CAUSE (if a then 2 * k else 2 * k + 1)) = 3)
           else Raised t (Reg.PCV.evCHK_UNRESOLVED (2 * k)) ∧ Raised t (Reg.PCV.evCHK_UNRESOLVED (2 * k + 1))))

/-- Rings and accumulators complete (R379 to R381, R384 to R386). ACCU_WINDOW_END is stated once device time has
reached the end of the window. The model's choices in it: a
record whose write fails (log entry 14), and the flags of a window over a step of device time (log entry 40). -/
def Obligations.RingsAndAccumulatorsComplete : Prop :=
  (∀ (s : State) (bads : Fin 5) (x : Res) (rest : List Res), s.ringQ = x :: rest → blockRuns s Reg.RING.page = true →
    x.dest < 16 → rd s (Reg.RING.RCTL_EN x.dest) ≠ 0 → rd s (Reg.RING.RSTAT_BAD x.dest) = 0 →
    Gives (.ringRecordWrite bads) s fun t => t.ringQ = rest
      ∧ (if rd s (Reg.RING.RCTL_MODE x.dest) ≠ 0
            ∧ (rd s (Reg.RING.WR_COUNT x.dest) + 2 ^ 32 - rd s (Reg.RING.RD_COUNT x.dest)) % 2 ^ 32
              = ringSize s x.dest then
           rd t (Reg.RING.WR_COUNT x.dest) = rd s (Reg.RING.WR_COUNT x.dest) ∧ rd t (Reg.RING.RSTAT_FULL x.dest) = 1
             ∧ rd t (Reg.RING.DROP_COUNT x.dest) = satAdd 32 (rd s (Reg.RING.DROP_COUNT x.dest)) 1
             ∧ Raised t (Reg.RING.evRING_FULL x.dest)
         else rd t (Reg.RING.WR_COUNT x.dest) = (rd s (Reg.RING.WR_COUNT x.dest) + 1) % 2 ^ 32
           ∧ (if (dmaWrite { s with ringQ := rest } 12 (ringBase s x.dest
                  + 16 * (rd s (Reg.RING.WR_COUNT x.dest) % ringSize s x.dest)) (wordsLE (ringRecord x))
                    bads).2.status.isErr
              then Raised t (Reg.RING.evRING_ERR x.dest) ∧ rd t (Reg.RING.RSTAT_FULL x.dest)
                = rd s (Reg.RING.RSTAT_FULL x.dest)
              else rd t (Reg.RING.RSTAT_FULL x.dest) = 0))) ∧
  (∀ (s : State) (m r : Fin 16) (v : Word32), WritePasses s m Reg.RING.page (272 + 32 * r) v.toNat →
    Gives (.ringRdWrite m r v) s fun t => DoneOk t m ∧ rd t (Reg.RING.RD_COUNT r)
      = (if ringSize s r < (rd s (Reg.RING.WR_COUNT r) + 2 ^ 32 - v.toNat) % 2 ^ 32
        then rd s (Reg.RING.WR_COUNT r) % 2 ^ 32
         else v.toNat)) ∧
  (∀ (s : State) (w : Win), s.accu.win = some w → blockRuns s Reg.ACCU.page = true → 36 * w.fin ≤ s.time.units →
    Gives .accuWindowEnd s fun t => t.accu.recs = Vector.replicate 64 AccuRec.zero
      ∧ t.accu.ended = s.accu.ended ++ [(w, b2n s.accu.stepped + 2 * rd s Reg.TIME.STAT_TRUST, s.accu.recs)]) ∧
  (∀ (s : State) (w : Win) (fl : Nat) (v : Vector AccuRec 64) (rest : List (Win × Nat × Vector AccuRec 64)),
    s.accu.ended = (w, fl, v) :: rest →
    blockRuns s Reg.ACCU.page = true →
    Gives .accuWinDone s fun t => t.accu.ended = rest
      ∧ rd t Reg.ACCU.WIN_SEQ_SEQ = (rd s Reg.ACCU.WIN_SEQ_SEQ + 1) % 2 ^ 32 ∧ Raised t Reg.ACCU.evWIN_DONE
      ∧ rd t Reg.ACCU.LAST_END_LO_NS = w.fin % 2 ^ 32
      ∧ ∀ a : Fin 64, rd t (Reg.ACCU.N_COUNT a) = satN 32 (vget v AccuRec.zero a).n
          ∧ rd t (Reg.ACCU.SUM_LO_SUM a) = (if (vget v AccuRec.zero a).n < 16 then 0
              else min (vget v AccuRec.zero a).sum (2 ^ 64 - 1) % 2 ^ 32))

/-- A filter channel's inputs, banks, output ring and parisons complete (R402 to R406, R409, R411 to R414, R417 to
R419, R426, R427). FILT_INPUT gives its final output as stated with no anneal in progress. The model's choices in it:
the
arithmetic of a final value beyond 64 fractional bits (log entry 12), and the delay's TRUST, the triggers of one FAB
cycle and OUT_RD with MODE 0 (log entry 43). -/
def Obligations.FilterCompletes : Prop :=
  (∀ (s : State) (n : Fin 48) (bads : Fin 5) (r : Res) (rest : List Res), (s.filt n).inQ = r :: rest →
    blockRuns s (Reg.FILT.page n) = true → rd s (Reg.FILT.STAT_STATE n) ≠ 0 → (s.filt n).anneal = .none →
    Gives (.filtInput n bads) s fun t =>
      let line := (((r.result : Int) - rd s (Reg.FILT.IN_OFS_OFS n), (r.ns, r.trust)) :: (s.filt n).line).take 4097
      let y := delayOut s (rd s (Reg.FILT.DELAY_INT n)) (rd s (Reg.FILT.DELAY_FRAC n)) line
      let c := runChain (fbUse s n) (decOf s n) (s.filt n).cnt (List.range (nStages s n)) (s.filt n).hist y.1
      (t.filt n).inQ = rest ∧ (t.filt n).line = line ∧ (t.filt n).prevTs = some r.ns ∧ (t.filt n).hist = c.1
        ∧ (match c.2.2.1 with
           | none => rd t (Reg.FILT.LAST_VAL_VALUE n) = rd s (Reg.FILT.LAST_VAL_VALUE n)
           | some v => rd t (Reg.FILT.LAST_VAL_VALUE n) = unsext 32 v
               ∧ rd t (Reg.FILT.LAST_TS_LO_NS n) = y.2.1 % 2 ^ 32
               ∧ (t.filt n).outQ.length = (s.filt n).outQ.length + b2n (rdb s (Reg.FILT.OUT_CTL_EN n)))) ∧
  (∀ (s : State) (m : Fin 16) (n : Fin 48), WritePasses s m (Reg.FILT.page n) 156 1 →
    Gives (.filtBankSwap m n) s fun t => DoneOk t m
      ∧ (if rdb s (Reg.FILT.STAT_FADE n) then (t.filt n).pend = some (bankSrc s n) ∧ rd t (Reg.FILT.STAT_PEND n) = 1
         else (t.filt n).load = some (bankSrc s n) ∧ rd t (Reg.FILT.STAT_FADE n) = 1)) ∧
  (∀ (s : State) (n : Fin 48) (bads : List (Fin 5)) (a : Nat), (s.filt n).load = some a → (s.filt n).pend = none →
    blockRuns s (Reg.FILT.page n) = true → dmaLinesHeld s 13 a 17 = false → Gives (.filtLoadDone n bads) s fun t =>
      (t.filt n).load = none
      ∧ (let r := dmaReadLines 13 (fun i => (bads.getD i 0).val) 17 0 a s
         let bad := fImageBad (nStages s n) (packWords32 272 (r.2.flatMap (fun c => c.data)))
         if lineReason r.2 ≠ 0 ∨ bad = true then Raised t (Reg.FILT.evBANK_REFUSED n)
           ∧ rd t (Reg.FILT.STAT_REFUSE n) = (if lineReason r.2 ≠ 0 then lineReason r.2 else 4)
           ∧ (fbStandby t n).empty = true
         else if rd s (Reg.FILT.STAT_STATE n) = 2 then (t.filt n).anneal = .prime []
         else rdb t (Reg.FILT.STAT_BANK n) = !rdb s (Reg.FILT.STAT_BANK n))) ∧
  (∀ (s : State) (m : Fin 16) (n : Fin 48), WritePasses s m (Reg.FILT.page n) 156 4 →
    Gives (.filtRestart m n) s fun t => DoneOk t m ∧ rd t (Reg.FILT.STAT_STATE n) = 1 ∧ (t.filt n).line = []
      ∧ (t.filt n).hist = [] ∧ (t.filt n).par = Paris.off ∧ rd t (Reg.FILT.STAT_TONE_PRESENT n) = 0) ∧
  (∀ (s : State) (m : Fin 16) (n : Fin 48), WritePasses s m (Reg.FILT.page n) 156 2 → (s.filt n).par.state ≤ 2 →
    (s.filt n).trigAt.map (·.1) ≠ some s.time.cycle → Gives (.parTrig m n) s fun t => DoneOk t m
      ∧ ((s.filt n).par.state = 0 → Raised t (Reg.FILT.evPAR_SKIP n)
          ∧ rd t (Reg.FILT.CNT_PAR_SKIP n) = satAdd 8 (rd s (Reg.FILT.CNT_PAR_SKIP n)) 1)
      ∧ (rd s (Reg.FILT.STAT_PAR_BAD n) ≠ 0 → Raised t (Reg.FILT.evPAR_ERR n)
          ∧ rd t (Reg.FILT.CNT_PAR_SKIP n) = satAdd 8 (rd s (Reg.FILT.CNT_PAR_SKIP n)) 1)
      ∧ ((s.filt n).par.state = 1 → rd s (Reg.FILT.STAT_PAR_BAD n) = 0 → rd s (Reg.FILT.PAR_POST_POST n) ≠ 0 →
        (t.filt n).par.state = 2
          ∧ (t.filt n).par.trigM = (s.filt n).par.m ∧ rd t (Reg.FILT.STAT_PAR_STATE n) = 2)
      ∧ ((s.filt n).par.state = 2 → rd s (Reg.FILT.STAT_PAR_BAD n) = 0 → rd t (Reg.FILT.CNT_PAR_IGN n)
        = satAdd 8 (rd s (Reg.FILT.CNT_PAR_IGN n)) 1)) ∧
  (∀ (s : State) (n : Fin 48) (bads : Fin 5) (rcd : List Nat) (rest : List (List Nat)), (s.filt n).outQ = rcd :: rest →
    rd s (Reg.FILT.STAT_OUT_BAD n) = 0 → blockRuns s (Reg.FILT.page n) = true →
    Gives (.outRecordWrite n bads) s fun t => (t.filt n).outQ = rest
      ∧ (if rd s (Reg.FILT.OUT_CTL_MODE n) ≠ 0
            ∧ (rd s (Reg.FILT.OUT_WR_COUNT n) + 2 ^ 32 - rd s (Reg.FILT.OUT_RD_COUNT n)) % 2 ^ 32 = outSize s n then
           rd t (Reg.FILT.OUT_WR_COUNT n) = rd s (Reg.FILT.OUT_WR_COUNT n) ∧ Raised t (Reg.FILT.evOUT_FULL n)
             ∧ rd t (Reg.FILT.OUT_DROP_COUNT n) = satAdd 32 (rd s (Reg.FILT.OUT_DROP_COUNT n)) 1
         else rd t (Reg.FILT.OUT_WR_COUNT n) = (rd s (Reg.FILT.OUT_WR_COUNT n) + 1) % 2 ^ 32)) ∧
  (∀ (s : State) (m : Fin 16) (n : Fin 48) (v : Word32), WritePasses s m (Reg.FILT.page n) 200 v.toNat →
    Gives (.outRdWrite m n v) s fun t => DoneOk t m ∧ rd t (Reg.FILT.OUT_RD_COUNT n)
      = (if rd s (Reg.FILT.OUT_CTL_MODE n) ≠ 0
            ∧ outSize s n < (rd s (Reg.FILT.OUT_WR_COUNT n) + 2 ^ 32 - v.toNat) % 2 ^ 32 then
           rd s (Reg.FILT.OUT_WR_COUNT n) % 2 ^ 32 else v.toNat)) ∧
  (∀ (s : State) (m : Fin 16) (n : Fin 48) (v : Word32), WritePasses s m (Reg.FILT.page n) 236 v.toNat →
    Gives (.parRdWrite m n v) s fun t => DoneOk t m ∧ rd t (Reg.FILT.PAR_RD_COUNT n)
      = (if parSlots s n < (rd s (Reg.FILT.PAR_WR_COUNT n) + 2 ^ 32 - v.toNat) % 2 ^ 32 then
           rd s (Reg.FILT.PAR_WR_COUNT n) % 2 ^ 32 else v.toNat))

/-! ### Soft output, herds and Bribin Link -/

/-- Streams and marks complete (R299, R309, R310, R314 to R320, R324). The model's choices in it: queued messages are
those that have not begun, and the symbol periods of the discarded ones do not count (log entry 38); the equaliser that
a run of symbols goes through (log entry 57). -/
def Obligations.SoftOutputCompletes : Prop :=
  (∀ (s : State) (r : PortRun), rd s (Reg.SOFT.STAT_STATE r.port) = 1 → rd s (Reg.SOFT.STAT_SQ_IN r.port) = 0 →
    rd s (Reg.EQ.STAT_STATE r.port) = 5 → softRuns s r.port = true → blockRuns s (Reg.EQ.page r.port) = true →
    runSyms s r ≠ [] → (∀ y ∈ runSyms s r, y.sq = false) → Gives (.streamStart r) s fun t =>
      let p := r.port
      if needOf (rd s (Reg.CNV.RATE_NOW_RS_MBD (4 * p))) (dataLen (nextFmt s p) (nextMod s p) (nextPer s p))
          ≤ capOf (rd s (Reg.HERD.STAT_L_ACTIVE p)) then
        rd t (Reg.SOFT.STAT_STATE p) = 2 ∧ rd t (Reg.SOFT.STAT_EPOCH p) = (rd s (Reg.SOFT.STAT_EPOCH p) + 1) % 4096
          ∧ symcnt t p = 0 ∧ rd t (Reg.SOFT.STAT_OVER_BUDGET p) = 0 ∧ (t.soft p).syms = runSyms s r
          ∧ Raised t (Reg.SOFT.evSTREAM_START p)
      else rd t (Reg.SOFT.STAT_STATE p) = 1 ∧ rd t (Reg.SOFT.STAT_OVER_BUDGET p) = 1
        ∧ Raised t (Reg.SOFT.evOVER_BUDGET p)) ∧
  (∀ (s : State) (r : PortRun), rd s (Reg.SOFT.STAT_STATE r.port) = 2 → softRuns s r.port = true →
    (nextSyms (fedBy s r) r.port).length = 512 → Gives (.streamDataMessage r) s fun t =>
      let p := r.port
      let l := nextSyms (fedBy s r) p
      rd t (Reg.SOFT.MSG_CNT_COUNT p) = (rd s (Reg.SOFT.MSG_CNT_COUNT p) + 1) % 2 ^ 32
        ∧ ((s.soft p).fmtEnd = false → symcnt t p = (symcnt s p + 512) % 2 ^ 64)
        ∧ (t.soft p).queue = (s.soft p).queue
            ++ (if herdCarries s p then [dataWords (fedBy s r) p (symVals l) (l.any (·.hole))] else [])
        ∧ (t.soft p).syms = ((fedBy s r).soft p).syms.drop 512) ∧
  (∀ (s : State) (p : Fin 16), rd s (Reg.SOFT.STAT_STATE p) = 1 → softRuns s p = true →
    Gives (.markMessage p) s fun t =>
    rd t (Reg.SOFT.MARK_CNT_COUNT p) = (rd s (Reg.SOFT.MARK_CNT_COUNT p) + 1) % 2 ^ 32
      ∧ (if herdCarries s p then
           t.emitted.length = s.emitted.length + b2n s.bus.accepting * (1 + b2n ((s.line p).idleDue 3))
         else rd t (Reg.SOFT.DROP_CNT_COUNT p) = satAdd 32 (rd s (Reg.SOFT.DROP_CNT_COUNT p)) 1)) ∧
  (∀ (s : State) (p : Fin 16), rd s (Reg.SOFT.STAT_STATE p) ≠ 0 → rd s (Reg.PORT.SQ_NOW_CAUSE p) ≠ 0 →
    softRuns s p = true → Gives (.squelchRequest p) s fun t => rd t (Reg.SOFT.STAT_SQ_IN p) = 1 ∧ (t.soft p).queue = []
      ∧ symcnt t p = (symcnt s p + 2 ^ 64 - 512 * min (s.soft p).queue.length (s.soft p).index) % 2 ^ 64
      ∧ rd t (Reg.SOFT.MARK_CNT_COUNT p) = (rd s (Reg.SOFT.MARK_CNT_COUNT p) + 1) % 2 ^ 32
      ∧ (rd s (Reg.SOFT.STAT_STATE p) = 2 → rd t (Reg.SOFT.STAT_STATE p) = 1 ∧ Raised t (Reg.SOFT.evSTREAM_END p))) ∧
  (∀ (s : State) (p : Fin 16) (up : Nat), rd s (Reg.SOFT.STAT_STATE p) ≠ 0 → rd s (Reg.EQ.STAT_STATE p) ≠ 0 →
    softRuns s p = true → Gives (.eqWordWithNolock ⟨p, up⟩) s fun t =>
    rd t (Reg.SOFT.STAT_NOLOCK_IN p) = b2n (rd s (Reg.EQ.STAT_STATE p) != 5)
      ∧ (rd s (Reg.SOFT.STAT_STATE p) = 2 → sqAt s p up = true ∨ rd s (Reg.EQ.STAT_STATE p) ≠ 5 →
        rd t (Reg.SOFT.STAT_STATE p) = 1 ∧ Raised t (Reg.SOFT.evSTREAM_END p)
          ∧ rd t (Reg.SOFT.MARK_CNT_COUNT p) = (rd s (Reg.SOFT.MARK_CNT_COUNT p) + 1) % 2 ^ 32))

/-- A herd trains, aligns, comes up and goes back to RX_ACQ (R439 to R451). TRAIN_REQUEST is stated in TX_TRAIN for a
lane's first request, and for a lane in service. The model's choices in it: a retry counted at every return to RX_ACQ
(log entry 39), and the words that lanes send (log entries 39 and 61). -/
def Obligations.TrainingCompletes : Prop :=
  (∀ (s : State) (h : Fin 17) (j : Fin 4), herdRuns s h = true → rd s Reg.CLK.ROOT_STAT_STATE ≠ 3 →
    j.val < nRx h → herdState s h ≠ 0 → rxRole s h j ≠ 4 → rxRole s h j ≠ 0 → Gives (.rxBlockLock h j) s fun t =>
      rd t (Reg.HERD.LANE_RX_SIG h j) = 1 ∧ rd t (Reg.HERD.LANE_RX_CDR h j) = 1
      ∧ rd t (Reg.HERD.LANE_RX_BLK h j) = 1) ∧
  (∀ (s : State) (h : Fin 17) (j : Fin 4) (hdr w : Word64) (gap : Bool),
    trainHeard s h j gap 0 hdr.toNat w.toNat = true →
    bit w.toNat 5 = false → bits w.toNat 0 5 < nTx h → herdState s h = 2 → txRole s h (bits w.toNat 0 5) = 1 →
    bit w.toNat 19 = false → vget (s.herd h).resp none (bits w.toNat 0 5) = none →
      Gives (.trainRequest h j hdr w gap) s fun t =>
      rd t (Reg.HERD.LANE_TX_SEQ h (bits w.toNat 0 5)) = bits w.toNat 24 8
        ∧ rd t (Reg.HERD.LANE_COEF_TAPS h (bits w.toNat 0 5))
            = (tapCmds (if bits w.toNat 16 2 = 1 then 0 else if bits w.toNat 16 2 = 2 then preset2 s h
                else rd s (Reg.HERD.LANE_COEF_TAPS h (bits w.toNat 0 5))) w.toNat).1 % 2 ^ 32) ∧
  (∀ (s : State) (h : Fin 17) (j : Fin 4) (hdr w : Word64) (gap : Bool),
    trainHeard s h j gap 0 hdr.toNat w.toNat = true →
    bit w.toNat 5 = false → bits w.toNat 0 5 < nTx h → herdState s h = 4 →
    txRole s h (bits w.toNat 0 5) = 2 ∨ txRole s h (bits w.toNat 0 5) = 3 → bit w.toNat 19 = false →
    Gives (.trainRequest h j hdr w gap) s fun t => Raised t (Reg.HERD.evREQ_REFUSED h)
      ∧ rd t (Reg.HERD.CNT_REQ_REF h) = satAdd 8 (rd s (Reg.HERD.CNT_REQ_REF h)) 1) ∧
  (∀ (s : State) (h : Fin 17) (j : Fin 4) (hdr w : Word64) (gap : Bool),
    trainHeard s h j gap 2 hdr.toNat w.toNat = true →
    herdState s h = 4 → bits w.toNat 8 3 ≠ 4 → Gives (.trainState h j hdr w gap) s fun t => herdState t h = 1
      ∧ Raised t (Reg.HERD.evHERD_DOWN h)) ∧
  (∀ (s : State) (h : Fin 17) (j : Fin 4) (hdr w : Word64) (gap : Bool),
    trainHeard s h j gap 2 hdr.toNat w.toNat = true →
    herdState s h = 3 → bit w.toNat 11 = true → rxRole s h j = 2 → (s.herd h).deskewed = true →
    Gives (.trainState h j hdr w gap) s fun t => herdState t h = 4 ∧ Raised t (Reg.HERD.evHERD_UP h)) ∧
  (∀ (s : State) (h : Fin 17) (j : Fin 4) (hdr w : Word64) (gap : Bool),
    trainHeard s h j gap 3 hdr.toNat w.toNat = true →
    rxRole s h j = 1 → Gives (.trainMap h j hdr w gap) s fun t => (t.herd h).ready.contains j.val = true
      ∧ rd t (Reg.HERD.STAT_ABSENT h) = 0) ∧
  (∀ (s : State) (h : Fin 17), herdRuns s h = true → herdState s h = 2 → Gives (.trainTimeout h) s fun t =>
    if ((txWith s h 1).filter (fun i => rdb s (Reg.HERD.LANE_TX_DONE h i))).length < rd s (Reg.HERD.CTL_MIN_L h) then
      herdState t h = 1 ∧ Raised t (Reg.HERD.evTRAIN_FAIL h)
        ∧ rd t (Reg.HERD.CNT_RETRY h) = satAdd 16 (rd s (Reg.HERD.CNT_RETRY h)) 1
    else herdState t h = 3) ∧
  (∀ (s : State) (h : Fin 17), herdRuns s h = true → herdState s h = 3 → Gives (.alignTimeout h) s fun t =>
    herdState t h = 1 ∧ rd t (Reg.HERD.CNT_RETRY h) = satAdd 16 (rd s (Reg.HERD.CNT_RETRY h)) 1
      ∧ Raised t (Reg.HERD.evALIGN_FAIL h)) ∧
  (∀ (s : State) (h : Fin 17), herdRuns s h = true → herdState s h = 1 →
    (List.range (nRx h)).all (fun j => !rdb s (Reg.HERD.LANE_RX_BLK h j)) = true → Gives (.partnerAbsent h) s fun t =>
      herdState t h = 1 ∧ rd t (Reg.HERD.STAT_ABSENT h) = 1 ∧ Raised t (Reg.HERD.evPARTNER_ABSENT h)) ∧
  (∀ (s : State) (h : Fin 17), herdRuns s h = true → herdState s h = 2 ∨ herdState s h = 3 →
    Gives (.partnerSilent h) s fun t => herdState t h = 1 ∧ Raised t (Reg.HERD.evPARTNER_SILENT h)) ∧
  (∀ (s : State) (h : Fin 17) (blocks : List RxBlock), herdRuns s h = true → herdState s h = 3 →
    deskews (s.herd h).rxMap blocks = true → Gives (.returnLanesDeskewed h blocks) s fun t =>
    (t.herd h).deskewed = true
      ∧ herdState t h = (if (s.herd h).aligned then 4 else 3)
      ∧ ((s.herd h).aligned = true → Raised t (Reg.HERD.evHERD_UP h))) ∧
  (∀ (s : State) (m : Fin 16) (h : Fin 17), WritePasses s m (Reg.HERD.page h) 76 1 → herdState s h = 4 →
    Gives (.herdRetrain m h) s fun t => DoneOk t m
      ∧ (if herdRuns s h then herdState t h = 1 ∧ Raised t (Reg.HERD.evHERD_DOWN h) else herdState t h = 4))

/-- Receivers, lane faults, failovers and lane tests complete (R452 to R459, R464). SWITCH_MARKER is stated with no
failure declared after the MAP words; a failed lane's role outside ALIGN. The model's choices in it: the block type
alone
decides which control block is discarded, and SWITCH_MARKER as the command that sends the marker (log entry 67). -/
def Obligations.LanesComplete : Prop :=
  (∀ (s : State) (h : Fin 17) (lanes : Nat), herdRuns s h = true → rxOf s h lanes ≠ [] →
    Gives (.rxLos h lanes) s fun t =>
    Raised t (Reg.HERD.evRX_LOS h)
      ∧ ∀ j : Fin 4, (rxOf s h lanes).contains j.val = true → rd t (Reg.HERD.LANE_RX_SIG h j) = 0) ∧
  (∀ (s : State) (h : Fin 17) (j : Fin 4), herdRuns s h = true → j.val < nRx h → herdState s h ≠ 0 →
    Gives (.rxSignalReturn h j) s fun t => rd t (Reg.HERD.LANE_RX_SIG h j) = 1) ∧
  (∀ (s : State) (h : Fin 17) (lanes : Nat) (cdr : Bool), herdRuns s h = true → rxOf s h lanes ≠ [] →
    Gives (.rxLol h lanes cdr) s fun t => Raised t (Reg.HERD.evRX_LOL h) ∧ ∀ j : Fin 4,
      (rxOf s h lanes).contains j.val = true →
      rd t (Reg.HERD.LANE_RX_BLK h j) = 0 ∧ (cdr = true → rd t (Reg.HERD.LANE_RX_CDR h j) = 0)) ∧
  (∀ (s : State) (h : Fin 17) (j : Fin 4) (levels : List Nat) (blocks : List RxBlock), herdRuns s h = true →
    j.val < nRx h →
    rd s (Reg.HERD.LANE_RX_BLK h j) ≠ 0 → Gives (.adaptWindow h j levels blocks) s fun t =>
      let inside := (List.range 4).all fun i => 8192 ≤ levels.getD i 0 && levels.getD i 0 ≤ 24576
      rd t (Reg.HERD.LANE_RX_BLK_ERR h j) = satAdd 16 (rd s (Reg.HERD.LANE_RX_BLK_ERR h j)) (blocks.countP blockBad)
        ∧ (inside = false → rd t (Reg.HERD.LANE_RX_ADAPT_HOLD h j) = 1
            ∧ (rd s (Reg.HERD.LANE_RX_ADAPT_HOLD h j) = 0 → Raised t (Reg.HERD.evADAPT_HOLD h)))
        ∧ (inside = true → 3 ≤ vget (s.herd h).goodWin 0 j → rd s (Reg.HERD.LANE_RX_ADAPT_HOLD h j) ≠ 0 →
            rd t (Reg.HERD.LANE_RX_ADAPT_HOLD h j) = 0)) ∧
  (∀ (s : State) (h : Fin 17) (j : Fin 4) (e0 e1 e2 : EyeScan), herdRuns s h = true →
    scanLane s h = some j.val → rd s (Reg.HERD.CTL_SCAN_EN h) ≠ 0 → Gives (.eyeScanDone h j e0 e1 e2) s fun t =>
      (t.herd h).scan = j + 1 ∧ ∀ e : Fin 3,
      let eye := eyeOf (rd s (Reg.HERD.EYE_CTL_THR h)) ([e0, e1, e2].getD e e0)
      rd t (Reg.HERD.EYE_RES_HEIGHT h j e) = min eye.1 4095
        ∧ rd t (Reg.HERD.EYE_RES_WIDTH h j e) = min eye.2 63
        ∧ rd t (Reg.HERD.EYE_RES_VALID h j e) = 1
        ∧ rd t (Reg.HERD.EYE_RES_SCANS h j e) = (rd s (Reg.HERD.EYE_RES_SCANS h j e) + 1) % 128) ∧
  (∀ (s : State) (h : Fin 17) (lanes : Nat) (i : Fin 19), herdRuns s h = true → herdState s h ≠ 0 → i.val < nTx h →
    bit lanes i = true →
    txRole s h i ≠ 0 → txRole s h i ≠ 4 → Gives (.txLaneFault h lanes) s fun t => Raised t (Reg.HERD.evLANE_FAIL h)
      ∧ (herdState s h ≠ 3 → txRole t h i = 4 ∧ rd t (Reg.HERD.LANE_TX_CAUSE h i) = 1)) ∧
  (∀ (s : State) (h : Fin 17), herdRuns s h = true → herdState s h = 4 → inFailover s h = true →
    (s.herd h).lateTx = [] →
    (s.herd h).lateRx = [] → Gives (.switchMarker h) s fun t =>
      (t.herd h).txMap = (s.herd h).newTx.getD (s.herd h).txMap
        ∧ (t.herd h).rxMap = (s.herd h).newRx.getD (s.herd h).rxMap
        ∧ inFailover t h = false ∧ rd t (Reg.HERD.STAT_L_ACTIVE h) = (t.herd h).txMap.length % 32
        ∧ rd t (Reg.HERD.CNT_FAILOVER h) = satAdd 8 (rd s (Reg.HERD.CNT_FAILOVER h)) 1
        ∧ Raised t (Reg.HERD.evFAILOVER_DONE h)) ∧
  (∀ (s : State) (m : Fin 16) (h : Fin 17) (lane : Fin 32),
    WritePasses s m (Reg.HERD.page h) 76 (2 + lane * 256) → herdState s h = 4 → lane.val < nTx h → txRole s h lane = 4 →
    Gives (.laneTest m h lane false) s fun t => DoneOk t m
      ∧ (if herdRuns s h then txRole t h lane = 1 ∧ (t.herd h).testTx.contains lane.val = true
         else txRole t h lane = 4)) ∧
  (∀ (s : State) (m : Fin 16) (h : Fin 17) (lane : Fin 32),
    WritePasses s m (Reg.HERD.page h) 76 (2 + lane * 256 + 8192) → herdState s h = 4 → lane.val < nRx h →
    rxRole s h lane = 4 → Gives (.laneTest m h lane true) s fun t => DoneOk t m
      ∧ (if herdRuns s h then rxRole t h lane = 1 ∧ (t.herd h).testRx.contains lane.val = true
         else rxRole t h lane = 4)) ∧
  (∀ (s : State) (h : Fin 17) (lane : Fin 19), herdRuns s h = true → (s.herd h).testTx.contains lane.val = true →
    Gives (.laneTestTimeout h lane false) s fun t => txRole t h lane = 4 ∧ rd t (Reg.HERD.LANE_TX_CAUSE h lane) = 2
      ∧ (t.herd h).testTx.contains lane.val = false ∧ Raised t (Reg.HERD.evLANE_FAIL h)) ∧
  (∀ (s : State) (h : Fin 17) (lane : Fin 19), herdRuns s h = true → (s.herd h).testRx.contains lane.val = true →
    Gives (.laneTestTimeout h lane true) s fun t => rxRole t h lane = 4 ∧ rd t (Reg.HERD.LANE_RX_CAUSE h lane) = 2
      ∧ (t.herd h).testRx.contains lane.val = false ∧ Raised t (Reg.HERD.evLANE_FAIL h))

/-- Messages of sessions, credits and replays complete (R456, R479 to R492). The request of MSG_READ and MSG_WRITE is
stated for a session with nothing outstanding. The model's choices in it: an EVENT or TELEM that cannot leave is kept at
its source (log entry 45); a completed request stays outstanding while 16 responses wait (log entry 67); the tags of
R494 as the standard has them (log entry 10). -/
def Obligations.MessagesComplete : Prop :=
  (∀ (s : State) (h : Fin 17) (gap : Bool) (hdr w1 : Word64) (more : List Word64) (bads : Fin 5),
    arrives s h gap 1 hdr.toNat w1.toNat = true →
    (s.ses (hSlot hdr.toNat)).backlog = [] → (s.ses (hSlot hdr.toNat)).out = [] →
    respWaiting s h (hSlot hdr.toNat) < 16 →
    Gives (.msgRead h gap hdr w1 more (gcmTag s h hdr.toNat (w1.toNat :: more.map BitVec.toNat)) bads) s fun t =>
      (t.link h).rxE = (s.link h).rxE + 1 ∧ (t.ses (hSlot hdr.toNat)).out.map (fun q => (q.seq, q.req.addr, q.req.size))
        = [(hSeq hdr.toNat, bits w1.toNat 0 40, bits w1.toNat 40 6 + 1)]) ∧
  (∀ (s : State) (h : Fin 17) (gap : Bool) (hdr w1 : Word64) (more : List Word64) (tag : List Byte) (bads : Fin 5),
    arrives s h gap 1 hdr.toNat w1.toNat = true → tag ≠ gcmTag s h hdr.toNat (w1.toNat :: more.map BitVec.toNat) →
    Gives (.msgRead h gap hdr w1 more tag bads) s fun t =>
      (t.link h).rxE = (s.link h).rxE ∧ Raised t Reg.LINK1.evGCM_FAIL
        ∧ rd t (Reg.LINK0.HL_ERR_GCM_FAIL h) = satAdd 16 (rd s (Reg.LINK0.HL_ERR_GCM_FAIL h)) 1) ∧
  (∀ (s : State) (h : Fin 17) (gap : Bool) (hdr w1 : Word64) (data : List Word64) (bads : Fin 5),
    arrives s h gap 2 hdr.toNat w1.toNat = true →
    Gives (.msgWrite h gap hdr w1 data (gcmTag s h hdr.toNat (w1.toNat :: data.map BitVec.toNat)) bads) s fun t =>
      (t.link h).rxE = (s.link h).rxE + 1
        ∧ ((s.ses (hSlot hdr.toNat)).backlog = [] → (s.ses (hSlot hdr.toNat)).out = [] →
            respWaiting s h (hSlot hdr.toNat) < 16 →
            (t.ses (hSlot hdr.toNat)).out.map (fun q => (q.seq, q.req.write, q.req.addr, q.req.size, q.req.data))
              = [(hSeq hdr.toNat, true, bits w1.toNat 0 40, bits w1.toNat 40 6 + 1,
                  (words64LE (data.map BitVec.toNat)).take (bits w1.toNat 40 6 + 1))])) ∧
  (∀ (s : State) (h : Fin 17) (gap : Bool) (hdr w1 : Word64) (more : List Word64) (tag : List Byte) (bads : Fin 5),
    linkHears s h false = true → gap = true ∨ (s.link h).seek = false →
    headerOk hdr.toNat w1.toNat = false → Gives (.msgRead h gap hdr w1 more tag bads) s fun t =>
      (t.link h).seek = true ∧ (t.link h).rxE = (s.link h).rxE ∧ Raised t Reg.LINK0.evHDR_ERR
        ∧ rd t (Reg.LINK0.HL_CNT_HDR_ERR h) = satAdd 16 (rd s (Reg.LINK0.HL_CNT_HDR_ERR h)) 1) ∧
  (∀ (s : State) (h : Fin 17) (gap : Bool) (hdr w1 : Word64), heardOf s h gap true 7 hdr.toNat w1.toNat = true →
    Gives (.msgCredit h gap hdr w1) s fun t => (t.link h).limit = bits w1.toNat 32 16
      ∧ rd t (Reg.LINK0.HL_BUF_PEER_EPOCH h) = bits w1.toNat 24 8 ∧ (t.link h).peerSeen = true) ∧
  (∀ (s : State) (h : Fin 17) (gap : Bool) (hdr w1 : Word64) (more : List Word64),
    arrives s h gap 6 hdr.toNat w1.toNat = true → w1.toNat % 256 = 2 →
    Gives (.msgTelemMargin h gap hdr w1 more (gcmTag s h hdr.toNat (w1.toNat :: more.map BitVec.toNat))) s fun t =>
      (t.link h).rxE = (s.link h).rxE + 1
      ∧ (if bits w1.toNat 8 5 ≤ 16 ∧ bits w1.toNat 13 5 < nTx (bits w1.toNat 8 5)
            ∧ (txRole s (bits w1.toNat 8 5) (bits w1.toNat 13 5) = 2
              ∨ txRole s (bits w1.toNat 8 5) (bits w1.toNat 13 5) = 3) then
           rd t (Reg.HERD.TX_MARGIN_HEIGHT (bits w1.toNat 8 5) (bits w1.toNat 13 5)) = bits w1.toNat 18 12
             ∧ rd t (Reg.HERD.TX_MARGIN_VALID (bits w1.toNat 8 5) (bits w1.toNat 13 5)) = 1
         else Raised t Reg.LINK2.evMARGIN_IGNORED)) ∧
  (∀ (s : State) (k : Fin 8) (n : Fin 16) (bads : Fin 5) (q : SesReq) (rest : List SesReq) (c : Completion),
    pick n (s.ses k).out = some (q, rest) →
    (∀ p ∈ (s.ses k).out, p.compl.isSome = true → q.rank ≤ p.rank) → q.compl = some c →
    (s.ses k).backlog = [] → sesHerd s k < 17 → respWaiting s (sesHerd s k) k < 16 →
      Gives (.transactionComplete k n bads) s fun t =>
      (t.ses k).out = rest ∧ OnItsWay t (sesHerd s k) k (responseBody k q c)) ∧
  (∀ (s : State) (k : Fin 8) (n : Notice) (rest : List Notice) (q : Nat), vget s.evt.notices [] k = n :: rest →
    n.logSeq = some q → sesUp s k = true → sesHerd s k < 17 →
    sendsNow s k (eventBody k n q (vget s.evt.dropSince 0 k)) = true → Gives (.eventMessage k) s fun t =>
      OnItsWay t (sesHerd s k) k (eventBody k n q (vget s.evt.dropSince 0 k))) ∧
  (∀ (s : State) (k : Fin 8) (p : Nat) (ws : List Nat) (rest : List (Nat × List Nat)),
    (s.ses k).reports = (p, ws) :: rest →
    sesUp s k = true → sesHerd s k < 17 → sendsNow s k ⟨6, k, true, (1 + p * 2 ^ 8) :: ws⟩ = true →
    Gives (.telemReportMessage k) s fun t => (t.ses k).reports = rest
      ∧ OnItsWay t (sesHerd s k) k ⟨6, k, true, (1 + p * 2 ^ 8) :: ws⟩) ∧
  (∀ (s : State) (h : Fin 17), herdCredits s h = true → txHolds s h = false → Gives (.creditInterval h) s fun t =>
    (t.link h).due = false
      ∧ t.emitted = sentAs s (.message h [word0 7 2 false 0 false 0 (creditWord s h), creditWord s h])
          ++ (streamFirst s h).emitted) ∧
  (∀ (s : State) (h : Fin 17), (s.link h).buf ≠ [] → herdUp s h = true → Gives (.replayTimeout h) s fun t =>
    rd t (Reg.LINK0.HL_CNT_REPLAY h) = satAdd 16 (rd s (Reg.LINK0.HL_CNT_REPLAY h)) 1
      ∧ Raised t (Reg.LINK0.evREPLAY h))

/-- Key exchanges and the ends of sessions complete (R496 to R503). The model's choices in it: which reason an INIT to
which several apply is answered with (log entry 44); the keys, points, signatures and tags as the standards have them
(log entry 10). -/
def Obligations.SessionsComplete : Prop :=
  (∀ (s : State) (h : Fin 17) (gap : Bool) (hdr w1 : Word64) (ws auth : List Word64),
    arrivesPlain s h gap hdr.toNat w1.toNat = true → w1.toNat % 256 = 1 →
    Gives (.keyxInit h gap hdr w1 ws auth) s fun t =>
      let k := bits w1.toNat 8 3
      let c := initReason (initYield s h k) k (hLen hdr.toNat) (hSlot hdr.toNat) w1.toNat (ws.map BitVec.toNat)
        (auth.map BitVec.toNat)
      (t.link h).rxE = (s.link h).rxE + 1
        ∧ (if c = 0 then rd t (Reg.LINK1.SES_STAT_STATE k) = 1 ∧ sesHerd t k = h ∧ (t.ses k).exch = .signing
           else rd t Reg.LINK1.KEYX_LAST_REASON = c ∧ Raised t Reg.LINK1.evKEYX_REJECT)) ∧
  (∀ (s : State) (k : Fin 8), (s.ses k).exch = .signed → sesHerd s k < 17 → Gives (.keyxReply k) s fun t =>
    (t.ses k).exch = .replied ∧ OnItsWay t (sesHerd s k) k ⟨8, k, false, (s.ses k).reply⟩) ∧
  (∀ (s : State) (h : Fin 17) (gap : Bool) (hdr w1 : Word64) (ws : List Word64),
    arrivesPlain s h gap hdr.toNat w1.toNat = true →
    w1.toNat = 3 → ws.length = 12 → hLen hdr.toNat = 14 → inExchange s (hSlot hdr.toNat) = true →
    sesHerd s (hSlot hdr.toNat) = h → (s.ses (hSlot hdr.toNat)).exch = .replied →
    Gives (.keyxFinish h gap hdr (w1 :: ws)) s fun t => (t.ses (hSlot hdr.toNat)).exch = .verifying
      ∧ (t.link h).rxE = (s.link h).rxE + 1) ∧
  (∀ (s : State) (h : Fin 17) (k : Fin 8), (s.ses k).exch = .verifying → sesHerd s k = h → finishOk (s.ses k) = true →
    Gives (.keyxAccept h k) s fun t =>
    sesUp t k = true ∧ rd t (Reg.LINK1.SES_CNT_UPS k) = satAdd 16 (rd s (Reg.LINK1.SES_CNT_UPS k)) 1
      ∧ Raised t (Reg.LINK1.evSES_UP k) ∧ (t.ses k).keyIn ++ (t.ses k).keyOut = sesKeys (s.ses k) k (sesHerd s k)
      ∧ (t.ses k).eph = [] ∧ (t.ses k).init = [] ∧ OnItsWay t (sesHerd s k) k ⟨8, k, true, [4 + k * 256]⟩) ∧
  (∀ (s : State) (h : Fin 17) (k : Fin 8), (s.ses k).exch = .verifying → sesHerd s k = h →
    finishOk (s.ses k) = false → Gives (.keyxAccept h k) s fun t =>
    rd t (Reg.LINK1.SES_STAT_STATE k) = 0 ∧ rd t Reg.LINK1.KEYX_LAST_REASON = 3 ∧ Raised t Reg.LINK1.evKEYX_REJECT) ∧
  (∀ (s : State) (k : Fin 8), (s.ses k).exch = .replied → Gives (.keyxTimeout k) s fun t =>
    rd t (Reg.LINK1.SES_STAT_STATE k) = 0 ∧ rd t Reg.LINK1.KEYX_LAST_REASON = 4 ∧ Raised t Reg.LINK1.evKEYX_REJECT) ∧
  (∀ (s : State) (h : Fin 17) (gap : Bool) (hdr w1 : Word64) (more : List Word64),
    arrives s h gap 8 hdr.toNat w1.toNat = true → w1.toNat % 256 = 5 →
    Gives (.keyxEnd h gap hdr w1 more (gcmTag s h hdr.toNat (w1.toNat :: more.map BitVec.toNat))) s fun t =>
      rd t (Reg.LINK1.SES_STAT_STATE (hSlot hdr.toNat)) = 0
      ∧ rd t (Reg.LINK1.SES_STAT_END_REASON (hSlot hdr.toNat)) = 1
        ∧ Raised t (Reg.LINK1.evSES_DOWN (hSlot hdr.toNat))) ∧
  (∀ (s : State) (k : Fin 8), sesUp s k = true → Gives (.sessionIdle k) s fun t =>
    rd t (Reg.LINK1.SES_STAT_STATE k) = 0 ∧ rd t (Reg.LINK1.SES_STAT_END_REASON k) = 2
      ∧ Raised t (Reg.LINK1.evSES_DOWN k)) ∧
  (∀ (s : State) (m : Fin 16) (slots : BitVec 8), WritePasses s m Reg.LINK1.page 68 slots.toNat →
    Gives (.sesKill m slots) s fun t => DoneOk t m ∧ ∀ k : Fin 8, slots.getLsbD k = true → sesUp s k = true →
      rd t (Reg.LINK1.SES_STAT_STATE k) = 0 ∧ rd t (Reg.LINK1.SES_STAT_END_REASON k) = 4
        ∧ Raised t (Reg.LINK1.evSES_DOWN k))


/-! ### Stacked memory, serial ports, security -/

/-- Accesses to stacked memory, scrub, retirement and the weak-line table complete (R507 to R516, R519, R522, R524,
R526, R528, R530). The model's choices in it: the order in which the arbiter serves what waits (log entry 62), and the
cells of before a training, which no path delivers (log entry 52); scrub passes while SCRUB_CTL.EN is 1 (log entry
47). -/
def Obligations.StackedMemoryCompletes : Prop :=
  (∀ (s : State) (m : Fin 16) (a : BitVec 40) (len : Fin 65) (fetch bad : Bool),
    MemPasses s 3 m a.toNat len (if fetch then 2 else 0) →
    dramFree s m a.toNat = true → Gives (.dramRead m a len fetch bad) s fun t =>
      if isRetired s a.toNat then lastDone t m = ⟨.errRetired, zeros len⟩ ∧ Raised t Reg.RETIRE.evRETIRED_HIT
      else if isWritten s a.toNat = false then lastDone t m = ⟨.unwritten, zeros len⟩
      else if badReads s (lineOf a.toNat) (b2n bad) ≠ 0 then lastDone t m = lastDone s m
          ∧ t.memc.pending.map (fun q => (q.req.addr, q.tries, q.begun))
            = s.memc.pending.map (fun q => (q.req.addr, q.tries, q.begun)) ++ [(a.toNat, 1, true)]
      else if isPoison s (lineOf a.toNat) then lastDone t m = (if m.val < 4 then ⟨.errPoison, zeros len⟩
          else ⟨.poison, bytesAt 0 s.mems.dram (dramOff a.toNat) len⟩) ∧ Raised t Reg.MEMC.evPOISON_READ
      else lastDone t m = ⟨.ok, bytesAt 0 s.mems.dram (dramOff a.toNat) len⟩) ∧
  (∀ (s : State) (q : Refetch) (bad : Bool), s.memc.pending = [q] → q.begun = true → q.req.dead = false →
    q.req.master < 16 → Gives (.dramRefetch bad) s fun t =>
      let line := lineOf q.req.addr
      let again := bad || badReads s line 0 == 4
      if again = false ∧ isPoison s line = true then t.memc.pending = []
          ∧ lastDone t q.req.master = (if q.req.master < 4 then ⟨.errPoison, zeros q.req.size⟩
              else ⟨.poison, bytesAt 0 s.mems.dram (dramOff q.req.addr) q.req.size⟩)
          ∧ rd t Reg.MEMC.REFETCH_CNT_COUNT = rd s Reg.MEMC.REFETCH_CNT_COUNT
      else if again = false then t.memc.pending = []
          ∧ lastDone t q.req.master = ⟨.ok, bytesAt 0 s.mems.dram (dramOff q.req.addr) q.req.size⟩
          ∧ rd t Reg.MEMC.REFETCH_CNT_COUNT = satAdd 32 (rd s Reg.MEMC.REFETCH_CNT_COUNT) 1
      else if q.tries + 1 < 4 then t.memc.pending = [{ q with tries := q.tries + 1 }]
      else t.memc.pending = [] ∧ Raised t Reg.MEMC.evPOISON_READ
          ∧ (lastDone t q.req.master).status = (if q.req.master < 4 then .errPoison else .poison)
          ∧ rd t Reg.MEMC.POISON_CNT_CRC = satAdd 16 (rd s Reg.MEMC.POISON_CNT_CRC) 1) ∧
  (∀ (s : State) (m : Fin 16) (a : BitVec 40) (data : List Byte) (poison : Bool), data.length = 64 →
    MemPasses s 3 m a.toNat 64 1 → dramFree s m a.toNat = true → Gives (.dramWrite m a data poison) s fun t =>
      if isRetired s a.toNat then lastDone t m = ⟨.errRetired, []⟩ ∧ t.mems = s.mems
      else DoneOk t m ∧ bytesAt 0 t.mems.dram (dramOff a.toNat) 64 = data ∧ isWritten t a.toNat = true
        ∧ isPoison t (lineOf a.toNat) = poison ∧ (∀ e ∈ t.memc.weak, e.2.1 ≠ lineOf a.toNat)) ∧
  (∀ (s : State) (m : Fin 16) (a : BitVec 40) (data : List Byte) (poison : Bool) (bads : Fin 5), data.length < 64 →
    MemPasses s 3 m a.toNat data.length 1 → dramFree s m a.toNat = true →
    Gives (.dramPartialWrite m a data poison bads) s fun t =>
      let old := isWritten s a.toNat && isPoison s (lineOf a.toNat)
      if isRetired s a.toNat then lastDone t m = ⟨.errRetired, []⟩ ∧ t.mems = s.mems
      else if isWritten s a.toNat = true ∧ 4 ≤ badReads s (lineOf a.toNat) bads then
        lastDone t m = ⟨.errPoison, []⟩ ∧ t.mems = s.mems ∧ Raised t Reg.MEMC.evPARTIAL_REFUSED
      else DoneOk t m ∧ bytesAt 0 t.mems.dram (dramOff a.toNat) data.length = data ∧ isWritten t a.toNat = true
        ∧ isPoison t (lineOf a.toNat) = (poison || old)) ∧
  (∀ (s : State) (bads : Fin 5), rd s Reg.MEMC.SCRUB_CTL_EN ≠ 0 → s.memc.trained = true →
    scrubWaits s (rd s Reg.MEMC.SCRUB_POS_LINE) = false → Gives (.scrubLine bads) s fun t =>
      let line := rd s Reg.MEMC.SCRUB_POS_LINE
      let a := 0x1000000000 + line * 64
      rd t Reg.MEMC.STAT_SCRUB_RUN = 1 ∧ rd t Reg.MEMC.SCRUB_POS_LINE = (line + 1) % 2 ^ 27
        ∧ (line + 1 = 2 ^ 27 → Raised t Reg.MEMC.evSCRUB_PASS)
        ∧ (4 ≤ badReads s line bads → isRetired s a = false → isWritten s a = true →
            rd t Reg.MEMC.SCRUB_BAD_LINE = line ∧ Raised t Reg.MEMC.evSCRUB_BAD)) ∧
  (∀ (s : State) (m : Fin 16) (page : BitVec 17), WritePasses s m Reg.RETIRE.page 64 page.toNat →
    Gives (.retireAdd m page) s fun t => DoneOk t m
      ∧ (if s.memc.retired.contains page.toNat then
           rd t Reg.RETIRE.STAT_LAST = 2 ∧ t.memc.retired = s.memc.retired
         else if 4096 ≤ s.memc.retired.length then
           rd t Reg.RETIRE.STAT_LAST = 3 ∧ t.memc.retired = s.memc.retired ∧ Raised t Reg.RETIRE.evRETIRE_FULL
         else rd t Reg.RETIRE.STAT_LAST = 1 ∧ t.memc.retired = s.memc.retired ++ [page.toNat]
           ∧ rd t Reg.RETIRE.STAT_COUNT = s.memc.retired.length + 1)) ∧
  (∀ (s : State) (m : Fin 16) (idx : BitVec 8), WritePasses s m Reg.MEMC.page 76 (idx.toNat + 2 ^ 8) →
    Gives (.weakClrOne m idx) s fun t => DoneOk t m
      ∧ t.memc.weak = s.memc.weak.filter (fun e => e.1 != idx.toNat)) ∧
  (∀ (s : State) (m : Fin 16), WritePasses s m Reg.MEMC.page 76 (2 ^ 9) →
    Gives (.weakClrAll m) s fun t => DoneOk t m ∧ t.memc.weak = [] ∧ rd t Reg.MEMC.STAT_WEAK_USED = 0)

/-- Frames of the management slave port complete (R534 to R545). The model's choices in it: when a read is issued, the
irregularity of a cut READ, and SPM_READ_WORD_DUE as the start of a word (log entry 46); the words of frames that a
reset meets (log entry 25). -/
def Obligations.ManagementPortCompletes : Prop :=
  (∀ s : State, spmAnswers s = true → spmSelected s = false → spmInFrame s = false → Gives .spmSelectFall s fun t =>
    spmInFrame t = true ∧ spmSelected t = true ∧ t.spm.op = .header ∧ t.spm.unit = rd s Reg.SPM.CFG_UNIT
      ∧ t.spm.words = 0
      ∧ t.spm.got = [] ∧ t.spm.queue = s.spm.queue) ∧
  (∀ (s : State) (a : BitVec 40), spmIn s .header = true → Gives (.spmWriteFrame a) s fun t =>
    t.spm.op = .write ∧ t.spm.addr = a.toNat) ∧
  (∀ (s : State) (a : BitVec 40) (bads : Fin 5), spmIn s .header = true → s.spm.out = none → s.spm.queue = [] →
    s.spm.under = false → fabricQuiet s = true → spmAnswers s = true → Gives (.spmReadFrame a bads) s fun t =>
      t.spm.op = .read ∧ t.spm.addr = a.toNat ∧ t.spm.issued = s.spm.issued + 1
        ∧ t.spm.out.map (fun x => (x.1.addr, x.1.write, x.2.1))
          = some ((a.toNat + 4 * s.spm.issued) % 2 ^ 40, false, s.spm.frame)) ∧
  (∀ (s : State) (a : BitVec 40), spmIn s .header = true → s.bus.accepting = true → Gives (.spmStatFrame a) s fun t =>
    t.spm.op = .stat ∧ t.spm.words = 1
      ∧ t.emitted = .spm s.spm.unit (regWord s Reg.SPM.page 100 % 2 ^ s.spm.unit) :: .spm 8 (statusByte s true)
          :: s.emitted) ∧
  (∀ (s : State) (op : BitVec 8) (a : BitVec 40), op.toNat = 0 ∨ 3 < op.toNat → spmIn s .header = true →
    Gives (.spmBadOp op a) s fun t => t.spm.op = .bad
      ∧ t.spm.irreg = (if s.spm.irreg = 0 then 5 else s.spm.irreg)) ∧
  (∀ (s : State) (w : Word32) (bads : Fin 5) (x : Req × Nat × Option Completion), spmIn s .write = true →
    s.spm.out = some x → Gives (.spmWriteWord w bads) s fun t => t.spm.words = s.spm.words + 1
      ∧ (if 16 ≤ s.spm.queue.length then t.spm.queue = s.spm.queue ∧ Raised t Reg.SPM.evWQ_OVERFLOW
         else t.spm.queue = s.spm.queue
           ++ [⟨(s.spm.addr + 4 * s.spm.words) % 2 ^ 40, w.toNat % 2 ^ s.spm.unit, s.spm.frame⟩])) ∧
  (∀ (s : State) (w : Word32) (bads : Fin 5), spmIn s .write = true → s.spm.out = none → s.spm.queue = [] →
    fabricQuiet s = true → spmAnswers s = true → Gives (.spmWriteWord w bads) s fun t => t.spm.words = s.spm.words + 1
      ∧ t.spm.queue = []
      ∧ t.spm.out.map (fun x => (x.1.addr, x.1.write, x.1.data))
          = some ((s.spm.addr + 4 * s.spm.words) % 2 ^ 40, true, toLE 4 (w.toNat % 2 ^ s.spm.unit))) ∧
  (∀ (s : State) (bads : Fin 5) (r : Req) (f : Nat) (c : Completion), s.spm.out = some (r, f, some c) →
    s.spm.queue = [] → blockRuns s Reg.SPM.page = true → spmIn s .read = false →
      Gives (.spmAccessDone bads) s fun t => t.spm.out = none
      ∧ (c.status.isErr = true → Raised t Reg.SPM.evSPM_BUS_ERR)) ∧
  (∀ (s : State) (bads : Fin 5) (r : Req) (c : Completion), s.spm.out = some (r, s.spm.frame, some c) →
    s.spm.queue = [] → spmIn s .read = true → r.write = false → s.spm.under = false → fabricQuiet s = true →
    spmAnswers s = true →
    Gives (.spmAccessDone bads) s fun t => t.spm.got = s.spm.got ++ [leNat c.data]
      ∧ t.spm.issued = s.spm.issued + 1) ∧
  (∀ s : State, spmIn s .read = true → s.spm.ready = false → Gives .spmReadWordDue s fun t =>
    t.spm.ready = !s.spm.got.isEmpty
      ∧ (s.bus.accepting = true → t.emitted = .spm 8 (statusByte s (!s.spm.got.isEmpty)) :: s.emitted)) ∧
  (∀ (s : State) (v : Nat) (rest : List Nat), spmIn s .read = true → s.spm.ready = true → s.spm.got = v :: rest →
    s.spm.under = false → Gives .spmReadWordDue s fun t => t.spm.got = rest ∧ t.spm.words = s.spm.words + 1
      ∧ (s.bus.accepting = true → t.emitted = .spm s.spm.unit (v % 2 ^ s.spm.unit) :: s.emitted)) ∧
  (∀ s : State, spmIn s .read = true → s.spm.ready = true → s.spm.got = [] → Gives .spmReadWordDue s fun t =>
    t.spm.under = true ∧ t.spm.irreg = (if s.spm.irreg = 0 then 3 else s.spm.irreg)) ∧
  (∀ (s : State) (nbits : Fin 48) (w : Word32) (bads : Fin 5), spmSelected s = true → spmActs s = true →
    s.spm.op ≠ .write ∨ nbits.val = 0 → Gives (.spmFrameEnd nbits w bads) s fun t => spmInFrame t = false
      ∧ rd t Reg.SPM.CNT_FRAMES = (rd s Reg.SPM.CNT_FRAMES + 1) % 2 ^ 16
      ∧ (s.spm.op = .header → s.spm.irreg = 0 → rd t Reg.SPM.LAST_IRREG = 1 ∧ Raised t Reg.SPM.evFRAME_IRREG)
      ∧ (s.spm.op = .write → rd t Reg.SPM.LAST_IRREG = s.spm.irreg % 8
          ∧ rd t Reg.SPM.LAST_WORDS = min s.spm.words 65535)) ∧
  (∀ (s : State) (nbits : Fin 48) (w : Word32) (bads : Fin 5) (x : Req × Nat × Option Completion),
    spmSelected s = true → spmIn s .write = true → nbits.val ≠ 0 → s.spm.out = some x → s.spm.irreg = 0 →
      s.spm.queue.length < 16 →
    Gives (.spmFrameEnd nbits w bads) s fun t => spmInFrame t = false ∧ rd t Reg.SPM.LAST_IRREG = 2
      ∧ rd t Reg.SPM.LAST_BITS = nbits.val % 32 ∧ Raised t Reg.SPM.evFRAME_IRREG
      ∧ t.spm.queue = s.spm.queue
        ++ [⟨(s.spm.addr + 4 * s.spm.words) % 2 ^ 40, w.toNat % 2 ^ nbits.val, s.spm.frame⟩])

/-- The flash window, programs, erases and the queue complete (R551, R553 to R557, R559 to R563, R569). The model's
choices
in it: the order of the refusals of an erase, what SAFE mode records, the status of an abandoned write, and the place of
work by the MGT cycle in which it became ready (log entry 47). -/
def Obligations.FlashPortCompletes : Prop :=
  (∀ (s : State) (m : Fin 16) (a : BitVec 40) (len : Fin 65) (fetch : Bool),
    MemPasses s 2 m a.toNat len (if fetch then 2 else 0) → spfIdle s = true →
    cacheHit s (mkReq m a.toNat false fetch len [] false 0) = none → Gives (.flashWindowRead m a len fetch) s fun t =>
      lastDone t m = ⟨.ok, bytesAt flashDef s.mems.flash (flashOff a.toNat) len⟩) ∧
  (∀ (s : State) (m : Fin 16) (a : BitVec 40) (len : Fin 65) (fetch : Bool),
    MemPasses s 2 m a.toNat len (if fetch then 2 else 0) → s.spf.op.isSome = true → s.spf.queue = [] →
    s.spf.work = [] → cacheHit s (mkReq m a.toNat false fetch len [] false 0) = none →
    Gives (.flashWindowRead m a len fetch) s fun t => lastDone t m = lastDone s m
      ∧ t.spf.work.length = 1) ∧
  (∀ (s : State) (m : Fin 16) (a : BitVec 40) (len : Fin 65) (fetch : Bool) (d : List Byte),
    fabricQuiet s = true → masterIssues s (mkReq m a.toNat false fetch len [] false 0) = true → 0 < len.val →
    a.toNat % 64 + len ≤ 64 → cacheHit s (mkReq m a.toNat false fetch len [] false 0) = some d →
    Gives (.flashWindowRead m a len fetch) s fun t => lastDone t m = ⟨.ok, d⟩ ∧ t.spf = s.spf) ∧
  (∀ (s : State) (r : Req), s.spf.work = [.window r] → r.write = false → r.dead = false → r.master < 16 →
    spfTurn s r.master = true → s.spf.queue = [] → Gives .flashReadTimeout s fun t => t.spf.work = []
      ∧ lastDone t r.master = ⟨.errTimeout, zeros r.size⟩) ∧
  (∀ (s : State) (m : Fin 16) (a : BitVec 40) (data : List Byte) (poison : Bool),
    MemPasses s 2 m a.toNat data.length 1 → spfIdle s = true → Gives (.flashWindowWrite m a data poison) s fun t =>
      if poison then lastDone t m = ⟨.errPoison, []⟩ ∧ t.spf.op = none
      else if spfSafe s then lastDone t m = ⟨.errDenied, []⟩ ∧ t.spf.op = none
      else if fenceClosed s then t.spf.op = none ∧ t.spf.work.length = 1
      else t.spf.op.map (fun o => (o.kind, o.start))
          = some (.program (stamped s (mkReq m a.toNat true false data.length data false 0)), s.time.uptime)
        ∧ rd t Reg.SPF.STAT_BUSY = 1) ∧
  (∀ (s : State) (r : Req), s.spf.work = [.window r] → r.write = true → r.dead = false → r.master < 16 →
    spfTurn s r.master = true → fenceClosed s = true → s.spf.queue = [] → Gives .flashFenceTimeout s fun t =>
      t.spf.work = []
      ∧ lastDone t r.master = ⟨.errTimeout, []⟩) ∧
  (∀ (s : State) (r : Req) (o : FlashOp) (worn : Option (List Byte)), spfOp s = some o → o.kind = .program r →
    o.stuck = false →
    o.dec ≠ .abandon → r.data.length = r.size → r.dead = false → r.master < 16 → s.spf.work = [] → s.spf.queue = [] →
    Gives (.flashPoll true worn) s fun t =>
      let nor := norBytes (bytesAt flashDef s.mems.flash (flashOff r.addr) r.size) r.data
      let back := match worn with
        | some b => if b.length = r.size then b else nor
        | none => nor
      t.spf.op = none ∧ DoneOk t r.master ∧ bytesAt flashDef t.mems.flash (flashOff r.addr) r.size = back
        ∧ rd t Reg.SPF.CNT_PROGRAMS = satAdd 16 (rd s Reg.SPF.CNT_PROGRAMS) 1
        ∧ (back ≠ r.data → Raised t Reg.SPF.evVERIFY_FAIL)) ∧
  (∀ (s : State) (off size : Nat) (o : FlashOp) (worn : Option (List Byte)), spfOp s = some o →
    o.kind = .erase off size → o.stuck = false →
    o.dec ≠ .abandon → s.spf.work = [] → s.spf.queue = [] → Gives (.flashPoll true worn) s fun t =>
      t.spf.op = none ∧ rd t Reg.SPF.STAT_ERASE_RES = 1 ∧ Raised t Reg.SPF.evERASE_DONE
        ∧ ∀ k, Store.read flashDef t.mems.flash k
            = if off ≤ k ∧ k < off + size then flashDef else Store.read flashDef s.mems.flash k) ∧
  (∀ (s : State) (o : FlashOp) (worn : Option (List Byte)), s.spf.op = some o →
    Gives (.flashPoll false worn) s fun t => t = s) ∧
  (∀ (s : State) (o : FlashOp), spfOp s = some o → o.stuck = false → o.dec ≠ .abandon →
    Gives .flashStuck s fun t => t.spf.op = some { o with stuck := true } ∧ Raised t Reg.SPF.evFLASH_STUCK
      ∧ rd t Reg.SPF.LAST_ERR_STUCK = 1 ∧ rd t Reg.SPF.LAST_ERR_VALID = 1) ∧
  (∀ (s : State) (o : FlashOp), spfOp s = some o → o.stuck = true → s.spf.work = [] → s.spf.queue = [] →
    Gives .flashResetDone s fun t => t.spf.op = none ∧ rd t Reg.SPF.STAT_BUSY = 0) ∧
  (∀ (s : State) (m : Fin 16) (off : BitVec 26) (e : Fin 4),
    WritePasses s m Reg.SPF.page 72 (off.toNat + e * 2 ^ 26) → spfIdle s = true → Gives (.spfErase m off e) s fun t =>
      let size := 2 ^ eraseLog2 s e
      let res := if rd s Reg.SPF.STAT_MODE = 3 then 7 else if eraseLog2 s e = 0 then 6
        else if off.toNat % size ≠ 0 then 2 else if eraseGranted s m off.toNat size = false then 3 else 0
      lastDone t m = ⟨if rd s Reg.SPF.STAT_MODE = 3 then .errDenied else .ok, []⟩ ∧ rd t Reg.SPF.STAT_ERASE_RES = res
        ∧ (if res ≠ 0 then Raised t Reg.SPF.evERASE_REFUSED ∧ t.spf.op = none
           else if fenceClosed s then t.spf.work = [.erase off.toNat size s.time.mgt]
           else t.spf.op.map (fun o => o.kind) = some (.erase off.toNat size))) ∧
  (∀ (s : State) (m : Fin 16) (w : Word32), WritePasses s m Reg.SPF.page 76 w.toNat → s.spf.op.isSome = true →
    s.spf.inSeq = false → Gives (.qCmdPush m w) s fun t => DoneOk t m
      ∧ t.spf.queue = (if s.spf.drop = true ∨ 16 ≤ s.spf.queue.length then s.spf.queue
          else s.spf.queue ++ [qEntryOf w.toNat])) ∧
  (∀ (s : State) (m : Fin 16) (w : Word32), WritePasses s m Reg.SPF.page 80 w.toNat → s.spf.op.isSome = true →
    s.spf.inSeq = false → Gives (.qTxPush m w) s fun t => DoneOk t m
      ∧ (if 64 ≤ s.spf.tx.length then t.spf.tx = s.spf.tx ∧ rd t Reg.SPF.Q_STAT_OVER = 1
         else t.spf.tx = s.spf.tx ++ [w.toNat])) ∧
  (∀ (s : State) (m : Fin 16), ReadPasses s m Reg.SPF.page 84 → s.spf.op.isSome = true → s.spf.inSeq = false →
    Gives (.qRxRead m) s fun t => lastDone t m = ⟨.ok, toLE 4 (s.spf.rx.headD 0)⟩ ∧ t.spf.rx = s.spf.rx.drop 1
      ∧ (s.spf.rx = [] → rd t Reg.SPF.Q_STAT_UNDER = 1)) ∧
  (∀ (s : State) (got : List Word32) (e : QEntry), blockRuns s Reg.SPF.page = true → s.spf.inSeq = true →
    s.spf.queue = [e] → e.inward = true →
    e.cont = false → e.count = got.length → s.spf.feed = none → s.spf.rx.length + got.length ≤ 64 → s.spf.work = [] →
    Gives (.qSequenceDone got) s fun t => t.spf.inSeq = false ∧ t.spf.queue = [] ∧ Raised t Reg.SPF.evQ_DONE
      ∧ t.spf.rx = s.spf.rx ++ got.map (fun w => qIn e w.toNat))

/-- OTP generation writes, provisioning, entropy health and signatures complete (R574, R575, R578, R580, R588 to
R590, R592). SIGN_COMPLETE is stated for a REPLY and for the SIGN
command. The model's choices in it: keys, points and signatures as the standards have them (log entry 10). -/
def Obligations.SecurityCompletes : Prop :=
  (∀ (s : State) (m : Fin 16) (r : BitVec 8), WritePasses s m Reg.OTP.page 64 (r.toNat + 2 ^ 8) →
    Gives (.otpGenWrite m r) s fun t =>
      let data := (List.range (recS r.toNat)).map (fun k => rd s (Reg.OTP.WBUF_DATA k))
      DoneOk t m ∧ rd t Reg.OTP.STAT_LAST = otpRefusal s r.toNat data ∧ rd t Reg.OTP.STAT_LAST_REC = r.toNat
        ∧ (if otpRefusal s r.toNat data ≠ 0 then Raised t Reg.OTP.evGEN_REFUSED ∧ t.otp.op = s.otp.op
           else rd t Reg.OTP.STAT_BUSY = 1 ∧ t.otp.op.map (fun o => (o.rid, o.gen, o.data))
             = some (r.toNat, (genNext s r.toNat).getD 0, data))) ∧
  (∀ (s : State) (o : OtpOp), s.otp.op = some o → o.dec ≠ .abandon → Gives .otpSealed s fun t =>
    t.otp.op = none ∧ rd t Reg.OTP.STAT_BUSY = 0 ∧ rd t Reg.OTP.STAT_LAST = 1 ∧ Raised t Reg.OTP.evGEN_SEALED
      ∧ ∀ i, i < o.data.length + 2 → otpWord t (recBase o.rid + o.gen * (recS o.rid + 2) + i)
          = otpWord s (recBase o.rid + o.gen * (recS o.rid + 2) + i)
            ||| (o.data ++ [genCrc o.rid o.gen o.data, 0xA5C35A3C]).getD i 0) ∧
  (∀ (s : State) (g : Nat) (sc : List Nat), s.otp.op = none → s.sec.drawn = some (g, sc) → s.sec.provDec ≠ .abandon →
    Gives .otpSealed s fun t => t.sec.key = some sc ∧ t.sec.prov = false ∧ rd t Reg.SEC.STAT_KEY = 1
      ∧ rd t Reg.SEC.STAT_PROV_BUSY = 0 ∧ rd t Reg.SEC.STAT_PROV_RES = 1 ∧ Raised t Reg.SEC.evPROV_DONE) ∧
  (∀ (s : State) (m : Fin 16), WritePasses s m Reg.SEC.page 64 1 → Gives (.provision m) s fun t => DoneOk t m
    ∧ (if provRefusal s ≠ 0 then rd t Reg.SEC.STAT_PROV_RES = provRefusal s ∧ Raised t Reg.SEC.evPROV_REFUSED
         ∧ t.sec = s.sec
       else rd t Reg.SEC.STAT_PROV_BUSY = 1 ∧ t.sec.prov = true ∧ t.sec.drawn = none)) ∧
  (∀ (s : State) (sc : List Word32), s.sec.prov = true → s.sec.drawn = none → s.sec.provDec ≠ .abandon →
    scalarOk (sc.map BitVec.toNat) = true → Gives (.provisionKeyDrawn sc) s fun t =>
      t.sec.drawn = some ((genNext s 8).getD 0, sc.map BitVec.toNat)) ∧
  (∀ s : State, Gives .rngFail s fun t => rd t Reg.SEC.STAT_RNG_OK = 0 ∧ Raised t Reg.SEC.evRNG_FAIL) ∧
  (∀ s : State, Gives .rngRecover s fun t => rd t Reg.SEC.STAT_RNG_OK = 1) ∧
  (∀ (s : State) (m : Fin 16), WritePasses s m Reg.SEC.page 64 2 → Gives (.secSign m) s fun t => DoneOk t m
    ∧ (if rdb s Reg.SEC.STAT_SIGN_BUSY then rd t Reg.SEC.STAT_SIGN_RES = 3 ∧ t.sec.sign = s.sec.sign
       else if rdb s Reg.SEC.STAT_KEY = false then rd t Reg.SEC.STAT_SIGN_RES = 2 ∧ t.sec.sign = s.sec.sign
       else rd t Reg.SEC.STAT_SIGN_BUSY = 1 ∧ t.sec.sign = some (signIn s))) ∧
  (∀ (s : State) (k : Fin 8) (c : Nat), s.sec.making = some (.reply k, c) → (s.ses k).exch = .signing →
    Gives (.signComplete 0) s fun t => (t.ses k).exch = .signed
      ∧ (t.ses k).reply = (s.ses k).reply ++ packWords 12 (signed s (0x44 :: transcript (s.ses k)))) ∧
  (∀ (s : State) (d : List Byte) (c : Nat), s.sec.making = some (.command, c) → s.sec.sign = some d →
    Gives (.signComplete 1) s fun t =>
    t.sec.sign = none ∧ rd t Reg.SEC.STAT_SIGN_BUSY = 0 ∧ rd t Reg.SEC.STAT_SIGN_RES = 1
      ∧ Raised t Reg.SEC.evSIGN_DONE
      ∧ ∀ k : Fin 24, rd t (Reg.SEC.SIGN_OUT_DATA k) = (packWords32 24 (signed s (0x46 :: d))).getD k 0 % 2 ^ 32)

/-- Lockstep mismatches, restarts and cache invalidation of the core pairs complete (R605 to R608). -/
def Obligations.CorePairsComplete : Prop :=
  (∀ (s : State) (n : Fin 2), rd s (Reg.CORE.STAT_STATE n) = 1 → Gives (.lockstepMismatch n) s fun t =>
    Raised t (Reg.CORE.evMISMATCH n) ∧ rd t (Reg.CORE.STAT_RUN n) = runNext s n
      ∧ rd t (Reg.CORE.CNT_MISMATCH n) = satAdd 16 (rd s (Reg.CORE.CNT_MISMATCH n)) 1
      ∧ (t.core n).lastMis = some s.time.mgt ∧ (t.core n).icache = [] ∧ (t.core n).dcache = []
      ∧ (if rd s (Reg.CORE.CTL_MAX_RUN n) ≤ runNext s n then
           rd t (Reg.CORE.STAT_STATE n) = 3 ∧ Raised t (Reg.CORE.evPAIR_HELD n)
         else rd t (Reg.CORE.STAT_STATE n) = 2)) ∧
  (∀ (s : State) (n : Fin 2), rd s (Reg.CORE.STAT_STATE n) = 2 → Gives (.coreRestartDone n) s fun t =>
    rd t (Reg.CORE.STAT_STATE n) = 1 ∧ rd t (Reg.CORE.STAT_CAUSE n) = (s.core n).cause % 4
      ∧ rd t (Reg.CORE.CNT_RESTARTS n) = satAdd 16 (rd s (Reg.CORE.CNT_RESTARTS n)) 1
      ∧ Raised t (Reg.CORE.evRESTART_DONE n)) ∧
  (∀ (s : State) (m : Fin 16) (n : Fin 2), WritePasses s m (Reg.CORE.page n) 68 1 → Gives (.coreInv m n) s fun t =>
    DoneOk t m ∧ (t.core n).icache = [] ∧ (t.core n).dcache = [])

/-! ### Frames -/

/-- The frame of the power commands (R54 to R70): besides what each names, only the fence and the serial flash port
follow a change of the fence's causes, and the ports a squelch. -/
def Obligations.PowerFrame : Prop :=
  (∀ (s : State) (r : Fin 8), Within (.all [.fence, .followAll, .regs [Reg.PWR.RAIL_STAT_FAULTED,
    Reg.PWR.FENCE_STAT_ON_HOLDUP], .raising [Reg.PWR.evRAIL_FAULT], .hidden [.pwr]]) (.railFault r) s) ∧
  (∀ (s : State) (r : Fin 8), s.boot.stage ≠ .rising → Within (.all [.fence, .regs [Reg.PWR.FENCE_STAT_ON_HOLDUP],
    .hidden [.pwr]]) (.railReturn r) s) ∧
  (∀ (s : State), Within (.all [.fence, .regs [Reg.PWR.FENCE_STAT_CAUSE_VIN], .raising [Reg.PWR.evVIN_SAG]]) .vinSag
    s) ∧
  (∀ (s : State), Within (.all [.fence, .regs [Reg.PWR.FENCE_STAT_CAUSE_VNV], .raising [Reg.PWR.evVNV_SAG]]) .vnvSag
    s) ∧
  (∀ (s : State) (vnv : Bool), Within (.all [.fence, .regs [if vnv then Reg.PWR.FENCE_STAT_CAUSE_VNV else
    Reg.PWR.FENCE_STAT_CAUSE_VIN]]) (.sagRecover vnv) s) ∧
  (∀ (s : State) (ms : BitVec 16), Within (.all [.fence, .regs [Reg.PWR.HOLDUP_BUDGET_MS, Reg.PWR.HOLDUP_VALID],
    .raising [Reg.PWR.evHOLDUP_LOW]]) (.holdupMeasured ms) s) ∧
  (∀ (s : State), Within (.all [.fence, .hidden [.pwr]]) .holdupCharged s) ∧
  (∀ (s : State) (vin : BitVec 16) (vnv : BitVec 16), Within (.regs [Reg.PWR.VIN_MEAS_MV, Reg.PWR.VNV_MEAS_MV])
    (.voltMeasUpdate vin vnv) s) ∧
  (∀ (s : State) (tj : BitVec 8), Within (.all [.followAll, .regs [Reg.PWR.THERM_TJ_MAX_C], .raising
    [Reg.PWR.evTHERM_WARN, Reg.PWR.evTHERM_CRIT], .hidden [.pwr]]) (.thermSample tj) s) ∧
  (∀ (s : State) (kind : Fin 3) (words : Nat), inRange s = true → Within (.all [.spfNext, .regs
    ([Reg.PWR.NV_LAST_KIND, Reg.PWR.NV_LAST_OUTCOME, Reg.PWR.NV_LAST_OTP_REC, Reg.PWR.NV_ADDR_OFFSET,
    Reg.OTP.STAT_BUSY, Reg.OTP.STAT_LAST, Reg.SEC.STAT_PROV_BUSY, Reg.SEC.STAT_PROV_RES, Reg.SPF.STAT_ERASE_RES] ++
    (List.range 9).map Reg.OTP.REC_STAT_NEWEST ++ (List.range 9).map Reg.OTP.REC_STAT_NVALID ++ (List.range 9).map
    Reg.OTP.REC_STAT_USED), .raising [Reg.PWR.evNV_ABANDON, Reg.OTP.evGEN_LAST, Reg.SEC.evPROV_REFUSED], .hidden
    [.otp, .sec, .otpWords, .flash, .freeCtr]]) (.nvAbandon kind words) s)

/-- The frame of the commands of the clock loop, the monitor and device time (R75 to R89, R95 to R117). -/
def Obligations.ClockFrame : Prop :=
  (∀ (s : State), Within (.all [.rootState, .followAll, .partnersLost, .regs [Reg.TIME.STAT_TRUST], .raising
    [Reg.CLK.evCLKIN_LOSS, Reg.TIME.evTRUST_LOST]]) .rootAcqTimeout s) ∧
  (∀ (s : State), Within (.all [.rootState, .followAll, .partnersLost, .regs [Reg.TIME.STAT_TRUST], .raising
    [Reg.CLK.evCLKIN_LOSS, Reg.TIME.evTRUST_LOST]]) .clkinLoss s) ∧
  (∀ (s : State), Within (.all [.rootState, .followAll, .partnersLost, .regs [Reg.TIME.STAT_TRUST], .raising
    [Reg.CLK.evCLKIN_LOSS, Reg.TIME.evTRUST_LOST]]) .rootLossOfLock s) ∧
  (∀ (s : State) (qualified : Bool), Within (.all [.rootState, .followAll, .raising [Reg.CLK.evCLKIN_RETURN]])
    (.clkinReturn qualified) s) ∧
  (∀ (s : State) (ppm : Int), Within (.all [.regs [Reg.CLK.MON_STAT_PRESENT, Reg.CLK.MON_STAT_DEV_PPM,
    Reg.CLK.MON_STAT_DRIFT], .raising [Reg.CLK.evCLKIN_DRIFT]]) (.driftWindow ppm) s) ∧
  (∀ (s : State) (pins : PinsHeld), Within (.all [.regs [Reg.CLK.TSTATE_NOW, Reg.CLK.TSTATE_RAW], .raising
    [Reg.CLK.evTSTATE_CHG, Reg.CLK.evTSTATE_INVALID]]) (.tstateAccept pins) s) ∧
  (∀ (s : State) (ps : Int), Within (.all [.regs [Reg.CLK.PSTEP_COUNT, Reg.CLK.PSTEP_LAST_PS, Reg.CLK.PSTEP_TS_AT],
    .raising [Reg.CLK.evPHASE_STEP, Reg.CLK.evPHASE_STEP_LARGE]]) (.phaseStep ps) s) ∧
  (∀ (s : State) (sub : Nat), Within (.all [.lapse, .regs [Reg.TIME.STAT_SYNC_IN_OK, Reg.TIME.STAT_PEND,
    Reg.TIME.STAT_TRUST, Reg.TIME.STAT_STEPS, Reg.TIME.SYNC_IN_INT_NS, Reg.TIME.SYNC_IN_OFS_NS,
    Reg.TIME.SYNC_IN_TS_LO_NS, Reg.TIME.SYNC_IN_TS_HI_NS, Reg.TIME.SYNC_IN_TS_FRAC_FRAC], .raising
    [Reg.TIME.evSYNC_IN_RETURN, Reg.TIME.evSYNC_IN_JUMP, Reg.TIME.evTIME_CMD_DONE], .hidden [.accu]]) (.syncInEdge
    sub) s) ∧
  (∀ (s : State), Within (.all [.lapse, .regs [Reg.TIME.STAT_SYNC_IN_OK], .raising [Reg.TIME.evSYNC_IN_MISS]])
    .syncInMiss s) ∧
  (∀ (s : State), Within (.lapse) .syncOutRise s) ∧
  (∀ (s : State), Within (.lapse) .syncOutFall s) ∧
  (∀ (s : State), Within (.all [.lapse, .regs [Reg.TIME.STAT_PEND, Reg.TIME.STAT_FAILED], .raising
    [Reg.TIME.evCMD_FAIL]]) .setAtSyncInTimeout s) ∧
  (∀ (s : State), Within (.all [.lapse, .raising [Reg.EVT0.evFAULT_RELEASE], .hidden [.evt]]) .faultNRise s)

/-- The frame of the commands of the optical front end and the converters' service (R203 to R249): besides what
each names, one port and its equaliser follow. -/
def Obligations.OpticalFrame : Prop :=
  (∀ (s : State) (p : Fin 16) (sig : Option (Int × Nat)) (lo : Option (Int × Nat)), Within (.all [.follow p, .regs
    [Reg.PORT.STAT_SIG_OK p, Reg.PORT.STAT_LO_OK p, Reg.PORT.LOS_CNT_SIG p, Reg.PORT.LOS_CNT_LO p], .raising
    [Reg.PORT.evLOS_SIG p, Reg.PORT.evLOS_LO p], .hidden [.freeCtr]]) (.lightLoss p sig lo) s) ∧
  (∀ (s : State) (p : Fin 16) (sig : Option (Int × Nat)) (lo : Option (Int × Nat)), Within (.all [.follow p, .regs
    [Reg.PORT.STAT_SIG_OK p, Reg.PORT.STAT_LO_OK p, Reg.PORT.LOS_CNT_SIG p, Reg.PORT.LOS_CNT_LO p], .raising
    [Reg.PORT.evLIGHT_RETURN p, Reg.PORT.evLOS_SIG p, Reg.PORT.evLOS_LO p]]) (.lightReturn p sig lo) s) ∧
  (∀ (s : State) (p : Fin 16) (xi : List Samp) (xq : List Samp) (yi : List Samp) (yq : List Samp), Within (.all
    [.follow p, .regs [Reg.PORT.TIA_NOW_CODES p, Reg.PORT.STAT_AGC_RAIL p], .raising [Reg.PORT.evAGC_RAIL p]])
    (.agcStep p xi xq yi yq) s) ∧
  (∀ (s : State) (p : Fin 16), Within (.all [.follow p, .regs [Reg.PORT.TIA_NOW_CODES p]]) (.gainRampStep p) s) ∧
  (∀ (s : State) (p : Fin 16), Within (.raising [Reg.PORT.evRESTART_SLOW p]) (.restartSlow p) s) ∧
  (∀ (s : State) (n : Fin 64), inRange s = true → Within (.all [.cnvService n, .raising [Reg.CNV.evREADY n,
    Reg.CNV.evCNV_FAIL n, Reg.CNV.evSLICE_FAIL n]]) (.cnvLoopLock n) s) ∧
  (∀ (s : State) (n : Fin 64) (cal : List (Int × Int × Int)) (skews : List Int), inRange s = true → Within (.all
    [.cnvService n, .follow (n.val / 4), .raising [Reg.CNV.evREADY n, Reg.CNV.evCNV_FAIL n, Reg.CNV.evSLICE_FAIL
    n]]) (.startCalDone n cal skews) s) ∧
  (∀ (s : State) (n : Fin 64), inRange s = true → Within (.all [.cnvService n, .follow (n.val / 4), .raising
    [Reg.CNV.evREADY n, Reg.CNV.evUNLOCK n, Reg.CNV.evCAL_ABANDON n]]) (.cnvUnlock n) s) ∧
  (∀ (s : State) (n : Fin 64), inRange s = true → Within (.all [.cnvService n, .follow (n.val / 4), .raising
    [Reg.CNV.evREADY n]]) (.cnvRelock n) s) ∧
  (∀ (s : State) (n : Fin 64) (ofs : Int) (gain : Int), inRange s = true → Within (.all [.cnvService n, .follow
    (n.val / 4), .raising [Reg.CNV.evREADY n, Reg.CNV.evCNV_FAIL n, Reg.CNV.evSLICE_FAIL n]]) (.puntyCalDone n ofs
    gain) s) ∧
  (∀ (s : State) (n : Fin 64) (pairs : List SeamPair) (offset : Int), inRange s = true → Within (.all [.cnvService n,
    .follow (n.val / 4), .regs [Reg.CNV.SEAM_CNT_IN_FAIL n, Reg.CNV.SEAM_CNT_OUT_FAIL n], .raising [Reg.CNV.evREADY
    n, Reg.CNV.evCNV_FAIL n, Reg.CNV.evSEAM_FAIL n, Reg.CNV.evSLICE_FAIL n]]) (.seamDecision n pairs offset) s) ∧
  (∀ (s : State) (n : Fin 64) (ofs : Int) (gain : Int) (skew : Int), inRange s = true → Within (.all [.cnvService n,
    .follow (n.val / 4), .raising [Reg.CNV.evREADY n, Reg.CNV.evCNV_FAIL n, Reg.CNV.evSLICE_FAIL n]])
    (.offlineCalDone n ofs gain skew) s) ∧
  (∀ (s : State) (n : Fin 64), inRange s = true → Within (.all [.regs ([Reg.CNV.STAT_ROT_PHASE n] ++ (List.range
    65).map (Reg.CNV.SLICE_B_STATE n)), .hidden [.cnv n]]) (.rotDwellEnd n) s) ∧
  (∀ (s : State) (n : Fin 64) (by1 : Checked) (by2 : Option Checked), inRange s = true → Within (.all [.cnvService n,
    .follow (n.val / 4), .raising [Reg.CNV.evREADY n, Reg.CNV.evCNV_FAIL n, Reg.CNV.evSLICE_FAIL n,
    Reg.CNV.evCAL_ABANDON n]]) (.sliceFault n by1 by2) s) ∧
  (∀ (s : State) (n : Fin 64), inRange s = true → Within (.all [.cnvService n, .follow (n.val / 4), .raising
    [Reg.CNV.evREADY n, Reg.CNV.evCNV_FAIL n, Reg.CNV.evSLICE_FAIL n]]) (.puntyTakesSlot n) s) ∧
  (∀ (s : State) (n : Fin 64) (cal : List (Int × Int × Int)), inRange s = true → Within (.all [.cnvService n, .follow
    (n.val / 4), .raising [Reg.CNV.evREADY n, Reg.CNV.evUNLOCK n, Reg.CNV.evCNV_FAIL n, Reg.CNV.evSLICE_FAIL n,
    Reg.CNV.evFG_DONE n]]) (.fgDone n cal) s)

/-- The frame of the commands of acquisition, banks, guard, snapshots and statistics (R250 to R339). -/
def Obligations.EqualiserFrame : Prop :=
  (∀ (s : State) (e : PortFreq), Within (.all [.regs [Reg.EQ.STAT_STATE e.port, Reg.EQ.STAT_ACQ e.port,
    Reg.EQ.STAT_CD_BANK e.port, Reg.EQ.STAT_BF_BANK e.port, Reg.EQ.STAT_CD_FADE e.port, Reg.EQ.STAT_BF_FADE e.port,
    Reg.EQ.STAT_CD_PEND e.port, Reg.EQ.STAT_BF_PEND e.port, Reg.EQ.STAT_GUARD e.port, Reg.EQ.CD_NOW_PSNM e.port,
    Reg.EQ.CD_BANK_A_PSNM e.port, Reg.EQ.CD_BANK_B_PSNM e.port, Reg.EQ.BF_STAT_STANDBY_EMPTY e.port,
    Reg.EQ.FADE_CD_POS e.port, Reg.EQ.FADE_BF_POS e.port, Reg.EQ.ANN_CNT_DONE e.port], .raising
    [Reg.EQ.evCD_FADE_DONE e.port, Reg.EQ.evBF_FADE_DONE e.port], .hidden [.eq e.port]]) (.eqFreqDone e) s) ∧
  (∀ (s : State) (r : PortRun), Within (.all [.follow r.port, .hidden [.freeCtr]]) (.eqBlindDone r) s) ∧
  (∀ (s : State) (p : Fin 16) (sync : PilotSync) (run : EqRun), Within (.all [.follow p, .regs [Reg.EQ.ACQ_US_US p,
    Reg.EQ.STAT_POL_SWAP p], .raising [Reg.EQ.evACQ_DONE p], .hidden [.freeCtr, .soft p]]) (.acqDone p sync run) s) ∧
  (∀ (s : State) (p : Fin 16), Within (.all [.follow p, .regs [Reg.EQ.LOCK_CNT_RETRY p], .raising [Reg.EQ.evACQ_RETRY
    p]]) (.acqRetry p) s) ∧
  (∀ (s : State) (w : PilotWindow), Within (.all [.follow w.port, .regs [Reg.EQ.LOCK_CNT_LOST w.port], .raising
    [Reg.EQ.evLOCK_LOST w.port]]) (.lockLost w) s) ∧
  (∀ (s : State) (p : Fin 16) (bads : List (Fin 5)), Within (.all [.dma, .regs [Reg.EQ.STAT_BF_BANK p,
    Reg.EQ.STAT_BF_FADE p, Reg.EQ.STAT_BF_PEND p, Reg.EQ.BF_STAT_REFUSE p, Reg.EQ.BF_STAT_STANDBY_EMPTY p,
    Reg.EQ.ANN_CNT_REFUSED p], .raising [Reg.EQ.evBANK_REFUSED p], .hidden [.eq p]]) (.bfLoadDone p bads) s) ∧
  (∀ (s : State) (r : PortRun), Within (.all [.follow r.port, .hidden [.eq r.port, .soft r.port, .tstat r.port,
    .freeCtr]]) (.cdFadeBegin r) s) ∧
  (∀ (s : State) (r : PortRun), Within (.all [.follow r.port, .hidden [.freeCtr, .eq r.port, .soft r.port, .tstat
    r.port, .freeCtr]]) (.bfFadeBegin r) s) ∧
  (∀ (s : State) (bf : Bool) (r : PortRun), Within (.all [.follow r.port, .hidden [.eq r.port, .soft r.port, .tstat
    r.port, .freeCtr]]) (.fadeBlock bf r) s) ∧
  (∀ (s : State) (r : PortRun), Within (.all [.regs [Reg.EQ.STAT_CD_BANK r.port, Reg.EQ.STAT_CD_FADE r.port,
    Reg.EQ.STAT_CD_PEND r.port, Reg.EQ.CD_NOW_PSNM r.port, Reg.EQ.CD_BANK_A_PSNM r.port, Reg.EQ.CD_BANK_B_PSNM
    r.port, Reg.EQ.FADE_CD_POS r.port, Reg.EQ.ANN_CNT_DONE r.port], .raising [Reg.EQ.evCD_FADE_DONE r.port],
    .hidden [.eq r.port, .eq r.port, .soft r.port, .tstat r.port, .freeCtr]]) (.cdFadeDone r) s) ∧
  (∀ (s : State) (r : PortRun), Within (.all [.regs [Reg.EQ.STAT_BF_BANK r.port, Reg.EQ.STAT_BF_FADE r.port,
    Reg.EQ.STAT_BF_PEND r.port, Reg.EQ.BF_STAT_STANDBY_EMPTY r.port, Reg.EQ.FADE_BF_POS r.port, Reg.EQ.ANN_CNT_DONE
    r.port], .raising [Reg.EQ.evBF_FADE_DONE r.port], .hidden [.eq r.port, .eq r.port, .soft r.port, .tstat r.port,
    .freeCtr]]) (.bfFadeDone r) s) ∧
  (∀ (s : State) (r : PortRun), Within (.all [.follow r.port, .regs [Reg.EQ.GUARD_CNT_ENTER r.port,
    Reg.EQ.GUARD_CNT_WIN r.port], .raising [Reg.EQ.evGUARD_ON r.port, Reg.EQ.evGUARD_OFF r.port], .hidden
    [.freeCtr, .eq r.port, .soft r.port, .tstat r.port, .freeCtr]]) (.guardWindow r) s) ∧
  (∀ (s : State) (r : PortRun), Within (.all [.dma, .regs [Reg.EQ.STAT_SNAP_BUSY r.port, Reg.EQ.BF_STAT_SNAP_ERR
    r.port], .raising [Reg.EQ.evSNAP_DONE r.port, Reg.EQ.evSNAP_FAIL r.port], .hidden [.dram, .eq r.port, .eq
    r.port, .soft r.port, .tstat r.port, .freeCtr]]) (.snapDone r) s) ∧
  (∀ (s : State) (r : PortRun), Within (.all [.regs [Reg.EQ.STAT_CD_BANK r.port, Reg.EQ.STAT_CD_PEND r.port,
    Reg.EQ.CD_NOW_PSNM r.port, Reg.EQ.CD_BANK_A_PSNM r.port, Reg.EQ.CD_BANK_B_PSNM r.port], .hidden [.eq r.port,
    .eq r.port, .soft r.port, .tstat r.port, .freeCtr]]) (.cdSwapAtBlockBoundary r) s) ∧
  (∀ (s : State) (p : Fin 16) (xi : List Samp) (xq : List Samp) (yi : List Samp) (yq : List Samp), Within (.all
    ([.lapse] ++ ((List.range 4).map (fun l => Scope.cnvStats (4 * p + l))))) (.tstatWindowEnd p xi xq yi yq) s) ∧
  (∀ (s : State) (p : Fin 16) (est : Estimates), Within (.all [.regs ([Reg.TSTAT.BER_NLOG p, Reg.TSTAT.BER_Q p,
    Reg.TSTAT.CD_COMP_PSNM p, Reg.TSTAT.CD_RES_PSNM p, Reg.TSTAT.DGD_PDL_DGD p, Reg.TSTAT.DGD_PDL_PDL p,
    Reg.TSTAT.EST_VALID_VALID p, Reg.TSTAT.FOFS_MEAN_MHZ p, Reg.TSTAT.FOFS_SPAN_MHZ p, Reg.TSTAT.IQ_AMP_X p,
    Reg.TSTAT.IQ_AMP_Y p, Reg.TSTAT.LAST_END_HI_NS p, Reg.TSTAT.LAST_END_LO_NS p, Reg.TSTAT.LAST_START_HI_NS p,
    Reg.TSTAT.LAST_START_LO_NS p, Reg.TSTAT.OSNR_OSNR p, Reg.TSTAT.OSNR_SNR p, Reg.TSTAT.PCNT_COUNT p,
    Reg.TSTAT.PERR_X_COUNT p, Reg.TSTAT.PERR_Y_COUNT p, Reg.TSTAT.QUAD_X p, Reg.TSTAT.QUAD_Y p,
    Reg.TSTAT.REP_SKIP_COUNT p, Reg.TSTAT.SOP_MAX_KRADS p, Reg.TSTAT.SOP_MEAN_KRADS p, Reg.TSTAT.WIN_FLAGS_FADE p,
    Reg.TSTAT.WIN_FLAGS_GUARD p, Reg.TSTAT.WIN_FLAGS_NOTRACK p, Reg.TSTAT.WIN_FLAGS_SQ p,
    Reg.TSTAT.WIN_FLAGS_STEPPED p, Reg.TSTAT.WIN_FLAGS_TRUST p, Reg.TSTAT.WIN_SEQ_SEQ p] ++ (((List.range
    4).flatMap fun l => (List.range 64).flatMap fun k => [Reg.TSTAT.SLICE_OFS_DEV p l k, Reg.TSTAT.SLICE_GAIN_DEV p
    l k, Reg.TSTAT.SLICE_SKEW_DEV p l k, Reg.TSTAT.SLICE_VALID p l k]))), .raising [Reg.TSTAT.evWIN_DONE p,
    Reg.TSTAT.evWIN_STEPPED p, Reg.TSTAT.evREPORT_SKIP p, Reg.TSTAT.evREPORT_ERR p], .hidden [.tstat p, .sec,
    .freeCtr]]) (.tstatWinDone p est) s)

/-- The frame of the commands of the precision monitor (R343 to R400). -/
def Obligations.MonitorFrame : Prop :=
  (∀ (s : State), Within (.all [.seqRun, .raising [Reg.SEQ.evENTRY_BAD, Reg.SEQ.evENTRY_DEAD, Reg.SEQ.evPASS_DONE,
    Reg.SEQ.evSEQ_STOP]]) .seqEntryCurrent s) ∧
  (∀ (s : State) (c : Fin 24), Within (.all [.seqRun, .raising [Reg.SEQ.evLATE, Reg.SEQ.evPASS_DONE,
    Reg.SEQ.evSEQ_STOP]]) (.sampleStart c) s) ∧
  (∀ (s : State) (c : Fin 24) (v : Int) (partner : Int), Within (.all [.seqRun, .regs (((List.range 24).flatMap fun k
    => [Reg.PCV.CHK_CNT_MISMATCH k, Reg.PCV.CHK_CNT_PASS k, Reg.PCV.CONV_CNT_COUNT k, Reg.PCV.STAT_MISMATCH k,
    Reg.PCV.STAT_SUSPECT k])), .raising ([Reg.SEQ.evCLASS_FORCE, Reg.SEQ.evENTRY_DEAD, Reg.SEQ.evINJ_DONE,
    Reg.SEQ.evPASS_DONE, Reg.SEQ.evSEQ_STOP] ++ ((List.range 24).flatMap fun k => [Reg.PCV.evCHK_MISMATCH k])),
    .hidden ([.accu, .ringQ] ++ (List.range 48).map Part.filt)]) (.conversionBoundary c v partner) s) ∧
  (∀ (s : State) (t : Fin 16), Within (.seqRun) (.timerEvent t) s) ∧
  (∀ (s : State) (o : Fin 64), Within (.all [.seqRun, .regs ([Reg.PWM.DUTY_NOW_NOW o, Reg.PWM.DUTY_NOW_CLAMPED o,
    Reg.PWM.DUTY_NOW_RAMPING o] ++ ((List.range 16).flatMap fun p => [Reg.PORT.HTR_LIM_LIM0 p,
    Reg.PORT.HTR_LIM_LIM1 p, Reg.PORT.HTR_LIM_LIM2 p, Reg.PORT.HTR_LIM_LIM3 p])), .raising (((List.range
    16).flatMap fun p => [Reg.PORT.evHTR_CLAMP p])), .hidden [.pwm o]]) (.pwmPeriodStart o) s) ∧
  (∀ (s : State) (o : Fin 64), Within (.all [.seqRun, .hidden [.pwm o]]) (.pwmFallTrigger o) s) ∧
  (∀ (s : State) (c : Option (Fin 24)), Within (.all [.seqRun, .raising [Reg.SEQ.evTRIG_MISS, Reg.SEQ.evENTRY_DEAD,
    Reg.SEQ.evINJ_DONE, Reg.SEQ.evPASS_DONE, Reg.SEQ.evSEQ_STOP]]) (.trigTimeout c) s) ∧
  (∀ (s : State) (c : Fin 24), Within (.all [.lapse, .regs [Reg.PCV.STAT_CAL_PEND c]]) (.pcvCalPeriodic c) s) ∧
  (∀ (s : State) (c : Fin 24), Within (.all [.regs [Reg.PCV.STAT_STATE c, Reg.PCV.STAT_CAL_PEND c], .hidden [.pcv
    c]]) (.pcvCalStart c) s) ∧
  (∀ (s : State) (c : Fin 24) (found : List (Int × Int)), Within (.all [.seqRun, .pcvState, .regs
    [Reg.PCV.CAL_RES_OFS c, Reg.PCV.CAL_RES_GAIN c], .raising ([Reg.SEQ.evENTRY_DEAD, Reg.SEQ.evINJ_DONE,
    Reg.SEQ.evPASS_DONE, Reg.SEQ.evSEQ_STOP] ++ ((List.range 24).flatMap fun k => [Reg.PCV.evCAL_DONE k,
    Reg.PCV.evREADY k, Reg.PCV.evPCV_FAIL k, Reg.PCV.evTAKEOVER k]))]) (.pcvCalEnd c found) s) ∧
  (∀ (s : State) (c : Fin 24), Within (.all [.seqRun, .pcvState, .raising ([Reg.SEQ.evENTRY_DEAD, Reg.SEQ.evINJ_DONE,
    Reg.SEQ.evPASS_DONE, Reg.SEQ.evSEQ_STOP] ++ ((List.range 24).flatMap fun k => [Reg.PCV.evPCV_FAIL k,
    Reg.PCV.evTAKEOVER k]))]) (.convTimeout c) s) ∧
  (∀ (s : State) (k : Fin 12) (ref0 : List Int) (gnd0 : List Int) (ref1 : List Int) (gnd1 : List Int), Within (.all
    [.seqRun, .pcvState, .regs (((List.range 24).flatMap fun c => [Reg.PCV.CONV_CNT_COUNT c])), .raising
    ([Reg.SEQ.evENTRY_DEAD, Reg.SEQ.evINJ_DONE, Reg.SEQ.evPASS_DONE, Reg.SEQ.evSEQ_STOP] ++ ((List.range
    24).flatMap fun c => [Reg.PCV.evPCV_FAIL c, Reg.PCV.evTAKEOVER c, Reg.PCV.evCHK_UNRESOLVED c]))]) (.refereeDone
    k ref0 gnd0 ref1 gnd1) s) ∧
  (∀ (s : State) (bads : Fin 5), inRange s = true → Within (.all [.dma, .regs (((List.range 16).flatMap fun r =>
    [Reg.RING.WR_COUNT r, Reg.RING.DROP_COUNT r, Reg.RING.RSTAT_FULL r])), .raising (((List.range 16).flatMap fun r
    => [Reg.RING.evRING_FULL r, Reg.RING.evRING_ERR r])), .hidden [.dram, .ringQ]]) (.ringRecordWrite bads) s) ∧
  (∀ (s : State), Within (.all [.lapse, .hidden [.accu]]) .accuWindowEnd s) ∧
  (∀ (s : State), Within (.all [.regs ([Reg.ACCU.WIN_SEQ_SEQ, Reg.ACCU.WIN_FLAGS_TRUST, Reg.ACCU.WIN_FLAGS_STEPPED,
    Reg.ACCU.LAST_END_LO_NS, Reg.ACCU.LAST_END_HI_NS] ++ ((List.range 64).flatMap fun a => [Reg.ACCU.N_COUNT a,
    Reg.ACCU.SUM_LO_SUM a, Reg.ACCU.SUM_HI_SUM a, Reg.ACCU.SUMSQ_LO_SUMSQ a, Reg.ACCU.SUMSQ_HI_SUMSQ a,
    Reg.ACCU.MIN_VALUE a, Reg.ACCU.MAX_VALUE a, Reg.ACCU.FLAGS_OR a, Reg.ACCU.FLAGS_COVER a, Reg.ACCU.FLAGS_LATE a,
    Reg.ACCU.FLAGS_SPARSE a, Reg.ACCU.FLAGS_SAT a])), .raising [Reg.ACCU.evWIN_DONE, Reg.ACCU.evACCU_SAT], .hidden
    [.accu]]) .accuWinDone s) ∧
  (∀ (s : State) (n : Fin 48) (bads : Fin 5), Within (.all [.dma, .regs ([Reg.FILT.STAT_STATE n, Reg.FILT.STAT_BANK
    n, Reg.FILT.STAT_FADE n, Reg.FILT.STAT_FADE_POS n, Reg.FILT.STAT_PEND n, Reg.FILT.STAT_STANDBY_EMPTY n,
    Reg.FILT.STAT_UP_ARMED n, Reg.FILT.STAT_LO_ARMED n, Reg.FILT.STAT_TONE_PRESENT n, Reg.FILT.LAST_VAL_VALUE n,
    Reg.FILT.LAST_TS_LO_NS n, Reg.FILT.LAST_TS_HI_NS n, Reg.FILT.TONE_MAG_MAG n, Reg.FILT.TONE_PHASE_PHASE n,
    Reg.FILT.TONE_SEQ_SEQ n, Reg.FILT.CNT_GAP n, Reg.FILT.CNT_SAT n, Reg.FILT.ANN_CNT_DONE n] ++ ((List.range
    48).flatMap fun k => [Reg.FILT.STAT_PAR_STATE k, Reg.FILT.PAR_WR_COUNT k, Reg.FILT.CNT_PAR_IGN k,
    Reg.FILT.CNT_PAR_SKIP k])), .raising ([Reg.FILT.evRUN n, Reg.FILT.evFADE_DONE n, Reg.FILT.evINPUT_GAP n,
    Reg.FILT.evSTAGE_SAT n, Reg.FILT.evTHR_UPPER n, Reg.FILT.evTHR_LOWER n, Reg.FILT.evTONE_ON n,
    Reg.FILT.evTONE_OFF n] ++ ((List.range 48).flatMap fun k => [Reg.FILT.evPAR_DONE k, Reg.FILT.evPAR_ERR k,
    Reg.FILT.evPAR_SKIP k])), .hidden ([.dram] ++ (List.range 48).map Part.filt)]) (.filtInput n bads) s) ∧
  (∀ (s : State) (n : Fin 48) (bads : List (Fin 5)), Within (.all [.dma, .regs [Reg.FILT.STAT_BANK n,
    Reg.FILT.STAT_FADE n, Reg.FILT.STAT_FADE_POS n, Reg.FILT.STAT_PEND n, Reg.FILT.STAT_REFUSE n,
    Reg.FILT.STAT_STANDBY_EMPTY n, Reg.FILT.ANN_CNT_REFUSED n], .raising [Reg.FILT.evBANK_REFUSED n], .hidden
    [.filt n]]) (.filtLoadDone n bads) s) ∧
  (∀ (s : State) (n : Fin 48) (bads : Fin 5), Within (.all [.dma, .regs [Reg.FILT.OUT_WR_COUNT n,
    Reg.FILT.OUT_DROP_COUNT n], .raising [Reg.FILT.evOUT_FULL n, Reg.FILT.evOUT_ERR n], .hidden [.dram, .filt n]])
    (.outRecordWrite n bads) s)

/-- The frame of the commands of the soft output and the lanes (R297 to R324, R433 to R466). -/
def Obligations.HerdFrame : Prop :=
  (∀ (s : State) (r : PortRun), Within (.all [.softBudget r.port, .regs [Reg.SOFT.STAT_STATE r.port,
    Reg.SOFT.STAT_EPOCH r.port, Reg.SOFT.STAT_FMT_NOW r.port, Reg.SOFT.STAT_MOD_NOW r.port, Reg.SOFT.STAT_NOLOCK_IN
    r.port, Reg.SOFT.SYMCNT_LO_COUNT r.port, Reg.SOFT.SYMCNT_HI_COUNT r.port], .raising [Reg.SOFT.evSTREAM_START
    r.port], .hidden [.eq r.port, .soft r.port, .tstat r.port, .freeCtr]]) (.streamStart r) s) ∧
  (∀ (s : State) (r : PortRun), Within (.all [.softBudget r.port, .regs [Reg.SOFT.STAT_STATE r.port,
    Reg.SOFT.MSG_CNT_COUNT r.port, Reg.SOFT.MARK_CNT_COUNT r.port, Reg.SOFT.DROP_CNT_COUNT r.port,
    Reg.SOFT.SYMCNT_LO_COUNT r.port, Reg.SOFT.SYMCNT_HI_COUNT r.port], .raising [Reg.SOFT.evSTREAM_END r.port,
    Reg.SOFT.evSHAPE_UNIFORM r.port, Reg.SOFT.evHERD_DISCARD r.port], .hidden [.link r.port, .line r.port,
    .emitted, .eq r.port, .soft r.port, .tstat r.port, .freeCtr]]) (.streamDataMessage r) s) ∧
  (∀ (s : State) (p : Fin 16), Within (.all [.regs [Reg.SOFT.MARK_CNT_COUNT p, Reg.SOFT.DROP_CNT_COUNT p], .raising
    [Reg.SOFT.evHERD_DISCARD p], .hidden [.soft p, .link p, .line p, .emitted]]) (.markMessage p) s) ∧
  (∀ (s : State) (p : Fin 16), Within (.all [.regs [Reg.SOFT.STAT_STATE p, Reg.SOFT.STAT_SQ_IN p,
    Reg.SOFT.SYMCNT_LO_COUNT p, Reg.SOFT.SYMCNT_HI_COUNT p, Reg.SOFT.MARK_CNT_COUNT p, Reg.SOFT.DROP_CNT_COUNT p],
    .raising [Reg.SOFT.evHERD_DISCARD p, Reg.SOFT.evSTREAM_END p], .hidden [.soft p, .link p, .line p, .emitted]])
    (.squelchRequest p) s) ∧
  (∀ (s : State) (w : EqWord), Within (.all [.regs [Reg.SOFT.STAT_STATE w.port, Reg.SOFT.STAT_NOLOCK_IN w.port,
    Reg.SOFT.MARK_CNT_COUNT w.port, Reg.SOFT.DROP_CNT_COUNT w.port], .raising [Reg.SOFT.evHERD_DISCARD w.port,
    Reg.SOFT.evSTREAM_END w.port], .hidden [.soft w.port, .link w.port, .line w.port, .emitted]])
    (.eqWordWithNolock w) s) ∧
  (∀ (s : State) (h : Fin 17) (j : Fin 4), Within (.regs [Reg.HERD.LANE_RX_BLK h j, Reg.HERD.LANE_RX_CDR h j,
    Reg.HERD.LANE_RX_SIG h j]) (.rxBlockLock h j) s) ∧
  (∀ (s : State) (h : Fin 17) (j : Fin 4) (hdr : Word64) (w : Word64) (gap : Bool), inRange s = true → Within (.all
    [.linkOut h, .leaving h, .softBudget h, .regs ([Reg.HERD.CNT_REQ_REF h, Reg.LINK0.HL_CNT_HDR_ERR h] ++
    (List.range 19).map (Reg.HERD.LANE_COEF_TAPS h) ++ (List.range 19).map (Reg.HERD.LANE_TX_SEQ h)), .raising
    [Reg.HERD.evLANE_READY h, Reg.HERD.evREQ_REFUSED h, Reg.HERD.evTRAIN_FAIL h, Reg.HERD.evALIGN_FAIL h,
    Reg.HERD.evHERD_DOWN h, Reg.HERD.evLANE_FAIL h, Reg.HERD.evNO_SPARE h, Reg.LINK0.evHDR_ERR], .hidden [.herd
    h]]) (.trainRequest h j hdr w gap) s) ∧
  (∀ (s : State) (h : Fin 17) (j : Fin 4) (hdr : Word64) (w : Word64) (gap : Bool), inRange s = true → Within (.all
    [.leaving h, .linkOut h, .regs ([Reg.LINK0.HL_CNT_REPLAY h, Reg.LINK0.HL_CNT_HDR_ERR h] ++ (List.range 19).map
    (Reg.HERD.LANE_COEF_TAPS h)), .raising [Reg.HERD.evLANE_READY h, Reg.HERD.evHERD_UP h, Reg.HERD.evHERD_DOWN h,
    Reg.LINK0.evREPLAY h, Reg.LINK0.evHDR_ERR], .hidden [.herd h]]) (.trainState h j hdr w gap) s) ∧
  (∀ (s : State) (h : Fin 17) (j : Fin 4) (hdr : Word64) (w : Word64) (gap : Bool), inRange s = true → Within (.all
    [.herdMaps h, .regs ([Reg.LINK0.HL_CNT_HDR_ERR h] ++ (List.range 19).map (Reg.HERD.LANE_COEF_TAPS h)), .raising
    [Reg.HERD.evLANE_READY h, Reg.LINK0.evHDR_ERR], .hidden [.herd h]]) (.trainMap h j hdr w gap) s) ∧
  (∀ (s : State) (h : Fin 17), inRange s = true → Within (.all [.linkOut h, .herdMaps h, .softBudget h, .raising
    [Reg.HERD.evTRAIN_FAIL h, Reg.HERD.evLANE_FAIL h]]) (.trainTimeout h) s) ∧
  (∀ (s : State) (h : Fin 17), inRange s = true → Within (.all [.herdMaps h, .raising [Reg.HERD.evALIGN_FAIL h]])
    (.alignTimeout h) s) ∧
  (∀ (s : State) (h : Fin 17), Within (.all [.regs [Reg.HERD.STAT_ABSENT h, Reg.HERD.CNT_RETRY h], .raising
    [Reg.HERD.evPARTNER_ABSENT h]]) (.partnerAbsent h) s) ∧
  (∀ (s : State) (h : Fin 17), inRange s = true → Within (.all [.herdMaps h, .raising [Reg.HERD.evPARTNER_SILENT h]])
    (.partnerSilent h) s) ∧
  (∀ (s : State) (h : Fin 17) (lanes : Nat), inRange s = true → Within (.all [.leaving h, .regs ((List.range 4).map
    (Reg.HERD.LANE_RX_SIG h)), .raising [Reg.HERD.evRX_LOS h, Reg.HERD.evALIGN_FAIL h, Reg.HERD.evHERD_DOWN h,
    Reg.HERD.evLANE_FAIL h, Reg.HERD.evNO_SPARE h], .hidden [.emitted]]) (.rxLos h lanes) s) ∧
  (∀ (s : State) (h : Fin 17) (j : Fin 4), Within (.regs [Reg.HERD.LANE_RX_SIG h j]) (.rxSignalReturn h j) s) ∧
  (∀ (s : State) (h : Fin 17) (lanes : Nat) (cdr : Bool), inRange s = true → Within (.all [.leaving h, .raising
    [Reg.HERD.evRX_LOL h, Reg.HERD.evALIGN_FAIL h, Reg.HERD.evHERD_DOWN h, Reg.HERD.evLANE_FAIL h,
    Reg.HERD.evNO_SPARE h], .hidden [.emitted]]) (.rxLol h lanes cdr) s) ∧
  (∀ (s : State) (h : Fin 17) (j : Fin 4) (levels : List Nat) (blocks : List RxBlock), inRange s = true → Within
    (.all [.regs [Reg.HERD.LANE_RX_ADAPT_HOLD h j, Reg.HERD.LANE_RX_BLK_ERR h j], .raising [Reg.HERD.evADAPT_HOLD
    h], .hidden [.herd h, .freeCtr]]) (.adaptWindow h j levels blocks) s) ∧
  (∀ (s : State) (h : Fin 17) (j : Fin 4) (e0 : EyeScan) (e1 : EyeScan) (e2 : EyeScan), Within (.all [.regs
    ((((List.range 3).flatMap fun e => [Reg.HERD.EYE_RES_HEIGHT h j e, Reg.HERD.EYE_RES_WIDTH h j e,
    Reg.HERD.EYE_RES_SCANS h j e, Reg.HERD.EYE_RES_VALID h j e]))), .raising [Reg.HERD.evMARGIN_LOW h], .hidden
    [.herd h]]) (.eyeScanDone h j e0 e1 e2) s) ∧
  (∀ (s : State) (h : Fin 17) (lanes : Nat), inRange s = true → Within (.all [.linkOut h, .leaving h, .softBudget h,
    .raising [Reg.HERD.evTRAIN_FAIL h, Reg.HERD.evALIGN_FAIL h, Reg.HERD.evHERD_DOWN h, Reg.HERD.evLANE_FAIL h,
    Reg.HERD.evNO_SPARE h]]) (.txLaneFault h lanes) s) ∧
  (∀ (s : State) (h : Fin 17), inRange s = true → Within (.all [.leaving h, .linkOut h, .softBudget h, .regs
    [Reg.HERD.CNT_FAILOVER h, Reg.LINK0.HL_CNT_REPLAY h], .raising [Reg.HERD.evFAILOVER_DONE h,
    Reg.HERD.evHERD_DOWN h, Reg.HERD.evNO_SPARE h, Reg.LINK0.evREPLAY h]]) (.switchMarker h) s) ∧
  (∀ (s : State) (h : Fin 17) (lane : Fin 19) (ret : Bool), inRange s = true → Within (.all [.regs
    ([Reg.HERD.LANE_TX_ROLE h lane, Reg.HERD.LANE_TX_DONE h lane, Reg.HERD.LANE_TX_CAUSE h lane] ++ (if lane.val <
    4 then [Reg.HERD.LANE_RX_ROLE h lane, Reg.HERD.LANE_RX_CAUSE h lane] else [])), .raising [Reg.HERD.evLANE_FAIL
    h], .hidden [.herd h, .line h]]) (.laneTestTimeout h lane ret) s) ∧
  (∀ (s : State) (h : Fin 17) (blocks : List RxBlock), Within (.all [.linkOut h, .regs [Reg.HERD.STAT_STATE h,
    Reg.LINK0.HL_CNT_REPLAY h], .raising [Reg.HERD.evHERD_UP h, Reg.LINK0.evREPLAY h], .hidden [.herd h]])
    (.returnLanesDeskewed h blocks) s)

/-- The frame of the messages, the key exchanges and the sessions (R467 to R505). -/
def Obligations.LinkFrame : Prop :=
  (∀ (s : State) (h : Fin 17) (gap : Bool) (hdr : Word64) (w1 : Word64), Within (.all ([.linkOut h, .regs
    [Reg.LINK0.HL_BUF_PEER_EPOCH h, Reg.LINK0.HL_CNT_HDR_ERR h, Reg.LINK0.HL_CNT_REPLAY h], .raising
    [Reg.LINK0.evHDR_ERR, Reg.LINK0.evPEER_RESET, Reg.LINK0.evREPLAY h]] ++ ((List.range 8).map Scope.sesState)))
    (.msgCredit h gap hdr w1) s) ∧
  (∀ (s : State) (h : Fin 17) (gap : Bool) (hdr : Word64) (w1 : Word64) (more : List Word64) (tag : List Byte),
    Within (.all ([.linkOut h, .regs ([Reg.LINK0.HL_CNT_HDR_ERR h, Reg.LINK0.HL_ERR_GCM_FAIL h,
    Reg.LINK1.SES_CNT_GCM_RUN (hSlot hdr.toNat)] ++ (List.range 19).map (Reg.HERD.TX_MARGIN_HEIGHT h) ++
    (List.range 19).map (Reg.HERD.TX_MARGIN_WIDTH h) ++ (List.range 19).map (Reg.HERD.TX_MARGIN_VALID h)), .raising
    [Reg.LINK0.evHDR_ERR, Reg.LINK1.evGCM_FAIL, Reg.LINK2.evMARGIN_IGNORED], .hidden [.freeCtr]] ++ ((List.range
    8).map Scope.sesState))) (.msgTelemMargin h gap hdr w1 more tag) s) ∧
  (∀ (s : State) (k : Fin 8), inRange s = true → Within (.all [.linkOut (sesHerd s k), .hidden [.evt]])
    (.eventMessage k) s) ∧
  (∀ (s : State) (k : Fin 8), inRange s = true → Within (.all [.linkOut (sesHerd s k), .hidden [.ses k]])
    (.telemReportMessage k) s) ∧
  (∀ (s : State) (h : Fin 17), Within (.all [.regs [Reg.LINK0.HL_ERR_NAK_TX h], .hidden [.link h, .line h,
    .emitted]]) (.creditInterval h) s) ∧
  (∀ (s : State) (h : Fin 17), Within (.all [.linkOut h, .regs [Reg.LINK0.HL_CNT_REPLAY h], .raising
    [Reg.LINK0.evREPLAY h]]) (.replayTimeout h) s) ∧
  (∀ (s : State) (h : Fin 17) (gap : Bool) (hdr : Word64) (w1 : Word64) (words : List Word64) (auth : List Word64),
    Within (.all ([.linkOut h, .regs [Reg.LINK0.HL_CNT_HDR_ERR h, Reg.LINK0.HL_ERR_GCM_FAIL h,
    Reg.LINK1.SES_STAT_HERD (hSlot hdr.toNat), Reg.LINK1.SES_STAT_AUTH (hSlot hdr.toNat), Reg.LINK1.SES_CNT_GCM_RUN
    (hSlot hdr.toNat)], .raising [Reg.LINK0.evHDR_ERR, Reg.LINK1.evGCM_FAIL], .hidden [.freeCtr]] ++ ((List.range
    8).map Scope.sesState))) (.keyxInit h gap hdr w1 words auth) s) ∧
  (∀ (s : State) (k : Fin 8), inRange s = true → Within (.all [.linkOut (sesHerd s k), .hidden [.ses k]]) (.keyxReply
    k) s) ∧
  (∀ (s : State) (h : Fin 17) (gap : Bool) (hdr : Word64) (words : List Word64), Within (.all ([.linkOut h, .regs
    [Reg.LINK0.HL_CNT_HDR_ERR h, Reg.LINK0.HL_ERR_GCM_FAIL h, Reg.LINK1.SES_CNT_GCM_RUN (hSlot hdr.toNat)],
    .raising [Reg.LINK0.evHDR_ERR, Reg.LINK1.evGCM_FAIL], .hidden [.freeCtr]] ++ ((List.range 8).map
    Scope.sesState))) (.keyxFinish h gap hdr words) s) ∧
  (∀ (s : State) (h : Fin 17) (k : Fin 8), inRange s = true → Within (.all [.linkOut (sesHerd s k), .sesState k,
    .regs [Reg.LINK1.SES_CNT_GCM_RUN k, Reg.LINK1.SES_CNT_UPS k], .raising [Reg.LINK1.evSES_UP k]]) (.keyxAccept h
    k) s) ∧
  (∀ (s : State) (k : Fin 8), inRange s = true → Within (.all [.linkOut (sesHerd s k), .sesState k]) (.keyxTimeout k)
    s) ∧
  (∀ (s : State) (h : Fin 17) (gap : Bool) (hdr : Word64) (w1 : Word64) (more : List Word64) (tag : List Byte),
    Within (.all ([.linkOut h, .regs [Reg.LINK0.HL_CNT_HDR_ERR h, Reg.LINK0.HL_ERR_GCM_FAIL h,
    Reg.LINK1.SES_CNT_GCM_RUN (hSlot hdr.toNat)], .raising [Reg.LINK0.evHDR_ERR, Reg.LINK1.evGCM_FAIL], .hidden
    [.freeCtr]] ++ ((List.range 8).map Scope.sesState))) (.keyxEnd h gap hdr w1 more tag) s) ∧
  (∀ (s : State) (k : Fin 8), inRange s = true → Within (.all [.linkOut (sesHerd s k), .sesState k]) (.sessionIdle k)
    s) ∧
  (∀ (s : State) (n : Fin 2), inRange s = true → Within (.all ([.regs [Reg.CORE.STAT_STATE n, Reg.CORE.STAT_RUN n,
    Reg.CORE.CNT_MISMATCH n], .raising [Reg.CORE.evMISMATCH n, Reg.CORE.evPAIR_HELD n], .hidden [.core n, .waiting,
    .commits, .memc, .spf]] ++ ((List.range 8).map (fun k => (Scope.linkOut (sesHerd s k)).and (.sesState k)))))
    (.lockstepMismatch n) s) ∧
  (∀ (s : State) (n : Fin 2), Within (.all [.regs [Reg.CORE.STAT_STATE n, Reg.CORE.STAT_CAUSE n,
    Reg.CORE.CNT_RESTARTS n], .raising [Reg.CORE.evRESTART_DONE n]]) (.coreRestartDone n) s)

/-- The frame of the stacked memory's own commands, the serial ports' and the security block's (R507 to R592): what
each names, and the completions it delivers. -/
def Obligations.MemoryFrame : Prop :=
  (∀ (s : State) (bad : Bool), Within (.all [.dramUse, .hidden ([.dram, .spm] ++ (List.range 16).map Part.done ++
    (List.range 8).map Part.ses)]) (.dramRefetch bad) s) ∧
  (∀ (s : State) (bads : Fin 5), Within (.all [.dramUse, .regs [Reg.MEMC.SCRUB_POS_LINE, Reg.MEMC.SCRUB_BAD_LINE,
    Reg.MEMC.SCRUB_BAD_VALID, Reg.MEMC.SCRUB_STAT_BAD, Reg.MEMC.SCRUB_STAT_PASSES, Reg.MEMC.STAT_SCRUB_RUN],
    .raising [Reg.MEMC.evSCRUB_BAD, Reg.MEMC.evSCRUB_PASS]]) (.scrubLine bads) s) ∧
  (∀ (s : State) (bads : Fin 5), Within (.all [.dma, .regs [Reg.EVT1.LOG_WR_COUNT, Reg.EVT1.LOG_STAT_FULL,
    Reg.EVT1.LOG_STAT_HALT], .raising [Reg.EVT0.evLOG_FAULT], .hidden [.dram, .evt]]) (.logEntryWrite bads) s) ∧
  (∀ (s : State), Within (.all [.regs [Reg.SPM.STAT_FRAME], .hidden [.spm]]) .spmSelectFall s) ∧
  (∀ (s : State) (a : BitVec 40), Within (.hidden [.spm]) (.spmWriteFrame a) s) ∧
  (∀ (s : State) (a : BitVec 40), Within (.hidden [.spm, .emitted]) (.spmStatFrame a) s) ∧
  (∀ (s : State) (op : BitVec 8) (a : BitVec 40), Within (.hidden [.spm]) (.spmBadOp op a) s) ∧
  (∀ (s : State), Within (.hidden [.spm, .emitted]) .spmReadWordDue s) ∧
  (∀ (s : State), Within (.spfNext) .flashReadTimeout s) ∧
  (∀ (s : State), Within (.spfNext) .flashFenceTimeout s) ∧
  (∀ (s : State) (idle : Bool) (worn : Option (List Byte)), Within (.all [.spfNext, .regs [Reg.SPF.STAT_ERASE_RES,
    Reg.SPF.CNT_PROGRAMS, Reg.SPF.CNT_ERASES, Reg.SPF.LAST_ERR_OFFSET, Reg.SPF.LAST_ERR_STUCK,
    Reg.SPF.LAST_ERR_VALID], .raising [Reg.SPF.evERASE_DONE, Reg.SPF.evVERIFY_FAIL], .hidden [.flash]]) (.flashPoll
    idle worn) s) ∧
  (∀ (s : State), Within (.all [.spfNext, .regs [Reg.SPF.LAST_ERR_OFFSET, Reg.SPF.LAST_ERR_STUCK,
    Reg.SPF.LAST_ERR_VALID, Reg.SPF.STAT_ERASE_RES], .raising [Reg.SPF.evFLASH_STUCK], .hidden ([.flash, .spf,
    .spm, .freeCtr] ++ (List.range 16).map Part.done ++ (List.range 8).map Part.ses)]) .flashStuck s) ∧
  (∀ (s : State), Within (.spfNext) .flashResetDone s) ∧
  (∀ (s : State) (got : List Word32), Within (.spfNext) (.qSequenceDone got) s) ∧
  (∀ (s : State), inRange s = true → Within (.all [.regs ([Reg.OTP.STAT_BUSY, Reg.OTP.STAT_LAST,
    Reg.PWR.FENCE_STAT_OTP_BUSY, Reg.PWR.FENCE_STAT_KEY_BUSY, Reg.PWR.FENCE_STAT_FLASH_BUSY, Reg.SEC.STAT_KEY,
    Reg.SEC.STAT_PROV_BUSY, Reg.SEC.STAT_PROV_RES] ++ (List.range 9).map Reg.OTP.REC_STAT_LOADED ++ (List.range
    9).map Reg.OTP.REC_STAT_LVALID ++ (List.range 9).map Reg.OTP.REC_STAT_NEWEST ++ (List.range 9).map
    Reg.OTP.REC_STAT_NVALID ++ (List.range 9).map Reg.OTP.REC_STAT_USED ++ (List.range 25).map
    Reg.SEC.ID_PUB_DATA), .raising [Reg.OTP.evGEN_LAST, Reg.OTP.evGEN_SEALED, Reg.SEC.evPROV_DONE], .hidden [.otp,
    .sec, .otpWords]]) .otpSealed s) ∧
  (∀ (s : State) (scalar : List Word32), Within (.all [.regs [Reg.PWR.FENCE_STAT_OTP_BUSY,
    Reg.PWR.FENCE_STAT_KEY_BUSY, Reg.PWR.FENCE_STAT_FLASH_BUSY], .hidden [.sec]]) (.provisionKeyDrawn scalar) s) ∧
  (∀ (s : State), Within (.all [.regs [Reg.SEC.STAT_RNG_OK], .raising [Reg.SEC.evRNG_FAIL]]) .rngFail s) ∧
  (∀ (s : State), Within (.regs [Reg.SEC.STAT_RNG_OK]) .rngRecover s) ∧
  (∀ (s : State) (job : Fin 3), inRange s = true → Within (.all [.dma, .regs ([Reg.SEC.STAT_SIGN_BUSY,
    Reg.SEC.STAT_SIGN_RES] ++ (List.range 24).map Reg.SEC.SIGN_OUT_DATA ++ ((List.range 16).flatMap fun p =>
    [Reg.TSTAT.REP_WR_COUNT p]) ++ ((List.range 8).flatMap fun k => [Reg.LINK2.TEL_STAT_DROP k])), .raising
    ([Reg.SEC.evSIGN_DONE, Reg.LINK2.evTEL_DROP] ++ ((List.range 16).flatMap fun p => [Reg.TSTAT.evREPORT_ERR p])),
    .hidden ([.dram, .sec] ++ (List.range 8).map Part.ses)]) (.signComplete job) s)

/-- The frame of accesses to register pages that pass their checks (R160 to R175): a write of the header changes
what the register it writes governs, a write of the SRAM its bytes, a two-half read the latch; each, with the
completion of the master that made it. -/
def Obligations.PageWriteFrame : Prop :=
  (∀ (s : State) (m : Fin 16) (pg : BitVec 10) (v : Word32), WritePasses s m pg.toNat 8 (setBit v.toNat 1) → Within
    (.all [.access m, .pgCtl pg.toNat]) (.pageRst m pg v) s) ∧
  (∀ (s : State) (m : Fin 16) (pg : BitVec 10) (v : Word32), WritePasses s m pg.toNat 8 v.toNat → Within (.all
    [.access m, .pgCtl pg.toNat]) (.pgFreeze m pg v) s) ∧
  (∀ (s : State) (m : Fin 16) (pg : BitVec 10) (v : Word32), WritePasses s m pg.toNat 8 (setBit v.toNat 3) → Within
    (.all [.access m, .pgCtl pg.toNat]) (.errClr m pg v) s) ∧
  (∀ (s : State) (m : Fin 16) (pg : BitVec 10), WritePasses s m pg.toNat 16 1 → pg.toNat ≠ Reg.CLK.page → Within
    (.all [.fence, .access m, .block pg.toNat, .raising [Reg.EVT0.evLOG_FAULT], .hidden [.commits, .deferred,
    .marks, .evt, .accu, .time]]) (.pageCommit m pg) s) ∧
  (∀ (s : State) (m : Fin 16) (pg : BitVec 10), WritePasses s m pg.toNat 32 0x10000 → Within (.all [.access m, .regs
    [Reg.HDR.PG_LOCK_OWNER pg.toNat, Reg.HDR.PG_LOCK_HELD pg.toNat]]) (.lockTake m pg) s) ∧
  (∀ (s : State) (m : Fin 16) (pg : BitVec 10), WritePasses s m pg.toNat 32 0x20000 → Within (.all [.access m, .regs
    [Reg.HDR.PG_LOCK_HELD pg.toNat]]) (.lockRelease m pg) s) ∧
  (∀ (s : State) (m : Fin 16) (pg : BitVec 10), WritePasses s m pg.toNat 32 0x40000 → Within (.all [.access m, .regs
    [Reg.HDR.PG_LOCK_HELD pg.toNat, Reg.EVT0.LOCK_LAST_PAGE, Reg.EVT0.LOCK_LAST_OLD, Reg.EVT0.LOCK_LAST_BY],
    .raising [Reg.EVT0.evLOCK_BREAK]]) (.lockBreak m pg) s) ∧
  (∀ (s : State) (m : Fin 16) (pg : BitVec 10) (v : Word32), WritePasses s m pg.toNat 20 v.toNat → Within (.all
    [.access m, .raws ((List.range 32).map (32 * pg.toNat + ·))]) (.evtRawClear m pg v) s) ∧
  (∀ (s : State) (m : Fin 16) (addr : BitVec 40) (v : Word32) (poison : Bool), fabricQuiet s = true → targetOf
    addr.toNat = some 1 → Within (.all [.access m, .denial 1, .hidden [.sram]]) (.registerWrite m addr v poison) s) ∧
  (∀ (s : State) (m : Fin 16) (addr : BitVec 40) (v : Word32) (poison : Bool), fabricQuiet s = true → (targetOf
    addr.toNat).isNone = true → Within (.access m) (.registerWrite m addr v poison) s) ∧
  (∀ (s : State) (m : Fin 16) (addr : BitVec 40) (fetch : Bool), 0x1000000 ≤ addr.toNat → ReadPasses s m (pageOf
    addr.toNat) (addr.toNat % 4096) → addr.toNat ≠ regAddr Reg.SPF.page 84 → Within (.all [.access m, .hidden
    ([.latches] ++ (List.range 2).map Part.core)]) (.lowHalfRead m addr fetch) s) ∧
  (∀ (s : State) (m : Fin 16) (addr : BitVec 40) (fetch : Bool), 0x1000000 ≤ addr.toNat → ReadPasses s m (pageOf
    addr.toNat) (addr.toNat % 4096) → addr.toNat ≠ regAddr Reg.SPF.page 84 → Within (.all [.access m, .hidden
    ([.latches] ++ (List.range 2).map Part.core)]) (.highHalfRead m addr fetch) s) ∧
  (∀ (s : State) (m : Fin 16) (v : Word32), WritePasses s m Reg.EVT1.page 80 v.toNat → Within (.all [.access m, .regs
    [Reg.EVT1.LOG_RD_COUNT]]) (.logRdWrite m v) s)

/-- The frame of the register writes that have an effect of their own (R103, R115, R135, R141, R249, R277, R281,
R295, R353, R367, R369, R381, R409 to R427, R447, R464, R503), each when it passes its checks. -/
def Obligations.EffectFrame : Prop :=
  (∀ (s : State) (m : Fin 16) (v : Word32), WritePasses s m Reg.CLK.page 112 v.toNat → Within (.all ([.followAll,
    .access m, .regs [Reg.CLK.MON_STAT_SQUELCH]] ++ ((List.range 17).map Scope.trains))) (.lossAck m v) s) ∧
  (∀ (s : State) (m : Fin 16), WritePasses s m Reg.TIME.page 92 1 → Within (.all [.access m, .timeJump]) (.timeStep
    m) s) ∧
  (∀ (s : State) (m : Fin 16), WritePasses s m Reg.TIME.page 92 2 → Within (.all [.access m, .timeJump]) (.timeSetNow
    m) s) ∧
  (∀ (s : State) (m : Fin 16), WritePasses s m Reg.TIME.page 92 3 → Within (.all [.access m, .timeJump])
    (.timeSetAtSyncIn m) s) ∧
  (∀ (s : State) (m : Fin 16), WritePasses s m Reg.TIME.page 92 4 → Within (.all [.access m, .timeJump]) (.timeCancel
    m) s) ∧
  (∀ (s : State) (m : Fin 16) (v : Word32), WritePasses s m Reg.DEV.page 76 v.toNat → Within (.all [.access m,
    .raising [Reg.DEV.evRST_KEY_BAD], .hidden [.boot]]) (.rstCmd m v) s) ∧
  (∀ (s : State) (m : Fin 16), WritePasses s m Reg.DEV.page 88 1 → Within (.all [.access m, .regs
    [Reg.DEV.BOOT_WDT_RUNNING, Reg.DEV.RST_CAUSE_WDT_RUN]]) (.fwOk m) s) ∧
  (∀ (s : State) (m : Fin 16), WritePasses s m Reg.DEV.page 88 2 → Within (.all [.access m, .regs
    [Reg.DEV.RST_CAUSE_WDT_RUN, Reg.DEV.BOOT_STAT_PHASE], .hidden [.boot]]) (.bootRetry m) s) ∧
  (∀ (s : State) (m : Fin 16) (n : Fin 64), WritePasses s m (Reg.CNV.page n) 80 1 → inRange s = true → Within (.all
    [.access m, .cnvService n, .follow (n.val / 4), .raising [Reg.CNV.evREADY n, Reg.CNV.evCMD_REFUSED n,
    Reg.CNV.evCAL_ABANDON n]]) (.fgCal m n) s) ∧
  (∀ (s : State) (m : Fin 16) (p : Fin 16), WritePasses s m (Reg.EQ.page p) 120 4 → Within (.all [.access m, .follow
    p]) (.reacq m p) s) ∧
  (∀ (s : State) (m : Fin 16) (p : Fin 16), WritePasses s m (Reg.EQ.page p) 120 1 → Within (.all [.access m, .regs
    [Reg.EQ.STAT_BF_FADE p, Reg.EQ.STAT_BF_PEND p, Reg.EQ.BF_STAT_STANDBY_EMPTY p, Reg.EQ.ANN_CNT_REPLACED p],
    .raising [Reg.EQ.evANNEAL_REPLACED p], .hidden [.eq p]]) (.bfSwap m p) s) ∧
  (∀ (s : State) (m : Fin 16) (p : Fin 16), WritePasses s m (Reg.EQ.page p) 120 2 → Within (.all [.access m, .regs
    [Reg.EQ.STAT_SNAP_BUSY p], .raising [Reg.EQ.evSNAP_FAIL p], .hidden [.eq p]]) (.snap m p) s) ∧
  (∀ (s : State) (m : Fin 16) (i : BitVec 16) (w : Word32), fabricQuiet s = true → Within (.all [.access m, .denial
    4, .hidden [.seq]]) (.seqtLoWrite m i w) s) ∧
  (∀ (s : State) (m : Fin 16) (i : BitVec 16) (w : Word32), fabricQuiet s = true → Within (.all [.access m, .denial
    4, .hidden [.seq, .seqt]]) (.seqtHiWrite m i w) s) ∧
  (∀ (s : State) (m : Fin 16), WritePasses s m Reg.SEQ.page 80 1 → Within (.all [.access m, .regs
    [Reg.SEQ.STAT_INJ_BUSY, Reg.SEQ.STAT_INJ_END, Reg.SEQ.ERR_CNT_INJREF, Reg.SEQ.INJ_RES_RESULT,
    Reg.SEQ.INJ_RES_OR, Reg.SEQ.INJ_RES_COVER, Reg.SEQ.INJ_RES_CLASS_T, Reg.SEQ.INJ_RES_CHK], .raising
    [Reg.SEQ.evINJ_DONE, Reg.SEQ.evINJ_REFUSED], .hidden [.seq]]) (.injGo m) s) ∧
  (∀ (s : State) (m : Fin 16) (c : Fin 24), WritePasses s m (Reg.PCV.page c) 72 1 → Within (.all [.access m, .regs
    [Reg.PCV.STAT_CAL_PEND c]]) (.pcvCal m c) s) ∧
  (∀ (s : State) (m : Fin 16) (r : Fin 16) (v : Word32), WritePasses s m Reg.RING.page (272 + 32 * r.val) v.toNat →
    Within (.all [.access m, .regs [Reg.RING.RD_COUNT r]]) (.ringRdWrite m r v) s) ∧
  (∀ (s : State) (m : Fin 16) (n : Fin 48), WritePasses s m (Reg.FILT.page n) 156 1 → Within (.all [.access m, .regs
    [Reg.FILT.STAT_FADE n, Reg.FILT.STAT_FADE_POS n, Reg.FILT.STAT_PEND n, Reg.FILT.STAT_STANDBY_EMPTY n,
    Reg.FILT.ANN_CNT_REPLACED n], .raising [Reg.FILT.evANNEAL_REPLACED n], .hidden [.filt n]]) (.filtBankSwap m n)
    s) ∧
  (∀ (s : State) (m : Fin 16) (n : Fin 48), WritePasses s m (Reg.FILT.page n) 156 2 → Within (.all [.dma, .access m,
    .regs (((List.range 48).flatMap fun k => [Reg.FILT.STAT_PAR_STATE k, Reg.FILT.PAR_WR_COUNT k,
    Reg.FILT.CNT_PAR_IGN k, Reg.FILT.CNT_PAR_SKIP k])), .raising (((List.range 48).flatMap fun k =>
    [Reg.FILT.evPAR_DONE k, Reg.FILT.evPAR_ERR k, Reg.FILT.evPAR_SKIP k])), .hidden ([.dram] ++ (List.range 48).map
    Part.filt)]) (.parTrig m n) s) ∧
  (∀ (s : State) (m : Fin 16) (n : Fin 48), WritePasses s m (Reg.FILT.page n) 156 4 → Within (.all [.access m, .regs
    [Reg.FILT.STAT_STATE n, Reg.FILT.STAT_BANK n, Reg.FILT.STAT_FADE n, Reg.FILT.STAT_FADE_POS n,
    Reg.FILT.STAT_PEND n, Reg.FILT.STAT_STANDBY_EMPTY n, Reg.FILT.STAT_TONE_PRESENT n, Reg.FILT.STAT_PAR_STATE n],
    .hidden [.filt n]]) (.filtRestart m n) s) ∧
  (∀ (s : State) (m : Fin 16) (n : Fin 48) (v : Word32), WritePasses s m (Reg.FILT.page n) 200 v.toNat → Within (.all
    [.access m, .regs [Reg.FILT.OUT_RD_COUNT n]]) (.outRdWrite m n v) s) ∧
  (∀ (s : State) (m : Fin 16) (n : Fin 48) (v : Word32), WritePasses s m (Reg.FILT.page n) 236 v.toNat → Within (.all
    [.access m, .regs [Reg.FILT.PAR_RD_COUNT n, Reg.FILT.STAT_PAR_STATE n], .hidden [.filt n]]) (.parRdWrite m n v)
    s) ∧
  (∀ (s : State) (m : Fin 16) (h : Fin 17), WritePasses s m (Reg.HERD.page h) 76 1 → inRange s = true → Within (.all
    [.access m, .leaving h, .regs ((List.range 19).map (Reg.HERD.LANE_COEF_TAPS h)), .raising [Reg.HERD.evHERD_DOWN
    h]]) (.herdRetrain m h) s) ∧
  (∀ (s : State) (m : Fin 16) (h : Fin 17) (lane : Fin 32) (ret : Bool), WritePasses s m (Reg.HERD.page h) 76 (2 +
    lane.val * 2 ^ 8 + b2n ret * 2 ^ 13) → inRange s = true → Within (.all [.access m, .regs ((List.range 19).map
    (Reg.HERD.LANE_COEF_TAPS h) ++ (List.range 19).map (Reg.HERD.LANE_TX_ROLE h) ++ (List.range 19).map
    (Reg.HERD.LANE_TX_CAUSE h) ++ (List.range 19).map (Reg.HERD.LANE_TX_DONE h) ++ (List.range 4).map
    (Reg.HERD.LANE_RX_ROLE h) ++ (List.range 4).map (Reg.HERD.LANE_RX_CAUSE h) ++ (List.range 4).map
    (Reg.HERD.LANE_RX_CDR h) ++ (List.range 4).map (Reg.HERD.LANE_RX_BLK h)), .hidden [.herd h]]) (.laneTest m h
    lane ret) s) ∧
  (∀ (s : State) (m : Fin 16) (slots : BitVec 8), WritePasses s m Reg.LINK1.page 68 slots.toNat → inRange s = true →
    Within (.all ([.access m] ++ ((List.range 8).map (fun k => (Scope.linkOut (sesHerd s k)).and (.sesState k)))))
    (.sesKill m slots) s)

/-- The frame of memory accesses that pass their checks, and of the register writes of the memory controller, the
flash port, the OTP, the security block and the core pairs (R507 to R608). -/
def Obligations.MemoryAccessFrame : Prop :=
  (∀ (s : State) (m : Fin 16) (a : BitVec 40) (len : Fin 65) (fetch : Bool) (bad : Bool), MemPasses s 3 m a.toNat len
    (if fetch then 2 else 0) → dramFree s m a.toNat = true → Within (.all [.dramUse, .access m, .hidden
    ((List.range 2).map Part.core)]) (.dramRead m a len fetch bad) s) ∧
  (∀ (s : State) (m : Fin 16) (a : BitVec 40) (data : List Byte) (poison : Bool), MemPasses s 3 m a.toNat 64 1 →
    dramFree s m a.toNat = true → Within (.all [.dramUse, .access m, .hidden [.dram]]) (.dramWrite m a data poison)
    s) ∧
  (∀ (s : State) (m : Fin 16) (a : BitVec 40) (data : List Byte) (poison : Bool) (bads : Fin 5), MemPasses s 3 m
    a.toNat data.length 1 → dramFree s m a.toNat = true → Within (.all [.dramUse, .access m, .hidden [.dram]])
    (.dramPartialWrite m a data poison bads) s) ∧
  (∀ (s : State) (m : Fin 16) (page : BitVec 17), WritePasses s m Reg.RETIRE.page 64 page.toNat → Within (.all
    [.access m, .regs [Reg.RETIRE.STAT_LAST, Reg.RETIRE.STAT_COUNT, Reg.MEMC.STAT_WEAK_USED], .raising
    [Reg.RETIRE.evRETIRE_FULL, Reg.RETIRE.evRETIRE_NEAR], .hidden [.memc]]) (.retireAdd m page) s) ∧
  (∀ (s : State) (m : Fin 16) (idx : BitVec 8), WritePasses s m Reg.MEMC.page 76 (idx.toNat + 2 ^ 8) → Within (.all
    [.access m, .regs [Reg.MEMC.STAT_WEAK_USED], .hidden [.memc]]) (.weakClrOne m idx) s) ∧
  (∀ (s : State) (m : Fin 16), WritePasses s m Reg.MEMC.page 76 (2 ^ 9) → Within (.all [.access m, .regs
    [Reg.MEMC.STAT_WEAK_USED], .hidden [.memc]]) (.weakClrAll m) s) ∧
  (∀ (s : State) (m : Fin 16) (a : BitVec 40) (len : Fin 65) (fetch : Bool), MemPasses s 2 m a.toNat len (if fetch
    then 2 else 0) → spfIdle s = true → Within (.all [.spfShows, .access m, .hidden ([.spf] ++ (List.range 2).map
    Part.core)]) (.flashWindowRead m a len fetch) s) ∧
  (∀ (s : State) (m : Fin 16) (a : BitVec 40) (data : List Byte) (poison : Bool), MemPasses s 2 m a.toNat data.length
    1 → spfIdle s = true → Within (.all [.access m, .regs [Reg.SPF.STAT_BUSY, Reg.SPF.STAT_ERASE_HELD,
    Reg.SPF.Q_STAT_ENTRIES, Reg.SPF.Q_STAT_TX_WORDS, Reg.SPF.Q_STAT_RX_WORDS, Reg.PWR.FENCE_STAT_OTP_BUSY,
    Reg.PWR.FENCE_STAT_KEY_BUSY, Reg.PWR.FENCE_STAT_FLASH_BUSY], .hidden [.spf]]) (.flashWindowWrite m a data
    poison) s) ∧
  (∀ (s : State) (m : Fin 16) (off : BitVec 26) (e : Fin 4), WritePasses s m Reg.SPF.page 72 (off.toNat + e.val * 2 ^
    26) → Within (.all [.spfNext, .access m, .regs [Reg.SPF.STAT_ERASE_RES], .raising [Reg.SPF.evERASE_REFUSED]])
    (.spfErase m off e) s) ∧
  (∀ (s : State) (m : Fin 16) (w : Word32), WritePasses s m Reg.SPF.page 76 w.toNat → Within (.all [.spfNext, .access
    m]) (.qCmdPush m w) s) ∧
  (∀ (s : State) (m : Fin 16) (w : Word32), WritePasses s m Reg.SPF.page 80 w.toNat → Within (.all [.spfNext, .access
    m, .regs [Reg.SPF.Q_STAT_OVER]]) (.qTxPush m w) s) ∧
  (∀ (s : State) (m : Fin 16), ReadPasses s m Reg.SPF.page 84 → Within (.all [.spfNext, .access m, .regs
    [Reg.SPF.Q_STAT_UNDER]]) (.qRxRead m) s) ∧
  (∀ (s : State) (m : Fin 16) (r : BitVec 8), WritePasses s m Reg.OTP.page 64 (r.toNat + 2 ^ 8) → Within (.all
    [.access m, .regs [Reg.OTP.STAT_BUSY, Reg.OTP.STAT_LAST, Reg.OTP.STAT_LAST_REC, Reg.OTP.STAT_LAST_GEN,
    Reg.PWR.FENCE_STAT_OTP_BUSY, Reg.PWR.FENCE_STAT_KEY_BUSY, Reg.PWR.FENCE_STAT_FLASH_BUSY], .raising
    [Reg.OTP.evGEN_REFUSED], .hidden [.otp]]) (.otpGenWrite m r) s) ∧
  (∀ (s : State) (m : Fin 16), WritePasses s m Reg.SEC.page 64 1 → Within (.all [.access m, .regs
    [Reg.SEC.STAT_PROV_BUSY, Reg.SEC.STAT_PROV_RES, Reg.PWR.FENCE_STAT_OTP_BUSY, Reg.PWR.FENCE_STAT_KEY_BUSY,
    Reg.PWR.FENCE_STAT_FLASH_BUSY], .raising [Reg.SEC.evPROV_REFUSED], .hidden [.sec]]) (.provision m) s) ∧
  (∀ (s : State) (m : Fin 16), WritePasses s m Reg.SEC.page 64 2 → Within (.all [.access m, .regs
    [Reg.SEC.STAT_SIGN_BUSY, Reg.SEC.STAT_SIGN_RES], .hidden [.sec]]) (.secSign m) s) ∧
  (∀ (s : State) (m : Fin 16) (n : Fin 2), WritePasses s m (Reg.CORE.page n) 68 1 → Within (.all [.access m, .hidden
    [.core n]]) (.coreInv m n) s) ∧
  (∀ (s : State) (fuse : List FuseMap), Within (.all [.regs ([Reg.DEV.BOOT_STAT_PHASE, Reg.MEMC.STAT_TRAINED,
    Reg.MEMC.STAT_SCRUB_RUN, Reg.MEMC.WRITTEN_UNITS] ++ (List.range 8).map Reg.MEMC.FUSE_ROWS ++ (List.range 8).map
    Reg.MEMC.FUSE_OK), .raising [Reg.MEMC.evFUSE_ERR], .hidden [.boot, .memc, .dram]]) (.memoryTrainingDone fuse)
    s) ∧
  (∀ (s : State) (t : Sfdp), Within (.all [.regs ([Reg.DEV.BOOT_STAT_PHASE, Reg.SPF.STAT_MODE,
    Reg.SPF.STAT_DISC_FAIL, Reg.SPF.GEOM_PAGE_LOG2, Reg.SPF.GEOM_E1_LOG2, Reg.SPF.GEOM_E2_LOG2,
    Reg.SPF.GEOM_E3_LOG2, Reg.SPF.GEOM_E4_LOG2, Reg.SPF.GEOM_DUMMY_8D, Reg.SPF.TIMES_PROG_US] ++ (List.range 4).map
    Reg.SPF.ERASE_MS_MS), .raising [Reg.SPF.evDISC_DONE, Reg.SPF.evDISC_FAIL], .hidden [.boot, .spf]])
    (.flashDiscovery t) s) ∧
  (∀ (s : State), Within (.all [.resetState, .hidden [.pwr]]) .resetNLow s) ∧
  (∀ (s : State), Within (.resetState) .cmdResetStart s) ∧
  (∀ (s : State), Within (.resetState) .bootWdtExpire s) ∧
  (∀ (s : State), Within (.all [.resetState, .fence, .rootState, .regs [Reg.PWR.RAIL_STAT_FAULTED,
    Reg.PWR.FENCE_STAT_ON_HOLDUP, Reg.PWR.FENCE_STAT_CAUSE_VIN], .raising [Reg.PWR.evRAIL_FAULT,
    Reg.PWR.evVIN_SAG], .hidden [.pwr]]) .firstStageStop s)

/-- The frame of the messages and frames that issue no access (R487 to R490, R536 to R545): requests of a session
whose 16 outstanding ones are not answered, and the words and frames of SPM while an access of it is outstanding.
-/
def Obligations.RequestFrame : Prop :=
  (∀ (s : State) (h : Fin 17) (gap : Bool) (hdr : Word64) (w1 : Word64) (more : List Word64) (tag : List Byte) (bads
    : Fin 5), inRange s = true → 16 ≤ (s.ses (hSlot hdr.toNat)).out.length → Within (.all [.linkOut h, .heard h
    (hSlot hdr.toNat)]) (.msgRead h gap hdr w1 more tag bads) s) ∧
  (∀ (s : State) (h : Fin 17) (gap : Bool) (hdr : Word64) (w1 : Word64) (data : List Word64) (tag : List Byte) (bads
    : Fin 5), inRange s = true → 16 ≤ (s.ses (hSlot hdr.toNat)).out.length → Within (.all [.linkOut h, .heard h
    (hSlot hdr.toNat)]) (.msgWrite h gap hdr w1 data tag bads) s) ∧
  (∀ (s : State) (k : Fin 8) (n : Fin 16) (bads : Fin 5), inRange s = true → (s.ses k).backlog = [] → Within (.all
    [.linkOut (sesHerd s k), .hidden [.ses k]]) (.transactionComplete k n bads) s) ∧
  (∀ (s : State) (a : BitVec 40) (bads : Fin 5), s.spm.out.isSome = true → Within (.all [.regs [Reg.SPM.STAT_WQ],
    .hidden [.spm]]) (.spmReadFrame a bads) s) ∧
  (∀ (s : State) (w : Word32) (bads : Fin 5), s.spm.out.isSome = true → Within (.all [.regs [Reg.SPM.STAT_WQ],
    .raising [Reg.SPM.evWQ_OVERFLOW], .hidden [.spm]]) (.spmWriteWord w bads) s) ∧
  (∀ (s : State) (nbits : Fin 48) (w : Word32) (bads : Fin 5), s.spm.out.isSome = true → Within (.all [.regs
    [Reg.SPM.STAT_WQ, Reg.SPM.STAT_FRAME, Reg.SPM.LAST_CODE, Reg.SPM.LAST_IRREG, Reg.SPM.LAST_BITS,
    Reg.SPM.LAST_WORDS, Reg.SPM.CNT_FRAMES, Reg.SPM.CNT_IRREG], .raising [Reg.SPM.evWQ_OVERFLOW,
    Reg.SPM.evFRAME_IRREG], .hidden [.spm]]) (.spmFrameEnd nbits w bads) s) ∧
  (∀ (s : State) (bads : Fin 5), s.spm.queue = [] → spmIn s .read = false → Within (.all [.regs [Reg.SPM.LAST_CODE],
    .raising [Reg.SPM.evSPM_BUS_ERR], .hidden [.spm]]) (.spmAccessDone bads) s)


/-! ### The block as a whole -/

/-- A step takes the command at the front of the queue and runs it with the rest. -/
def Obligations.StepRunsTheFrontCommand : Prop :=
  ∀ (s : State) (c : Instr) (rest : List Instr), s.pending = c :: rest → step s = exec c { s with pending := rest }

/-- Every command answers a next state and leaves the queue to the step; on an empty queue a step is one FAB cycle,
which
the clock's period gives unless the loop acquires (R89). That is the model's choice (log entry 13), as is that a
command which cannot arise in a state changes nothing (log
entries 14 and 18). -/
def Obligations.EveryStepAnswers : Prop :=
  (∀ (c : Instr) (s : State), ∃ t, exec c s = .next t ∧ t.pending = s.pending) ∧
  (∀ s : State, s.pending = [] → ∃ t, step s = .next t ∧ t.pending = []
    ∧ (domPeriod s 2 ≠ 0 → fabMeasured s = false → s.time.fabRem < domPeriod s 2 → t.time.cycle = s.time.cycle + 1
      ∧ t.time.fabRem = 0
        ∧ t.time.uptime = s.time.uptime + (domPeriod s 2 - s.time.fabRem)))

/-- After reset every field holds its reset value, in effect and in shadow (R13); the gates of the pages that have
one are closed (R90); no memory holds anything, and both invariants hold. That every hidden field and every
unlisted byte holds the value it does is the model's choice, as are the registers that the fuse area and the records
give (log entries 3, 4, 6 and 9). -/
def Obligations.ResetState : Prop :=
  (∀ f : Fld, rd State.reset f = resetOf f ∧ rdS State.reset f = resetOf f) ∧
  (∀ pg, (kindOf pg).isSome = true → rd State.reset (Reg.HDR.PG_STAT_GATED pg) = b2n (!ungated pg)
    ∧ rd State.reset (Reg.HDR.PG_CTL_EN pg) = b2n (ungated pg)) ∧
  MemInv State.reset ∧ inRange State.reset = true ∧ State.reset.pending = [] ∧ State.reset.boot.stage = .settling

/-- Every step keeps every memory in its canonical form. -/
def Obligations.MemoriesStayCanonical : Prop := ∀ s t : State, MemInv s → step s = .next t → MemInv t

/-- Every step keeps the lanes, slices, rings, herds, records and ports that the state names within their ranges
(R379, R435, R469, R573). -/
def Obligations.NamesStayInRange : Prop := ∀ s t : State, inRange s = true → step s = .next t → inRange t = true

/-- No command and no idle step makes a bit of the OTP macro return to 0 (chapter 17, R574, R575). -/
def Obligations.OtpBitsNeverFall : Prop :=
  ∀ (s t : State) (a b : Nat), MemInv s → step s = .next t → bit (otpWord s a) b = true → bit (otpWord t a) b = true

/-- What the commands that restart or re-clock the whole block leave as it was (R65, R83, R126, R142 to R146, R151). A
power-on or device reset keeps flash, OTP and what has been sent; a released reset pin or an ended settling delay
keeps the memories; a domain's switch, a closing gate and a page reset keep every memory. The model's choices in
it: what a device reset makes of SPM's frames (log entry 25), and what else it leaves (log entries 24 and 52). -/
def Obligations.WideCommandsKeep : Prop :=
  (∀ s t : State, exec .powerOnReset s = .next t → Kept [.flash, .otpWords, .emitted, .freeCtr, .pending] s t) ∧
  (∀ (b : Bool) (s t : State), exec (.deviceResetApply b) s = .next t → s.spm.queue = [] →
    Kept [.flash, .otpWords, .emitted, .freeCtr, .pending] s t) ∧
  (∀ (b : Bool) (s t : State), exec (.settleEnd b) s = .next t → s.spm.queue = [] → s.spm.rise = none →
    Kept [.sram, .flash, .dram, .otpWords, .seqt, .waiting, .latches, .emitted, .pending] s t) ∧
  (∀ (b : Bool) (s t : State), exec (.resetNRelease b) s = .next t → s.spm.queue = [] → s.spm.rise = none →
    Kept [.sram, .flash, .dram, .otpWords, .seqt, .waiting, .latches, .emitted, .pending] s t) ∧
  (∀ (v0 v1 : SlotVerdict) (s : State), Within (.all [.whole [Reg.DEV.page, Reg.ACL.page 2, Reg.ACL.page 15], .regs
    [Reg.CORE.STAT_STATE 0, Reg.CORE.STAT_STATE 1], .raising [], .hidden [.boot, .shad, .deferred, .core 0, .core 1]])
    (.bootVerify v0 v1) s) ∧
  (∀ s t : State, exec .rootLock s = .next t → Kept [.sram, .flash, .dram, .otpWords, .seqt, .pending] s t) ∧
  (∀ (d : Fin 6) (s t : State), exec (.domSwitchDone d) s = .next t → s.bus.waiting = [] → s.spm.queue = [] →
    s.spm.rise = none → Kept [.sram, .flash, .dram, .otpWords, .seqt, .pending] s t) ∧
  (∀ (pg : BitVec 10) (s t : State), exec (.gateClose pg) s = .next t → s.bus.waiting = [] →
    Kept [.shad, .sram, .flash, .dram, .otpWords, .seqt, .boot, .pending] s t) ∧
  (∀ (pg : BitVec 10) (s t : State), exec (.gateTmo pg) s = .next t → s.bus.waiting.all (inProgress s pg.toNat) = true →
    Kept [.shad, .sram, .flash, .dram, .otpWords, .seqt, .boot, .pending] s t) ∧
  (∀ (pg : BitVec 10) (s t : State), exec (.pageResetApply pg) s = .next t → s.bus.waiting = [] →
    Kept [.sram, .flash, .dram, .otpWords, .seqt, .boot, .pending] s t) ∧
  (∀ (pg : BitVec 10) (s t : State), exec (.pageResetTimeout pg) s = .next t →
    s.bus.waiting.all (inProgress s pg.toNat) = true →
    Kept [.sram, .flash, .dram, .otpWords, .seqt, .boot, .pending] s t)

/-! ### Bytes that a command stores -/

/-- Each command that stores to stacked memory stores to the bytes that its address gives and to no other: every
other byte reads as before, the never-written units' bytes as 0 (R295, R341, R379, R418, R425 to R428, R507, R512,
R513, R516). DRAM_REFETCH stores to the bytes of the writes that wait for the controller and to no other. -/
def Obligations.DramBytesElsewhereStand : Prop :=
  (∀ (s t : State) (m : Fin 16) (a : BitVec 40) (data : List Byte) (poison : Bool), MemPasses s 3 m a.toNat 64 1 →
    dramFree s m a.toNat = true → data.length = 64 → exec (.dramWrite m a data poison) s = .next t →
    DramOutside s t [(dramOff a.toNat, 64)]) ∧
  (∀ (s t : State) (m : Fin 16) (a : BitVec 40) (data : List Byte) (poison : Bool) (bads : Fin 5),
    MemPasses s 3 m a.toNat data.length 1 → dramFree s m a.toNat = true →
    exec (.dramPartialWrite m a data poison bads) s = .next t →
    DramOutside s t [(dramOff a.toNat, data.length)]) ∧
  (∀ (s t : State) (x : Res) (rest : List Res) (bads : Fin 5), s.ringQ = x :: rest →
    exec (.ringRecordWrite bads) s = .next t →
    DramOutside s t [(dramOff (ringBase s x.dest + 16 * (rd s (Reg.RING.WR_COUNT x.dest) % ringSize s x.dest)), 16)]) ∧
  (∀ (s t : State) (n : Fin 48) (rcd : List Nat) (rest : List (List Nat)) (bads : Fin 5),
    (s.filt n).outQ = rcd :: rest → exec (.outRecordWrite n bads) s = .next t →
    DramOutside s t
      [(dramOff (outBase s n + 16 * (rd s (Reg.FILT.OUT_WR_COUNT n) % outSize s n)), 4 * rcd.length)]) ∧
  (∀ (s t : State) (bads : Fin 5), exec (.logEntryWrite bads) s = .next t →
    DramOutside s t [(dramOff (logBase s + 16 * (rd s Reg.EVT1.LOG_WR_COUNT % logSize s)), 16)]) ∧
  (∀ (s t : State) (bad : Bool), exec (.dramRefetch bad) s = .next t →
    DramOutside s t ((s.memc.pending.filter (·.req.write)).map fun q => (dramOff q.req.addr, q.req.data.length))) ∧
  (∀ (s t : State) (r : PortRun), exec (.snapDone r) s = .next t →
    DramOutside s t [(dramOff (snapDst s r.port), 1088)]) ∧
  (∀ (s t : State) (r : Report) (c : Nat) (job : Fin 3), s.sec.making = some (.report r, c) →
    exec (.signComplete job) s = .next t → DramOutside s t [(dramOff (repBase s r.port
      + 384 * (rd s (Reg.TSTAT.REP_WR_COUNT r.port) % 2 ^ rd s (Reg.TSTAT.WIN_CTL_REP_LOG2 r.port))), 384)]) ∧
  (∀ (s t : State) (m : Fin 16) (n : Fin 48), WritePasses s m (Reg.FILT.page n) 156 2 →
    exec (.parTrig m n) s = .next t → DramOutside s t ((List.range 48).flatMap fun k =>
      [(s.filt k).par.k, (s.filt k).parLast.getD 1 0].map fun j => (dramOff (parDirAddr s k (j % parSlots s k)), 64))) ∧
  (∀ (s t : State) (n : Fin 48) (bads : Fin 5), exec (.filtInput n bads) s = .next t →
    DramOutside s t ((dramOff (parRecAddr s n ((s.filt n).par.k % parSlots s n) ((s.filt n).par.m % parLen s n)), 16)
      :: (dramOff (parDirAddr s n ((rd s (Reg.FILT.PAR_WR_COUNT n) + 1) % 2 ^ 32 % parSlots s n)), 64)
      :: (List.range 48).flatMap fun k =>
        [(s.filt k).par.k, (s.filt k).parLast.getD 1 0].map fun j => (dramOff (parDirAddr s k (j % parSlots s k)), 64)))

/-- Each command that stores to the flash, to the OTP macro or to the sequencer table reaches its own bytes or words and
no other: a program or an erase its range, a generation write its words, a write of a table word its
entry; an abandoned operation the erase unit or page, the words of its generation, or those of the key's (R62 to R64,
R353, R554, R557, R574, R575, R589). -/
def Obligations.OtherBytesElsewhereStand : Prop :=
  (∀ (s t : State) (o : FlashOp) (r : Req) (idle : Bool) (worn : Option (List Byte)), s.spf.op = some o →
    o.kind = .program r →
    exec (.flashPoll idle worn) s = .next t → FlashOutside s t [(flashOff r.addr, r.size)]) ∧
  (∀ (s t : State) (o : FlashOp) (off size : Nat) (idle : Bool) (worn : Option (List Byte)), s.spf.op = some o →
    o.kind = .erase off size →
    exec (.flashPoll idle worn) s = .next t → FlashOutside s t [(off, size)]) ∧
  (∀ (s t : State) (o : FlashOp), s.spf.op = some o → exec .flashStuck s = .next t →
    FlashOutside s t [flashUnit s o.kind]) ∧
  (∀ (s t : State) (o : FlashOp), s.spf.op = some o → exec .flashResetDone s = .next t →
    FlashOutside s t [flashUnit s o.kind]) ∧
  (∀ (s t : State) (o : OtpOp), s.otp.op = some o → exec .otpSealed s = .next t →
    OtpOutside s t [(genBase o.rid o.gen, o.data.length + 2)]) ∧
  (∀ (s t : State) (g : Nat) (sc : List Nat), s.otp.op = none → s.sec.drawn = some (g, sc) →
    exec .otpSealed s = .next t → OtpOutside s t [(genBase 8 g, sc.length + 2)]) ∧
  (∀ (s t : State) (kind : Fin 3) (n : Nat), exec (.nvAbandon kind n) s = .next t →
    FlashOutside s t (if kind = 2 then (s.spf.op.map fun o => flashUnit s o.kind).toList else [])
      ∧ OtpOutside s t (if kind = 0 then (s.otp.op.map fun o => (genBase o.rid o.gen, o.data.length + 2)).toList
        else if kind = 1 then (s.sec.drawn.map fun d => (genBase 8 d.1, d.2.length + 2)).toList else [])) ∧
  (∀ (s t : State) (m : Fin 16) (i : BitVec 16) (w : Word32), fabricQuiet s = true →
    exec (.seqtHiWrite m i w) s = .next t → SeqtOutside s t [(2 * i.toNat, 2)])

/-! ### Accesses -/

/-- An address outside the ranges of R24, and a page that the page table does not assign, give BUS_ERR_UNMAPPED, and
nothing else changes (R25): for every command that carries an access, and for any request that reaches the fabric, a
session's and SPM's among them. -/
def Obligations.UnmappedAccesses : Prop :=
  (∀ a, targetOf a = none ↔ ((0x10000 ≤ a ∧ a < 0x1000000) ∨ (0x1400000 ≤ a ∧ a < 0x1800000)
    ∨ (0x1880000 ≤ a ∧ a < 0x8000000) ∨ (0x8400000 ≤ a ∧ a < 0x20000000) ∨ (0x24000000 ≤ a ∧ a < 0x1000000000)
    ∨ 0x1200000000 ≤ a ∨ (0x1000000 ≤ a ∧ a < 0x1400000 ∧ kindOf ((a - 0x1000000) / 4096) = none))) ∧
  (∀ (s : State) (m : Fin 16) (a : BitVec 40) (v : Word32) (poison : Bool), fabricQuiet s = true →
    masterIssues s (mkReq m a.toNat true false 4 [] false 0) = true → targetOf a.toNat = none →
      Gives (.registerWrite m a v poison) s fun t => lastDone t m = ⟨.errUnmapped, []⟩
      ∧ Keeps (.access m) s t) ∧
  (∀ (s : State) (m : Fin 16) (a : BitVec 40) (fetch : Bool), fabricQuiet s = true →
    masterIssues s (mkReq m a.toNat false fetch 4 [] false 0) = true → targetOf a.toNat = none →
    Gives (.lowHalfRead m a fetch) s fun t => lastDone t m = ⟨.errUnmapped, zeros 4⟩ ∧ Keeps (.access m) s t) ∧
  (∀ (s : State) (m : Fin 16) (a : BitVec 40) (fetch : Bool), fabricQuiet s = true →
    masterIssues s (mkReq m a.toNat false fetch 4 [] false 0) = true → targetOf a.toNat = none →
    Gives (.highHalfRead m a fetch) s fun t => lastDone t m = ⟨.errUnmapped, zeros 4⟩ ∧ Keeps (.access m) s t) ∧
  (∀ (s : State) (m : Fin 16) (a : BitVec 40) (len : Fin 65) (fetch bad : Bool), fabricQuiet s = true →
    masterIssues s (mkReq m a.toNat false fetch len [] false 0) = true → targetOf a.toNat = none → 0 < len.val →
    (Gives (.dramRead m a len fetch bad) s fun t => lastDone t m = ⟨.errUnmapped, zeros len⟩ ∧ Keeps (.access m) s t)
      ∧ (cacheHit s (mkReq m a.toNat false fetch len [] false 0) = none → Gives (.flashWindowRead m a len fetch) s
        fun t => lastDone t m = ⟨.errUnmapped, zeros len⟩ ∧ Keeps (.access m) s t)) ∧
  (∀ (s : State) (m : Fin 16) (a : BitVec 40) (data : List Byte) (poison : Bool) (bads : Fin 5), fabricQuiet s = true →
    masterIssues s (mkReq m a.toNat true false data.length [] false 0) = true → targetOf a.toNat = none →
    0 < data.length → data.length ≤ 64 →
    (Gives (if data.length = 64 then .dramWrite m a data poison else .dramPartialWrite m a data poison bads) s
        fun t => lastDone t m = ⟨.errUnmapped, []⟩ ∧ Keeps (.access m) s t)
      ∧ Gives (.flashWindowWrite m a data poison) s fun t => lastDone t m = ⟨.errUnmapped, []⟩
        ∧ Keeps (.access m) s t) ∧
  (∀ (s : State) (r : Req), r.dead = false → r.master < 16 → targetOf r.addr = none →
    lastDone (reach s r) r.master = ⟨.errUnmapped, if r.write then [] else zeros r.size⟩
      ∧ Keeps (.access r.master) s (reach s r))

/-- The checks of a register page, in their order, and what each leaves (R30, R32, R34, R83, R91, R92, R151, R161,
R162, R167, R551, R636). The model's choices in it: which grants a BREAK needs (log entry 32), the accesses and commits
of a stopped or switching domain (log entries 33 and 63), and what an erase that SAFE mode refuses records (log entry
47). -/
def Obligations.PageChecks : Prop :=
  (∀ (s : State) (m : Fin 16) (pg : BitVec 10) (off n : Nat) (v : Word32) (poison : Bool), fabricQuiet s = true →
    off < 4096 → targetOf (regAddr pg.toNat 0) = some n →
    masterIssues s (writeReq s m pg.toNat off v.toNat poison) = true →
    Gives (.registerWrite m (BitVec.ofNat 40 (regAddr pg.toNat off)) v poison) s fun t =>
      let r := writeReq s m pg.toNat off v.toNat poison
      let refused := fun (st : Status) => lastDone t m = ⟨st, []⟩ ∧ PageErr s t pg.toNat off m st.code 1
        ∧ Keeps (.refusal n pg.toNat m) s t
      if off % 4 ≠ 0 then refused .errAlign
      else if pageDenied s n r then refused .errDenied ∧ DenyKept s t n m (regAddr pg.toNat off) 1
      else if pageLocked s r then refused .errLocked
      else if poison then refused .errPoison
      else if pageWaits s r then lastDone t m = lastDone s m ∧ t.bus.waiting = [{ r with passed := true }]
      else if pageDark s r then refused .errTimeout
      else if eraseSafe s r then lastDone t m = ⟨.errDenied, []⟩ ∧ PageErr s t pg.toNat off m Status.errDenied.code 1
      else if isCommit r && gateAsked s pg.toNat then lastDone t m = lastDone s m ∧ t.bus.commits = s.bus.commits ++ [r]
      else DoneOk t m) ∧
  (∀ (s : State) (m : Fin 16) (pg : BitVec 10) (off n : Nat), fabricQuiet s = true → off < 4096 →
    targetOf (regAddr pg.toNat 0) = some n → masterIssues s (pageReq s m pg.toNat off 0 false) = true →
    Gives (.lowHalfRead m (BitVec.ofNat 40 (regAddr pg.toNat off)) false) s fun t =>
      let r := pageReq s m pg.toNat off 0 false
      let refused := fun (st : Status) => lastDone t m = ⟨st, zeros 4⟩ ∧ PageErr s t pg.toNat off m st.code 0
        ∧ Keeps (.refusal n pg.toNat m) s t
      if off % 4 ≠ 0 then refused .errAlign
      else if pageDenied s n r then refused .errDenied ∧ DenyKept s t n m (regAddr pg.toNat off) 0
      else if pageWaits s r then lastDone t m = lastDone s m ∧ t.bus.waiting = [{ r with passed := true }]
      else if pageDark s r then refused .errTimeout
      else DoneOk t m)

/-- A denial is counted and recorded at its target, and DENIED is raised (R597, R601): for accesses to the SRAM and
the boot ROM, to the sequencer table, to stacked memory and to the flash window, for a DMA master's, and for any
request that reaches the fabric, a session's and SPM's among them, at a register page too. That a read of the flash
window whose line its pair has cached asks no table is the model's choice (log entry 66). -/
def Obligations.DenialsAreRecorded : Prop :=
  (∀ (s : State) (m : Fin 16) (a : BitVec 40) (n : Nat) (v : Word32) (poison : Bool), fabricQuiet s = true →
    masterIssues s (mkReq m a.toNat true false 4 [] false 0) = true →
    targetOf a.toNat = some n → n = 0 ∨ n = 1 ∨ n = 4 → a.toNat % 4 = 0 →
    aclGrants s n m a.toNat 1 = false →
    Gives (.registerWrite m a v poison) s fun t => lastDone t m = ⟨.errDenied, []⟩ ∧ DenyKept s t n m a.toNat 1
      ∧ Keeps ((Scope.access m).and (.denial n)) s t) ∧
  (∀ (s : State) (m : Fin 16) (a : BitVec 40) (n : Nat) (fetch : Bool), fabricQuiet s = true →
    masterIssues s (mkReq m a.toNat false fetch 4 [] false 0) = true →
    targetOf a.toNat = some n →
    n = 0 ∨ n = 1 ∨ n = 4 → a.toNat % 4 = 0 → aclGrants s n m a.toNat (if fetch then 2 else 0) = false →
    Gives (.lowHalfRead m a fetch) s fun t => lastDone t m = ⟨.errDenied, zeros 4⟩
      ∧ DenyKept s t n m a.toNat (if fetch then 2 else 0)
      ∧ Keeps ((Scope.access m).and (.denial n)) s t) ∧
  (∀ (s : State) (m : Fin 16) (a : BitVec 40) (len : Fin 65) (fetch bad : Bool), fabricQuiet s = true →
    masterIssues s (mkReq m a.toNat false fetch len [] false 0) = true →
    targetOf a.toNat = some 3 → alignOk 3 (mkReq m a.toNat false fetch len [] false 0) = true →
    s.memc.pending.all (fun q => q.req.master != m.val) = true →
    aclGrants s 3 m a.toNat (if fetch then 2 else 0) = false →
    Gives (.dramRead m a len fetch bad) s fun t => lastDone t m = ⟨.errDenied, zeros len⟩
      ∧ DenyKept s t 3 m a.toNat (if fetch then 2 else 0)
      ∧ Keeps ((Scope.access m).and (.denial 3)) s t) ∧
  (∀ (s : State) (m : Fin 16) (a : BitVec 40) (data : List Byte) (poison : Bool), fabricQuiet s = true →
    masterIssues s (mkReq m a.toNat true false 64 [] false 0) = true → targetOf a.toNat = some 3 →
    data.length = 64 → alignOk 3 (mkReq m a.toNat true false 64 [] false 0) = true →
    s.memc.pending.all (fun q => q.req.master != m.val) = true → aclGrants s 3 m a.toNat 1 = false →
    Gives (.dramWrite m a data poison) s fun t => lastDone t m = ⟨.errDenied, []⟩ ∧ DenyKept s t 3 m a.toNat 1
      ∧ Keeps ((Scope.access m).and (.denial 3)) s t) ∧
  (∀ (s : State) (m : Fin 16) (a : BitVec 40) (data : List Byte) (poison : Bool) (bads : Fin 5), fabricQuiet s = true →
    masterIssues s (mkReq m a.toNat true false data.length [] false 0) = true → targetOf a.toNat = some 3 →
    data.length < 64 → alignOk 3 (mkReq m a.toNat true false data.length [] false 0) = true →
    s.memc.pending.all (fun q => q.req.master != m.val) = true → aclGrants s 3 m a.toNat 1 = false →
      Gives (.dramPartialWrite m a data poison bads) s fun t =>
      lastDone t m = ⟨.errDenied, []⟩ ∧ DenyKept s t 3 m a.toNat 1
      ∧ Keeps ((Scope.access m).and (.denial 3)) s t) ∧
  (∀ (s : State) (m : Fin 16) (a : BitVec 40) (len : Fin 65) (fetch : Bool), fabricQuiet s = true →
    masterIssues s (mkReq m a.toNat false fetch len [] false 0) = true →
    targetOf a.toNat = some 2 → spfIdle s = true → alignOk 2 (mkReq m a.toNat false fetch len [] false 0) = true →
    cacheHit s (mkReq m a.toNat false fetch len [] false 0) = none → aclGrants s 2 m a.toNat (if fetch then 2 else 0)
      = false → Gives (.flashWindowRead m a len fetch) s fun t =>
      lastDone t m = ⟨.errDenied, zeros len⟩ ∧ DenyKept s t 2 m a.toNat (if fetch then 2 else 0)
        ∧ Keeps (.all [.access m, .denial 2, .spfShows]) s t) ∧
  (∀ (s : State) (m : Fin 16) (a : BitVec 40) (data : List Byte) (poison : Bool), fabricQuiet s = true →
    masterIssues s (mkReq m a.toNat true false data.length [] false 0) = true → targetOf a.toNat = some 2 →
    spfIdle s = true → alignOk 2 (mkReq m a.toNat true false data.length [] false 0) = true →
      aclGrants s 2 m a.toNat 1 = false →
    Gives (.flashWindowWrite m a data poison) s fun t => lastDone t m = ⟨.errDenied, []⟩ ∧ DenyKept s t 2 m a.toNat 1
      ∧ Keeps (.all [.access m, .denial 2, .spfShows]) s t) ∧
  (∀ (s : State) (m : Fin 16) (a n : Nat) (data : List Byte) (bads : Nat), targetOf a = some n →
    (n = 3 → alignOk 3 (mkReq m a true false data.length data false bads) = true ∧ aclGrants s 3 m a 1 = false) →
    (dmaWrite s m a data bads).2 = ⟨.errDenied, []⟩ ∧ DenyKept s (dmaWrite s m a data bads).1 n m a 1
      ∧ Keeps (.denial n) s (dmaWrite s m a data bads).1) ∧
  (∀ (s : State) (r : Req) (n : Nat), r.dead = false → r.master < 15 → targetOf r.addr = some n → n ≠ 2 → n < 5 →
    alignOk n r = true → (n = 3 → s.memc.pending.all (fun q => q.req.master != r.master) = true) →
    aclGrants s n r.master r.addr (aclKind r) = false →
    lastDone (reach s r) r.master = ⟨.errDenied, if r.write then [] else zeros r.size⟩
      ∧ DenyKept s (reach s r) n r.master r.addr (aclKind r)
      ∧ Keeps ((Scope.access r.master).and (.denial n)) s (reach s r)) ∧
  (∀ (s : State) (r : Req) (n : Nat), r.dead = false → r.passed = false → r.master < 15 → targetOf r.addr = some n →
    5 ≤ n → alignOk n r = true → pageDenied s n r = true →
    lastDone (reach s r) r.master = ⟨.errDenied, if r.write then [] else zeros r.size⟩
      ∧ DenyKept s (reach s r) n r.master r.addr (aclKind r)
      ∧ PageErr s (reach s r) (pageOf r.addr) (r.addr % 4096) r.master Status.errDenied.code (b2n r.write)
      ∧ Keeps (.refusal n (pageOf r.addr) r.master) s (reach s r))

/-- A page lock (R166 to R168): what TAKE does while the lock is held, that a write of a master that does not hold it
is refused and changes nothing behind the page's record of it, and that a read is served. -/
def Obligations.PageLocks : Prop :=
  (∀ (s : State) (m : Fin 16) (pg : BitVec 10), WritePasses s m pg.toNat 32 0x10000 →
    rd s (Reg.HDR.PG_LOCK_HELD pg.toNat) ≠ 0 → Gives (.lockTake m pg) s fun t => DoneOk t m
      ∧ rd s (Reg.HDR.PG_LOCK_OWNER pg.toNat) = m ∧ Keeps (.access m) s t) ∧
  (∀ (s : State) (m : Fin 16) (pg : BitVec 10) (n : Nat), fabricQuiet s = true →
    targetOf (regAddr pg.toNat 0) = some n → masterIssues s (writeReq s m pg.toNat 32 0x10000 false) = true →
      pageDenied s n (writeReq s m pg.toNat 32 0x10000 false) = false →
    rd s (Reg.HDR.PG_LOCK_HELD pg.toNat) ≠ 0 → rd s (Reg.HDR.PG_LOCK_OWNER pg.toNat) ≠ m →
    Gives (.lockTake m pg) s fun t => lastDone t m = ⟨.errLocked, []⟩ ∧ Keeps (.refusal n pg.toNat m) s t) ∧
  (∀ (s : State) (m : Fin 16) (pg : BitVec 10) (off n : Nat) (v : Word32) (poison : Bool), fabricQuiet s = true →
    targetOf (regAddr pg.toNat 0) = some n → off < 4096 → off % 4 = 0 →
    masterIssues s (writeReq s m pg.toNat off v.toNat poison) = true →
    pageDenied s n (writeReq s m pg.toNat off v.toNat poison) = false → rd s (Reg.HDR.PG_LOCK_HELD pg.toNat) ≠ 0 →
    rd s (Reg.HDR.PG_LOCK_OWNER pg.toNat) ≠ m → off ≠ 32 ∨ v.getLsbD 18 = false →
    Gives (.registerWrite m (BitVec.ofNat 40 (regAddr pg.toNat off)) v poison) s fun t =>
      lastDone t m = ⟨.errLocked, []⟩ ∧ Keeps (.refusal n pg.toNat m) s t) ∧
  (∀ (s : State) (m : Fin 16) (pg : BitVec 10) (off : Nat), ReadPasses s m pg.toNat off →
    rd s (Reg.HDR.PG_LOCK_HELD pg.toNat) ≠ 0 → rd s (Reg.HDR.PG_LOCK_OWNER pg.toNat) ≠ m →
    Gives (.lowHalfRead m (BitVec.ofNat 40 (regAddr pg.toNat off)) false) s fun t => DoneOk t m) ∧
  (∀ (s : State) (m : Fin 16) (pg : BitVec 10), WritePasses s m pg.toNat 32 0x40000 →
    rd s (Reg.HDR.PG_LOCK_HELD pg.toNat) ≠ 0 → rd s (Reg.HDR.PG_LOCK_OWNER pg.toNat) ≠ m →
    Gives (.lockBreak m pg) s fun t => DoneOk t m ∧ rd t (Reg.HDR.PG_LOCK_HELD pg.toNat) = 0)

/-- A register whose write does no more than hold its fields takes a write into them and into nothing else (R11); a
write of a shadowed field changes its shadow alone; and a commit puts every shadow of the page into effect, at
the value that R14 gives it (R14, R163), but for the fields whose value
in effect another field or state limits. -/
def Obligations.RegisterWritesAndCommits : Prop :=
  (∀ (s : State) (m : Fin 16) (pg : BitVec 10) (off lo : Nat) (f : FRow) (v : Word32),
    WritePasses s m pg.toNat off v.toNat → 64 ≤ off → fieldAt pg.toNat off lo = some f → f.shad = true → f.acc = .rw →
    Gives (.registerWrite m (BitVec.ofNat 40 (regAddr pg.toNat off)) v false) s fun t => DoneOk t m
      ∧ rd t ⟨pg.toNat, off, lo, f.width⟩ = rd s ⟨pg.toNat, off, lo, f.width⟩
      ∧ rdS t ⟨pg.toNat, off, lo, f.width⟩ = bits v.toNat lo f.width
      ∧ ∀ g : Fld, g.off < 4096 → g.off % 4 = 0 → g.lo < 32 → g.page ≠ pg.toNat ∨ g.off ≠ off → rdS t g = rdS s g) ∧
  (∀ (s : State) (m : Fin 16) (pg : BitVec 10) (k : Kind) (i off lo : Nat) (f : FRow), WritePasses s m pg.toNat 16 1 →
    pg.toNat ≠ Reg.CLK.page ∨ rd s Reg.CLK.DOM_STAT_BUSY = 0 → kindOf pg.toNat = some (k, i) →
    limitedField k off lo = false → off < 4096 → off % 4 = 0 → lo < 32 → fieldAt pg.toNat off lo = some f →
    f.shad = true → Gives (.pageCommit m pg) s fun t => (gateAsked s pg.toNat = false → DoneOk t m)
      ∧ rd t ⟨pg.toNat, off, lo, f.width⟩ = f.clamp.apply (rdS s ⟨pg.toNat, off, lo, f.width⟩) % 2 ^ f.width) ∧
  (∀ (s : State) (m : Fin 16) (pg : BitVec 10) (k : Kind) (i off : Nat) (v : Word32),
    WritePasses s m pg.toNat off v.toNat →
    64 ≤ off → kindOf pg.toNat = some (k, i) →
    blockWrite s m k i pg.toNat off v.toNat = plainWrite s pg.toNat off v.toNat →
    Within (.all [.access m, .register pg.toNat off, .hidden [.shad]])
      (.registerWrite m (BitVec.ofNat 40 (regAddr pg.toNat off)) v false) s)

/-- FREEZE (R172): when it becomes 1, every register it holds reads from then on as it did; a read shows what is
held; when it becomes 0, registers show current values. -/
def Obligations.FreezeHoldsRegisters : Prop :=
  (∀ (s : State) (m : Fin 16) (pg : BitVec 10) (k : Kind) (i off : Nat) (v : Word32),
    WritePasses s m pg.toNat 8 v.toNat → v.getLsbD 2 = true → rd s (Reg.HDR.PG_CTL_FREEZE pg.toNat) = 0 →
    kindOf pg.toNat = some (k, i) → off ∈ frozenOffsets pg.toNat k i → off < 4096 → Gives (.pgFreeze m pg v) s fun t =>
      ∀ u : State, u.bus.frozen = t.bus.frozen → shownWord u pg.toNat off = nowWord s pg.toNat off) ∧
  (∀ (s : State) (m : Fin 16) (pg : BitVec 10) (off : Nat) (v : Word32), WritePasses s m pg.toNat 8 v.toNat →
    v.getLsbD 2 = false → rd s (Reg.HDR.PG_CTL_FREEZE pg.toNat) ≠ 0 → off < 4096 → Gives (.pgFreeze m pg v) s fun t =>
      ∀ u : State, u.bus.frozen = t.bus.frozen → shownWord u pg.toNat off = nowWord u pg.toNat off)

/-! ### Events and stacked memory -/

/-- An event is raised when its RAW bit becomes 1, and not while it is 1 (R175); a raise is logged while logging runs
and the queue has room, with its stamp (R179); nothing else changes but the log's and the notices' own records. -/
def Obligations.RaisesOnce : Prop :=
  (∀ (s : State) (id : Nat), rawSet s id = true → raise s id = s) ∧
  (∀ (s : State) (id : Nat), rawSet s id = false → Raised (raise s id) id ∧ Keeps (.raising [id]) s (raise s id)
    ∧ (logRuns s = false → (raise s id).evt.logQ = s.evt.logQ)
    ∧ (logRuns s = true → s.evt.logQ.length < 1024 → ∃ e ∈ (raise s id).evt.logQ, e.id = id ∧ e.ns = nowNs s
        ∧ e.cycle = s.time.cycle ∧ e.frac = fracOf s.time.units ∧ e.trust = rd s Reg.TIME.STAT_TRUST))

/-- GSUM and GSUM_ANY follow the summaries of the pages (R177). -/
def Obligations.SummaryFollowsPages : Prop :=
  (∀ (s : State) (w b : Nat), w < 32 → b < 32 →
    bit (nowWord s Reg.EVT0.page (128 + 4 * w)) b = (nowWord s (32 * w + b) 28 != 0)) ∧
  (∀ s : State, bit (nowWord s Reg.EVT0.page 64) 0
    = (List.range 1024).any (fun n => bit (nowWord s Reg.EVT0.page (128 + 4 * (n / 32))) (n % 32)))

/-- An access to a retired page completes with BUS_ERR_RETIRED, and is recorded, counted and raised (R523): for
the masters that issue accesses by command, for the DMA masters, 14 among them, and for any request that reaches the
memory. -/
def Obligations.RetiredPages : Prop :=
  (∀ (s : State) (m : Fin 16) (a : BitVec 40) (len : Fin 65) (fetch bad : Bool),
    MemPasses s 3 m a.toNat len (if fetch then 2 else 0) →
    dramFree s m a.toNat = true → isRetired s a.toNat = true → Gives (.dramRead m a len fetch bad) s fun t =>
      lastDone t m = ⟨.errRetired, zeros len⟩ ∧ HitKept s t m a.toNat 0) ∧
  (∀ (s : State) (m : Fin 16) (a : BitVec 40) (data : List Byte) (poison : Bool), MemPasses s 3 m a.toNat 64 1 →
    data.length = 64 → dramFree s m a.toNat = true → isRetired s a.toNat = true →
    Gives (.dramWrite m a data poison) s fun t => lastDone t m = ⟨.errRetired, []⟩ ∧ HitKept s t m a.toNat 1) ∧
  (∀ (s : State) (m : Fin 16) (a : BitVec 40) (data : List Byte) (poison : Bool) (bads : Fin 5),
    MemPasses s 3 m a.toNat data.length 1 → data.length < 64 → dramFree s m a.toNat = true →
    isRetired s a.toNat = true → Gives (.dramPartialWrite m a data poison bads) s fun t =>
      lastDone t m = ⟨.errRetired, []⟩ ∧ HitKept s t m a.toNat 1) ∧
  (∀ (s : State) (m : Fin 16) (a : Nat) (data : List Byte) (bads : Nat), targetOf a = some 3 →
    alignOk 3 (mkReq m a true false data.length data false bads) = true → aclGrants s 3 m a 1 = true →
      isRetired s a = true →
    (dmaWrite s m a data bads).2 = ⟨.errRetired, []⟩ ∧ HitKept s (dmaWrite s m a data bads).1 m a 1) ∧
  (∀ (s : State) (m : Fin 16) (a : Nat) (bads : Nat), m ≠ 3 → targetOf a = some 3 → a % 64 = 0 →
    aclGrants s 3 m a 0 = true →
    isRetired s a = true → (dmaReadLine s m a bads).2 = ⟨.errRetired, zeros 64⟩
      ∧ HitKept s (dmaReadLine s m a bads).1 m a 0) ∧
  (∀ (s : State) (r : Req), r.dead = false → r.master < 15 → targetOf r.addr = some 3 → alignOk 3 r = true →
    aclGrants s 3 r.master r.addr (aclKind r) = true → dramFree s r.master r.addr = true → isRetired s r.addr = true →
    lastDone (reach s r) r.master = ⟨.errRetired, if r.write then [] else zeros r.size⟩
      ∧ HitKept s (reach s r) r.master r.addr (b2n r.write))

/-- A whole-line write with its poison bit leaves a stored-poison line and a later one without it a clean line (R512);
a partial write whose four reads all find the line bad is refused for every master, changes nothing and is counted
and raised, and a whole-line write succeeds in its place (R514); a recovery that finds the weak-line table full
enters nothing, is counted and raised, and the read completes as ever (R520). -/
def Obligations.PoisonAndWeakLines : Prop :=
  (∀ (s : State) (m : Fin 16) (a : BitVec 40) (data : List Byte) (poison : Bool), MemPasses s 3 m a.toNat 64 1 →
    data.length = 64 → dramFree s m a.toNat = true → isRetired s a.toNat = false →
    Gives (.dramWrite m a data poison) s fun t => DoneOk t m ∧ isPoison t (lineOf a.toNat) = poison
      ∧ bytesAt 0 t.mems.dram (dramOff a.toNat) 64 = data) ∧
  (∀ (s : State) (m : Fin 16) (a : BitVec 40) (data : List Byte) (poison : Bool),
    MemPasses s 3 m a.toNat data.length 1 →
    data.length < 64 → dramFree s m a.toNat = true → isRetired s a.toNat = false → isWritten s a.toNat = true →
      Gives (.dramPartialWrite m a data poison 4) s fun t =>
      lastDone t m = ⟨.errPoison, []⟩ ∧ t.mems = s.mems ∧ Raised t Reg.MEMC.evPARTIAL_REFUSED
        ∧ rd t Reg.MEMC.PARTIAL_CNT_COUNT = satAdd 16 (rd s Reg.MEMC.PARTIAL_CNT_COUNT) 1) ∧
  (∀ (s : State) (q : Refetch), s.memc.pending = [q] → q.begun = true → q.req.dead = false → q.req.master < 16 →
    isPoison s (lineOf q.req.addr) = false → badReads s (lineOf q.req.addr) 0 = 0 →
    weakFree s.memc.weak = none → weakFind (lineOf q.req.addr) s.memc.weak = none →
      Gives (.dramRefetch false) s fun t =>
      t.memc.weak = s.memc.weak ∧ rd t Reg.MEMC.WEAK_OVF_COUNT = satAdd 32 (rd s Reg.MEMC.WEAK_OVF_COUNT) 1
        ∧ Raised t Reg.MEMC.evWEAK_FULL
        ∧ lastDone t q.req.master = ⟨.ok, bytesAt 0 s.mems.dram (dramOff q.req.addr) q.req.size⟩)
end

