-- ==== Sys2Proof/Laws/State.lean ====
section
/-! SUPPORT. What each update of one part of the state leaves as it was: one lemma per update, every other
field, true by rfl. -/

namespace Sys2Proof.Machine

variable {s : State}

@[simp] theorem onBus_frame (f : Bus → Bus) :
    (s.onBus f).regs = s.regs ∧ (s.onBus f).shad = s.shad ∧ (s.onBus f).mems = s.mems ∧
    (s.onBus f).pwr = s.pwr ∧ (s.onBus f).clk = s.clk ∧ (s.onBus f).time = s.time ∧
    (s.onBus f).boot = s.boot ∧ (s.onBus f).evt = s.evt ∧ (s.onBus f).ports = s.ports ∧
    (s.onBus f).cnvs = s.cnvs ∧ (s.onBus f).eqs = s.eqs ∧ (s.onBus f).softs = s.softs ∧
    (s.onBus f).tstats = s.tstats ∧ (s.onBus f).pcvs = s.pcvs ∧ (s.onBus f).seq = s.seq ∧
    (s.onBus f).pwms = s.pwms ∧ (s.onBus f).accu = s.accu ∧ (s.onBus f).ringQ = s.ringQ ∧
    (s.onBus f).filts = s.filts ∧ (s.onBus f).herds = s.herds ∧ (s.onBus f).lines = s.lines ∧
    (s.onBus f).links = s.links ∧
    (s.onBus f).sess = s.sess ∧ (s.onBus f).memc = s.memc ∧ (s.onBus f).spm = s.spm ∧
    (s.onBus f).spf = s.spf ∧ (s.onBus f).otp = s.otp ∧ (s.onBus f).sec = s.sec ∧
    (s.onBus f).cores = s.cores ∧ (s.onBus f).emitted = s.emitted ∧ (s.onBus f).romKey = s.romKey ∧
    (s.onBus f).freeCtr = s.freeCtr ∧
    (s.onBus f).pending = s.pending := by
  and_intros <;> rfl

@[simp] theorem onBus_bus (f : Bus → Bus) : (s.onBus f).bus = f s.bus := rfl

@[simp] theorem onPwr_frame (f : PwrH → PwrH) :
    (s.onPwr f).regs = s.regs ∧ (s.onPwr f).shad = s.shad ∧ (s.onPwr f).mems = s.mems ∧
    (s.onPwr f).bus = s.bus ∧ (s.onPwr f).clk = s.clk ∧ (s.onPwr f).time = s.time ∧
    (s.onPwr f).boot = s.boot ∧ (s.onPwr f).evt = s.evt ∧ (s.onPwr f).ports = s.ports ∧
    (s.onPwr f).cnvs = s.cnvs ∧ (s.onPwr f).eqs = s.eqs ∧ (s.onPwr f).softs = s.softs ∧
    (s.onPwr f).tstats = s.tstats ∧ (s.onPwr f).pcvs = s.pcvs ∧ (s.onPwr f).seq = s.seq ∧
    (s.onPwr f).pwms = s.pwms ∧ (s.onPwr f).accu = s.accu ∧ (s.onPwr f).ringQ = s.ringQ ∧
    (s.onPwr f).filts = s.filts ∧ (s.onPwr f).herds = s.herds ∧ (s.onPwr f).lines = s.lines ∧
    (s.onPwr f).links = s.links ∧
    (s.onPwr f).sess = s.sess ∧ (s.onPwr f).memc = s.memc ∧ (s.onPwr f).spm = s.spm ∧
    (s.onPwr f).spf = s.spf ∧ (s.onPwr f).otp = s.otp ∧ (s.onPwr f).sec = s.sec ∧
    (s.onPwr f).cores = s.cores ∧ (s.onPwr f).emitted = s.emitted ∧ (s.onPwr f).romKey = s.romKey ∧
    (s.onPwr f).freeCtr = s.freeCtr ∧
    (s.onPwr f).pending = s.pending := by
  and_intros <;> rfl

@[simp] theorem onPwr_pwr (f : PwrH → PwrH) : (s.onPwr f).pwr = f s.pwr := rfl

@[simp] theorem onClk_frame (f : ClkH → ClkH) :
    (s.onClk f).regs = s.regs ∧ (s.onClk f).shad = s.shad ∧ (s.onClk f).mems = s.mems ∧
    (s.onClk f).bus = s.bus ∧ (s.onClk f).pwr = s.pwr ∧ (s.onClk f).time = s.time ∧
    (s.onClk f).boot = s.boot ∧ (s.onClk f).evt = s.evt ∧ (s.onClk f).ports = s.ports ∧
    (s.onClk f).cnvs = s.cnvs ∧ (s.onClk f).eqs = s.eqs ∧ (s.onClk f).softs = s.softs ∧
    (s.onClk f).tstats = s.tstats ∧ (s.onClk f).pcvs = s.pcvs ∧ (s.onClk f).seq = s.seq ∧
    (s.onClk f).pwms = s.pwms ∧ (s.onClk f).accu = s.accu ∧ (s.onClk f).ringQ = s.ringQ ∧
    (s.onClk f).filts = s.filts ∧ (s.onClk f).herds = s.herds ∧ (s.onClk f).lines = s.lines ∧
    (s.onClk f).links = s.links ∧
    (s.onClk f).sess = s.sess ∧ (s.onClk f).memc = s.memc ∧ (s.onClk f).spm = s.spm ∧
    (s.onClk f).spf = s.spf ∧ (s.onClk f).otp = s.otp ∧ (s.onClk f).sec = s.sec ∧
    (s.onClk f).cores = s.cores ∧ (s.onClk f).emitted = s.emitted ∧ (s.onClk f).romKey = s.romKey ∧
    (s.onClk f).freeCtr = s.freeCtr ∧
    (s.onClk f).pending = s.pending := by
  and_intros <;> rfl

@[simp] theorem onClk_clk (f : ClkH → ClkH) : (s.onClk f).clk = f s.clk := rfl

@[simp] theorem onTime_frame (f : TimeH → TimeH) :
    (s.onTime f).regs = s.regs ∧ (s.onTime f).shad = s.shad ∧ (s.onTime f).mems = s.mems ∧
    (s.onTime f).bus = s.bus ∧ (s.onTime f).pwr = s.pwr ∧ (s.onTime f).clk = s.clk ∧
    (s.onTime f).boot = s.boot ∧ (s.onTime f).evt = s.evt ∧ (s.onTime f).ports = s.ports ∧
    (s.onTime f).cnvs = s.cnvs ∧ (s.onTime f).eqs = s.eqs ∧ (s.onTime f).softs = s.softs ∧
    (s.onTime f).tstats = s.tstats ∧ (s.onTime f).pcvs = s.pcvs ∧ (s.onTime f).seq = s.seq ∧
    (s.onTime f).pwms = s.pwms ∧ (s.onTime f).accu = s.accu ∧ (s.onTime f).ringQ = s.ringQ ∧
    (s.onTime f).filts = s.filts ∧ (s.onTime f).herds = s.herds ∧ (s.onTime f).lines = s.lines ∧
    (s.onTime f).links = s.links ∧
    (s.onTime f).sess = s.sess ∧ (s.onTime f).memc = s.memc ∧ (s.onTime f).spm = s.spm ∧
    (s.onTime f).spf = s.spf ∧ (s.onTime f).otp = s.otp ∧ (s.onTime f).sec = s.sec ∧
    (s.onTime f).cores = s.cores ∧ (s.onTime f).emitted = s.emitted ∧ (s.onTime f).romKey = s.romKey ∧
    (s.onTime f).freeCtr = s.freeCtr ∧
    (s.onTime f).pending = s.pending := by
  and_intros <;> rfl

@[simp] theorem onTime_time (f : TimeH → TimeH) : (s.onTime f).time = f s.time := rfl

@[simp] theorem onBoot_frame (f : BootH → BootH) :
    (s.onBoot f).regs = s.regs ∧ (s.onBoot f).shad = s.shad ∧ (s.onBoot f).mems = s.mems ∧
    (s.onBoot f).bus = s.bus ∧ (s.onBoot f).pwr = s.pwr ∧ (s.onBoot f).clk = s.clk ∧
    (s.onBoot f).time = s.time ∧ (s.onBoot f).evt = s.evt ∧ (s.onBoot f).ports = s.ports ∧
    (s.onBoot f).cnvs = s.cnvs ∧ (s.onBoot f).eqs = s.eqs ∧ (s.onBoot f).softs = s.softs ∧
    (s.onBoot f).tstats = s.tstats ∧ (s.onBoot f).pcvs = s.pcvs ∧ (s.onBoot f).seq = s.seq ∧
    (s.onBoot f).pwms = s.pwms ∧ (s.onBoot f).accu = s.accu ∧ (s.onBoot f).ringQ = s.ringQ ∧
    (s.onBoot f).filts = s.filts ∧ (s.onBoot f).herds = s.herds ∧ (s.onBoot f).lines = s.lines ∧
    (s.onBoot f).links = s.links ∧
    (s.onBoot f).sess = s.sess ∧ (s.onBoot f).memc = s.memc ∧ (s.onBoot f).spm = s.spm ∧
    (s.onBoot f).spf = s.spf ∧ (s.onBoot f).otp = s.otp ∧ (s.onBoot f).sec = s.sec ∧
    (s.onBoot f).cores = s.cores ∧ (s.onBoot f).emitted = s.emitted ∧ (s.onBoot f).romKey = s.romKey ∧
    (s.onBoot f).freeCtr = s.freeCtr ∧
    (s.onBoot f).pending = s.pending := by
  and_intros <;> rfl

@[simp] theorem onBoot_boot (f : BootH → BootH) : (s.onBoot f).boot = f s.boot := rfl

@[simp] theorem onEvt_frame (f : EvtH → EvtH) :
    (s.onEvt f).regs = s.regs ∧ (s.onEvt f).shad = s.shad ∧ (s.onEvt f).mems = s.mems ∧
    (s.onEvt f).bus = s.bus ∧ (s.onEvt f).pwr = s.pwr ∧ (s.onEvt f).clk = s.clk ∧ (s.onEvt f).time = s.time ∧
    (s.onEvt f).boot = s.boot ∧ (s.onEvt f).ports = s.ports ∧ (s.onEvt f).cnvs = s.cnvs ∧
    (s.onEvt f).eqs = s.eqs ∧ (s.onEvt f).softs = s.softs ∧ (s.onEvt f).tstats = s.tstats ∧
    (s.onEvt f).pcvs = s.pcvs ∧ (s.onEvt f).seq = s.seq ∧ (s.onEvt f).pwms = s.pwms ∧
    (s.onEvt f).accu = s.accu ∧ (s.onEvt f).ringQ = s.ringQ ∧ (s.onEvt f).filts = s.filts ∧
    (s.onEvt f).herds = s.herds ∧ (s.onEvt f).lines = s.lines ∧ (s.onEvt f).links = s.links ∧
    (s.onEvt f).sess = s.sess ∧
    (s.onEvt f).memc = s.memc ∧ (s.onEvt f).spm = s.spm ∧ (s.onEvt f).spf = s.spf ∧ (s.onEvt f).otp = s.otp ∧
    (s.onEvt f).sec = s.sec ∧ (s.onEvt f).cores = s.cores ∧ (s.onEvt f).emitted = s.emitted ∧
    (s.onEvt f).romKey = s.romKey ∧ (s.onEvt f).freeCtr = s.freeCtr ∧ (s.onEvt f).pending = s.pending := by
  and_intros <;> rfl

@[simp] theorem onEvt_evt (f : EvtH → EvtH) : (s.onEvt f).evt = f s.evt := rfl

@[simp] theorem onSeq_frame (f : SeqH → SeqH) :
    (s.onSeq f).regs = s.regs ∧ (s.onSeq f).shad = s.shad ∧ (s.onSeq f).mems = s.mems ∧
    (s.onSeq f).bus = s.bus ∧ (s.onSeq f).pwr = s.pwr ∧ (s.onSeq f).clk = s.clk ∧ (s.onSeq f).time = s.time ∧
    (s.onSeq f).boot = s.boot ∧ (s.onSeq f).evt = s.evt ∧ (s.onSeq f).ports = s.ports ∧
    (s.onSeq f).cnvs = s.cnvs ∧ (s.onSeq f).eqs = s.eqs ∧ (s.onSeq f).softs = s.softs ∧
    (s.onSeq f).tstats = s.tstats ∧ (s.onSeq f).pcvs = s.pcvs ∧ (s.onSeq f).pwms = s.pwms ∧
    (s.onSeq f).accu = s.accu ∧ (s.onSeq f).ringQ = s.ringQ ∧ (s.onSeq f).filts = s.filts ∧
    (s.onSeq f).herds = s.herds ∧ (s.onSeq f).lines = s.lines ∧ (s.onSeq f).links = s.links ∧
    (s.onSeq f).sess = s.sess ∧
    (s.onSeq f).memc = s.memc ∧ (s.onSeq f).spm = s.spm ∧ (s.onSeq f).spf = s.spf ∧ (s.onSeq f).otp = s.otp ∧
    (s.onSeq f).sec = s.sec ∧ (s.onSeq f).cores = s.cores ∧ (s.onSeq f).emitted = s.emitted ∧
    (s.onSeq f).romKey = s.romKey ∧ (s.onSeq f).freeCtr = s.freeCtr ∧ (s.onSeq f).pending = s.pending := by
  and_intros <;> rfl

@[simp] theorem onSeq_seq (f : SeqH → SeqH) : (s.onSeq f).seq = f s.seq := rfl

@[simp] theorem onAccu_frame (f : AccuH → AccuH) :
    (s.onAccu f).regs = s.regs ∧ (s.onAccu f).shad = s.shad ∧ (s.onAccu f).mems = s.mems ∧
    (s.onAccu f).bus = s.bus ∧ (s.onAccu f).pwr = s.pwr ∧ (s.onAccu f).clk = s.clk ∧
    (s.onAccu f).time = s.time ∧ (s.onAccu f).boot = s.boot ∧ (s.onAccu f).evt = s.evt ∧
    (s.onAccu f).ports = s.ports ∧ (s.onAccu f).cnvs = s.cnvs ∧ (s.onAccu f).eqs = s.eqs ∧
    (s.onAccu f).softs = s.softs ∧ (s.onAccu f).tstats = s.tstats ∧ (s.onAccu f).pcvs = s.pcvs ∧
    (s.onAccu f).seq = s.seq ∧ (s.onAccu f).pwms = s.pwms ∧ (s.onAccu f).ringQ = s.ringQ ∧
    (s.onAccu f).filts = s.filts ∧ (s.onAccu f).herds = s.herds ∧ (s.onAccu f).lines = s.lines ∧
    (s.onAccu f).links = s.links ∧
    (s.onAccu f).sess = s.sess ∧ (s.onAccu f).memc = s.memc ∧ (s.onAccu f).spm = s.spm ∧
    (s.onAccu f).spf = s.spf ∧ (s.onAccu f).otp = s.otp ∧ (s.onAccu f).sec = s.sec ∧
    (s.onAccu f).cores = s.cores ∧ (s.onAccu f).emitted = s.emitted ∧ (s.onAccu f).romKey = s.romKey ∧
    (s.onAccu f).freeCtr = s.freeCtr ∧
    (s.onAccu f).pending = s.pending := by
  and_intros <;> rfl

@[simp] theorem onAccu_accu (f : AccuH → AccuH) : (s.onAccu f).accu = f s.accu := rfl

@[simp] theorem onMemc_frame (f : MemH → MemH) :
    (s.onMemc f).regs = s.regs ∧ (s.onMemc f).shad = s.shad ∧ (s.onMemc f).mems = s.mems ∧
    (s.onMemc f).bus = s.bus ∧ (s.onMemc f).pwr = s.pwr ∧ (s.onMemc f).clk = s.clk ∧
    (s.onMemc f).time = s.time ∧ (s.onMemc f).boot = s.boot ∧ (s.onMemc f).evt = s.evt ∧
    (s.onMemc f).ports = s.ports ∧ (s.onMemc f).cnvs = s.cnvs ∧ (s.onMemc f).eqs = s.eqs ∧
    (s.onMemc f).softs = s.softs ∧ (s.onMemc f).tstats = s.tstats ∧ (s.onMemc f).pcvs = s.pcvs ∧
    (s.onMemc f).seq = s.seq ∧ (s.onMemc f).pwms = s.pwms ∧ (s.onMemc f).accu = s.accu ∧
    (s.onMemc f).ringQ = s.ringQ ∧ (s.onMemc f).filts = s.filts ∧ (s.onMemc f).herds = s.herds ∧
    (s.onMemc f).lines = s.lines ∧ (s.onMemc f).links = s.links ∧ (s.onMemc f).sess = s.sess ∧
    (s.onMemc f).spm = s.spm ∧
    (s.onMemc f).spf = s.spf ∧ (s.onMemc f).otp = s.otp ∧ (s.onMemc f).sec = s.sec ∧
    (s.onMemc f).cores = s.cores ∧ (s.onMemc f).emitted = s.emitted ∧ (s.onMemc f).romKey = s.romKey ∧
    (s.onMemc f).freeCtr = s.freeCtr ∧
    (s.onMemc f).pending = s.pending := by
  and_intros <;> rfl

@[simp] theorem onMemc_memc (f : MemH → MemH) : (s.onMemc f).memc = f s.memc := rfl

@[simp] theorem onSpm_frame (f : SpmH → SpmH) :
    (s.onSpm f).regs = s.regs ∧ (s.onSpm f).shad = s.shad ∧ (s.onSpm f).mems = s.mems ∧
    (s.onSpm f).bus = s.bus ∧ (s.onSpm f).pwr = s.pwr ∧ (s.onSpm f).clk = s.clk ∧ (s.onSpm f).time = s.time ∧
    (s.onSpm f).boot = s.boot ∧ (s.onSpm f).evt = s.evt ∧ (s.onSpm f).ports = s.ports ∧
    (s.onSpm f).cnvs = s.cnvs ∧ (s.onSpm f).eqs = s.eqs ∧ (s.onSpm f).softs = s.softs ∧
    (s.onSpm f).tstats = s.tstats ∧ (s.onSpm f).pcvs = s.pcvs ∧ (s.onSpm f).seq = s.seq ∧
    (s.onSpm f).pwms = s.pwms ∧ (s.onSpm f).accu = s.accu ∧ (s.onSpm f).ringQ = s.ringQ ∧
    (s.onSpm f).filts = s.filts ∧ (s.onSpm f).herds = s.herds ∧ (s.onSpm f).lines = s.lines ∧
    (s.onSpm f).links = s.links ∧
    (s.onSpm f).sess = s.sess ∧ (s.onSpm f).memc = s.memc ∧ (s.onSpm f).spf = s.spf ∧
    (s.onSpm f).otp = s.otp ∧ (s.onSpm f).sec = s.sec ∧ (s.onSpm f).cores = s.cores ∧
    (s.onSpm f).emitted = s.emitted ∧ (s.onSpm f).romKey = s.romKey ∧ (s.onSpm f).freeCtr = s.freeCtr ∧
    (s.onSpm f).pending = s.pending := by
  and_intros <;> rfl

@[simp] theorem onSpm_spm (f : SpmH → SpmH) : (s.onSpm f).spm = f s.spm := rfl

@[simp] theorem onSpf_frame (f : SpfH → SpfH) :
    (s.onSpf f).regs = s.regs ∧ (s.onSpf f).shad = s.shad ∧ (s.onSpf f).mems = s.mems ∧
    (s.onSpf f).bus = s.bus ∧ (s.onSpf f).pwr = s.pwr ∧ (s.onSpf f).clk = s.clk ∧ (s.onSpf f).time = s.time ∧
    (s.onSpf f).boot = s.boot ∧ (s.onSpf f).evt = s.evt ∧ (s.onSpf f).ports = s.ports ∧
    (s.onSpf f).cnvs = s.cnvs ∧ (s.onSpf f).eqs = s.eqs ∧ (s.onSpf f).softs = s.softs ∧
    (s.onSpf f).tstats = s.tstats ∧ (s.onSpf f).pcvs = s.pcvs ∧ (s.onSpf f).seq = s.seq ∧
    (s.onSpf f).pwms = s.pwms ∧ (s.onSpf f).accu = s.accu ∧ (s.onSpf f).ringQ = s.ringQ ∧
    (s.onSpf f).filts = s.filts ∧ (s.onSpf f).herds = s.herds ∧ (s.onSpf f).lines = s.lines ∧
    (s.onSpf f).links = s.links ∧
    (s.onSpf f).sess = s.sess ∧ (s.onSpf f).memc = s.memc ∧ (s.onSpf f).spm = s.spm ∧
    (s.onSpf f).otp = s.otp ∧ (s.onSpf f).sec = s.sec ∧ (s.onSpf f).cores = s.cores ∧
    (s.onSpf f).emitted = s.emitted ∧ (s.onSpf f).romKey = s.romKey ∧ (s.onSpf f).freeCtr = s.freeCtr ∧
    (s.onSpf f).pending = s.pending := by
  and_intros <;> rfl

@[simp] theorem onSpf_spf (f : SpfH → SpfH) : (s.onSpf f).spf = f s.spf := rfl

@[simp] theorem onOtp_frame (f : OtpH → OtpH) :
    (s.onOtp f).regs = s.regs ∧ (s.onOtp f).shad = s.shad ∧ (s.onOtp f).mems = s.mems ∧
    (s.onOtp f).bus = s.bus ∧ (s.onOtp f).pwr = s.pwr ∧ (s.onOtp f).clk = s.clk ∧ (s.onOtp f).time = s.time ∧
    (s.onOtp f).boot = s.boot ∧ (s.onOtp f).evt = s.evt ∧ (s.onOtp f).ports = s.ports ∧
    (s.onOtp f).cnvs = s.cnvs ∧ (s.onOtp f).eqs = s.eqs ∧ (s.onOtp f).softs = s.softs ∧
    (s.onOtp f).tstats = s.tstats ∧ (s.onOtp f).pcvs = s.pcvs ∧ (s.onOtp f).seq = s.seq ∧
    (s.onOtp f).pwms = s.pwms ∧ (s.onOtp f).accu = s.accu ∧ (s.onOtp f).ringQ = s.ringQ ∧
    (s.onOtp f).filts = s.filts ∧ (s.onOtp f).herds = s.herds ∧ (s.onOtp f).lines = s.lines ∧
    (s.onOtp f).links = s.links ∧
    (s.onOtp f).sess = s.sess ∧ (s.onOtp f).memc = s.memc ∧ (s.onOtp f).spm = s.spm ∧
    (s.onOtp f).spf = s.spf ∧ (s.onOtp f).sec = s.sec ∧ (s.onOtp f).cores = s.cores ∧
    (s.onOtp f).emitted = s.emitted ∧ (s.onOtp f).romKey = s.romKey ∧ (s.onOtp f).freeCtr = s.freeCtr ∧
    (s.onOtp f).pending = s.pending := by
  and_intros <;> rfl

@[simp] theorem onOtp_otp (f : OtpH → OtpH) : (s.onOtp f).otp = f s.otp := rfl

@[simp] theorem onSec_frame (f : SecH → SecH) :
    (s.onSec f).regs = s.regs ∧ (s.onSec f).shad = s.shad ∧ (s.onSec f).mems = s.mems ∧
    (s.onSec f).bus = s.bus ∧ (s.onSec f).pwr = s.pwr ∧ (s.onSec f).clk = s.clk ∧ (s.onSec f).time = s.time ∧
    (s.onSec f).boot = s.boot ∧ (s.onSec f).evt = s.evt ∧ (s.onSec f).ports = s.ports ∧
    (s.onSec f).cnvs = s.cnvs ∧ (s.onSec f).eqs = s.eqs ∧ (s.onSec f).softs = s.softs ∧
    (s.onSec f).tstats = s.tstats ∧ (s.onSec f).pcvs = s.pcvs ∧ (s.onSec f).seq = s.seq ∧
    (s.onSec f).pwms = s.pwms ∧ (s.onSec f).accu = s.accu ∧ (s.onSec f).ringQ = s.ringQ ∧
    (s.onSec f).filts = s.filts ∧ (s.onSec f).herds = s.herds ∧ (s.onSec f).lines = s.lines ∧
    (s.onSec f).links = s.links ∧
    (s.onSec f).sess = s.sess ∧ (s.onSec f).memc = s.memc ∧ (s.onSec f).spm = s.spm ∧
    (s.onSec f).spf = s.spf ∧ (s.onSec f).otp = s.otp ∧ (s.onSec f).cores = s.cores ∧
    (s.onSec f).emitted = s.emitted ∧ (s.onSec f).romKey = s.romKey ∧ (s.onSec f).freeCtr = s.freeCtr ∧
    (s.onSec f).pending = s.pending := by
  and_intros <;> rfl

@[simp] theorem onSec_sec (f : SecH → SecH) : (s.onSec f).sec = f s.sec := rfl

@[simp] theorem onMems_frame (f : Mems → Mems) :
    (s.onMems f).regs = s.regs ∧ (s.onMems f).shad = s.shad ∧ (s.onMems f).bus = s.bus ∧
    (s.onMems f).pwr = s.pwr ∧ (s.onMems f).clk = s.clk ∧ (s.onMems f).time = s.time ∧
    (s.onMems f).boot = s.boot ∧ (s.onMems f).evt = s.evt ∧ (s.onMems f).ports = s.ports ∧
    (s.onMems f).cnvs = s.cnvs ∧ (s.onMems f).eqs = s.eqs ∧ (s.onMems f).softs = s.softs ∧
    (s.onMems f).tstats = s.tstats ∧ (s.onMems f).pcvs = s.pcvs ∧ (s.onMems f).seq = s.seq ∧
    (s.onMems f).pwms = s.pwms ∧ (s.onMems f).accu = s.accu ∧ (s.onMems f).ringQ = s.ringQ ∧
    (s.onMems f).filts = s.filts ∧ (s.onMems f).herds = s.herds ∧ (s.onMems f).lines = s.lines ∧
    (s.onMems f).links = s.links ∧
    (s.onMems f).sess = s.sess ∧ (s.onMems f).memc = s.memc ∧ (s.onMems f).spm = s.spm ∧
    (s.onMems f).spf = s.spf ∧ (s.onMems f).otp = s.otp ∧ (s.onMems f).sec = s.sec ∧
    (s.onMems f).cores = s.cores ∧ (s.onMems f).emitted = s.emitted ∧ (s.onMems f).romKey = s.romKey ∧
    (s.onMems f).freeCtr = s.freeCtr ∧
    (s.onMems f).pending = s.pending := by
  and_intros <;> rfl

@[simp] theorem onMems_mems (f : Mems → Mems) : (s.onMems f).mems = f s.mems := rfl

@[simp] theorem onPort_frame (i : Nat) (f : PortH → PortH) :
    (s.onPort i f).regs = s.regs ∧ (s.onPort i f).shad = s.shad ∧ (s.onPort i f).mems = s.mems ∧
    (s.onPort i f).bus = s.bus ∧ (s.onPort i f).pwr = s.pwr ∧ (s.onPort i f).clk = s.clk ∧
    (s.onPort i f).time = s.time ∧ (s.onPort i f).boot = s.boot ∧ (s.onPort i f).evt = s.evt ∧
    (s.onPort i f).cnvs = s.cnvs ∧ (s.onPort i f).eqs = s.eqs ∧ (s.onPort i f).softs = s.softs ∧
    (s.onPort i f).tstats = s.tstats ∧ (s.onPort i f).pcvs = s.pcvs ∧ (s.onPort i f).seq = s.seq ∧
    (s.onPort i f).pwms = s.pwms ∧ (s.onPort i f).accu = s.accu ∧ (s.onPort i f).ringQ = s.ringQ ∧
    (s.onPort i f).filts = s.filts ∧ (s.onPort i f).herds = s.herds ∧ (s.onPort i f).lines = s.lines ∧
    (s.onPort i f).links = s.links ∧
    (s.onPort i f).sess = s.sess ∧ (s.onPort i f).memc = s.memc ∧ (s.onPort i f).spm = s.spm ∧
    (s.onPort i f).spf = s.spf ∧ (s.onPort i f).otp = s.otp ∧ (s.onPort i f).sec = s.sec ∧
    (s.onPort i f).cores = s.cores ∧ (s.onPort i f).emitted = s.emitted ∧ (s.onPort i f).romKey = s.romKey ∧
    (s.onPort i f).freeCtr = s.freeCtr ∧
    (s.onPort i f).pending = s.pending := by
  and_intros <;> rfl

theorem onPort_ports (i : Nat) (f : PortH → PortH) : (s.onPort i f).ports = vset s.ports i (f (s.port i)) := rfl

@[simp] theorem onCnv_frame (i : Nat) (f : CnvH → CnvH) :
    (s.onCnv i f).regs = s.regs ∧ (s.onCnv i f).shad = s.shad ∧ (s.onCnv i f).mems = s.mems ∧
    (s.onCnv i f).bus = s.bus ∧ (s.onCnv i f).pwr = s.pwr ∧ (s.onCnv i f).clk = s.clk ∧
    (s.onCnv i f).time = s.time ∧ (s.onCnv i f).boot = s.boot ∧ (s.onCnv i f).evt = s.evt ∧
    (s.onCnv i f).ports = s.ports ∧ (s.onCnv i f).eqs = s.eqs ∧ (s.onCnv i f).softs = s.softs ∧
    (s.onCnv i f).tstats = s.tstats ∧ (s.onCnv i f).pcvs = s.pcvs ∧ (s.onCnv i f).seq = s.seq ∧
    (s.onCnv i f).pwms = s.pwms ∧ (s.onCnv i f).accu = s.accu ∧ (s.onCnv i f).ringQ = s.ringQ ∧
    (s.onCnv i f).filts = s.filts ∧ (s.onCnv i f).herds = s.herds ∧ (s.onCnv i f).lines = s.lines ∧
    (s.onCnv i f).links = s.links ∧
    (s.onCnv i f).sess = s.sess ∧ (s.onCnv i f).memc = s.memc ∧ (s.onCnv i f).spm = s.spm ∧
    (s.onCnv i f).spf = s.spf ∧ (s.onCnv i f).otp = s.otp ∧ (s.onCnv i f).sec = s.sec ∧
    (s.onCnv i f).cores = s.cores ∧ (s.onCnv i f).emitted = s.emitted ∧ (s.onCnv i f).romKey = s.romKey ∧
    (s.onCnv i f).freeCtr = s.freeCtr ∧
    (s.onCnv i f).pending = s.pending := by
  and_intros <;> rfl

theorem onCnv_cnvs (i : Nat) (f : CnvH → CnvH) : (s.onCnv i f).cnvs = vset s.cnvs i (f (s.cnv i)) := rfl

@[simp] theorem onEq_frame (i : Nat) (f : EqH → EqH) :
    (s.onEq i f).regs = s.regs ∧ (s.onEq i f).shad = s.shad ∧ (s.onEq i f).mems = s.mems ∧
    (s.onEq i f).bus = s.bus ∧ (s.onEq i f).pwr = s.pwr ∧ (s.onEq i f).clk = s.clk ∧
    (s.onEq i f).time = s.time ∧ (s.onEq i f).boot = s.boot ∧ (s.onEq i f).evt = s.evt ∧
    (s.onEq i f).ports = s.ports ∧ (s.onEq i f).cnvs = s.cnvs ∧ (s.onEq i f).softs = s.softs ∧
    (s.onEq i f).tstats = s.tstats ∧ (s.onEq i f).pcvs = s.pcvs ∧ (s.onEq i f).seq = s.seq ∧
    (s.onEq i f).pwms = s.pwms ∧ (s.onEq i f).accu = s.accu ∧ (s.onEq i f).ringQ = s.ringQ ∧
    (s.onEq i f).filts = s.filts ∧ (s.onEq i f).herds = s.herds ∧ (s.onEq i f).lines = s.lines ∧
    (s.onEq i f).links = s.links ∧
    (s.onEq i f).sess = s.sess ∧ (s.onEq i f).memc = s.memc ∧ (s.onEq i f).spm = s.spm ∧
    (s.onEq i f).spf = s.spf ∧ (s.onEq i f).otp = s.otp ∧ (s.onEq i f).sec = s.sec ∧
    (s.onEq i f).cores = s.cores ∧ (s.onEq i f).emitted = s.emitted ∧ (s.onEq i f).romKey = s.romKey ∧
    (s.onEq i f).freeCtr = s.freeCtr ∧
    (s.onEq i f).pending = s.pending := by
  and_intros <;> rfl

theorem onEq_eqs (i : Nat) (f : EqH → EqH) : (s.onEq i f).eqs = vset s.eqs i (f (s.eq i)) := rfl

@[simp] theorem onSoft_frame (i : Nat) (f : SoftH → SoftH) :
    (s.onSoft i f).regs = s.regs ∧ (s.onSoft i f).shad = s.shad ∧ (s.onSoft i f).mems = s.mems ∧
    (s.onSoft i f).bus = s.bus ∧ (s.onSoft i f).pwr = s.pwr ∧ (s.onSoft i f).clk = s.clk ∧
    (s.onSoft i f).time = s.time ∧ (s.onSoft i f).boot = s.boot ∧ (s.onSoft i f).evt = s.evt ∧
    (s.onSoft i f).ports = s.ports ∧ (s.onSoft i f).cnvs = s.cnvs ∧ (s.onSoft i f).eqs = s.eqs ∧
    (s.onSoft i f).tstats = s.tstats ∧ (s.onSoft i f).pcvs = s.pcvs ∧ (s.onSoft i f).seq = s.seq ∧
    (s.onSoft i f).pwms = s.pwms ∧ (s.onSoft i f).accu = s.accu ∧ (s.onSoft i f).ringQ = s.ringQ ∧
    (s.onSoft i f).filts = s.filts ∧ (s.onSoft i f).herds = s.herds ∧ (s.onSoft i f).lines = s.lines ∧
    (s.onSoft i f).links = s.links ∧
    (s.onSoft i f).sess = s.sess ∧ (s.onSoft i f).memc = s.memc ∧ (s.onSoft i f).spm = s.spm ∧
    (s.onSoft i f).spf = s.spf ∧ (s.onSoft i f).otp = s.otp ∧ (s.onSoft i f).sec = s.sec ∧
    (s.onSoft i f).cores = s.cores ∧ (s.onSoft i f).emitted = s.emitted ∧ (s.onSoft i f).romKey = s.romKey ∧
    (s.onSoft i f).freeCtr = s.freeCtr ∧
    (s.onSoft i f).pending = s.pending := by
  and_intros <;> rfl

theorem onSoft_softs (i : Nat) (f : SoftH → SoftH) : (s.onSoft i f).softs = vset s.softs i (f (s.soft i)) := rfl

@[simp] theorem onTstat_frame (i : Nat) (f : TstatH → TstatH) :
    (s.onTstat i f).regs = s.regs ∧ (s.onTstat i f).shad = s.shad ∧ (s.onTstat i f).mems = s.mems ∧
    (s.onTstat i f).bus = s.bus ∧ (s.onTstat i f).pwr = s.pwr ∧ (s.onTstat i f).clk = s.clk ∧
    (s.onTstat i f).time = s.time ∧ (s.onTstat i f).boot = s.boot ∧ (s.onTstat i f).evt = s.evt ∧
    (s.onTstat i f).ports = s.ports ∧ (s.onTstat i f).cnvs = s.cnvs ∧ (s.onTstat i f).eqs = s.eqs ∧
    (s.onTstat i f).softs = s.softs ∧ (s.onTstat i f).pcvs = s.pcvs ∧ (s.onTstat i f).seq = s.seq ∧
    (s.onTstat i f).pwms = s.pwms ∧ (s.onTstat i f).accu = s.accu ∧ (s.onTstat i f).ringQ = s.ringQ ∧
    (s.onTstat i f).filts = s.filts ∧ (s.onTstat i f).herds = s.herds ∧ (s.onTstat i f).lines = s.lines ∧
    (s.onTstat i f).links = s.links ∧
    (s.onTstat i f).sess = s.sess ∧ (s.onTstat i f).memc = s.memc ∧ (s.onTstat i f).spm = s.spm ∧
    (s.onTstat i f).spf = s.spf ∧ (s.onTstat i f).otp = s.otp ∧ (s.onTstat i f).sec = s.sec ∧
    (s.onTstat i f).cores = s.cores ∧ (s.onTstat i f).emitted = s.emitted ∧
    (s.onTstat i f).romKey = s.romKey ∧ (s.onTstat i f).freeCtr = s.freeCtr ∧
    (s.onTstat i f).pending = s.pending := by
  and_intros <;> rfl

theorem onTstat_tstats (i : Nat) (f : TstatH → TstatH) : (s.onTstat i f).tstats = vset s.tstats i (f (s.tstat i)) := rfl

@[simp] theorem onPcv_frame (i : Nat) (f : PcvH → PcvH) :
    (s.onPcv i f).regs = s.regs ∧ (s.onPcv i f).shad = s.shad ∧ (s.onPcv i f).mems = s.mems ∧
    (s.onPcv i f).bus = s.bus ∧ (s.onPcv i f).pwr = s.pwr ∧ (s.onPcv i f).clk = s.clk ∧
    (s.onPcv i f).time = s.time ∧ (s.onPcv i f).boot = s.boot ∧ (s.onPcv i f).evt = s.evt ∧
    (s.onPcv i f).ports = s.ports ∧ (s.onPcv i f).cnvs = s.cnvs ∧ (s.onPcv i f).eqs = s.eqs ∧
    (s.onPcv i f).softs = s.softs ∧ (s.onPcv i f).tstats = s.tstats ∧ (s.onPcv i f).seq = s.seq ∧
    (s.onPcv i f).pwms = s.pwms ∧ (s.onPcv i f).accu = s.accu ∧ (s.onPcv i f).ringQ = s.ringQ ∧
    (s.onPcv i f).filts = s.filts ∧ (s.onPcv i f).herds = s.herds ∧ (s.onPcv i f).lines = s.lines ∧
    (s.onPcv i f).links = s.links ∧
    (s.onPcv i f).sess = s.sess ∧ (s.onPcv i f).memc = s.memc ∧ (s.onPcv i f).spm = s.spm ∧
    (s.onPcv i f).spf = s.spf ∧ (s.onPcv i f).otp = s.otp ∧ (s.onPcv i f).sec = s.sec ∧
    (s.onPcv i f).cores = s.cores ∧ (s.onPcv i f).emitted = s.emitted ∧ (s.onPcv i f).romKey = s.romKey ∧
    (s.onPcv i f).freeCtr = s.freeCtr ∧
    (s.onPcv i f).pending = s.pending := by
  and_intros <;> rfl

theorem onPcv_pcvs (i : Nat) (f : PcvH → PcvH) : (s.onPcv i f).pcvs = vset s.pcvs i (f (s.pcv i)) := rfl

@[simp] theorem onPwm_frame (i : Nat) (f : PwmH → PwmH) :
    (s.onPwm i f).regs = s.regs ∧ (s.onPwm i f).shad = s.shad ∧ (s.onPwm i f).mems = s.mems ∧
    (s.onPwm i f).bus = s.bus ∧ (s.onPwm i f).pwr = s.pwr ∧ (s.onPwm i f).clk = s.clk ∧
    (s.onPwm i f).time = s.time ∧ (s.onPwm i f).boot = s.boot ∧ (s.onPwm i f).evt = s.evt ∧
    (s.onPwm i f).ports = s.ports ∧ (s.onPwm i f).cnvs = s.cnvs ∧ (s.onPwm i f).eqs = s.eqs ∧
    (s.onPwm i f).softs = s.softs ∧ (s.onPwm i f).tstats = s.tstats ∧ (s.onPwm i f).pcvs = s.pcvs ∧
    (s.onPwm i f).seq = s.seq ∧ (s.onPwm i f).accu = s.accu ∧ (s.onPwm i f).ringQ = s.ringQ ∧
    (s.onPwm i f).filts = s.filts ∧ (s.onPwm i f).herds = s.herds ∧ (s.onPwm i f).lines = s.lines ∧
    (s.onPwm i f).links = s.links ∧
    (s.onPwm i f).sess = s.sess ∧ (s.onPwm i f).memc = s.memc ∧ (s.onPwm i f).spm = s.spm ∧
    (s.onPwm i f).spf = s.spf ∧ (s.onPwm i f).otp = s.otp ∧ (s.onPwm i f).sec = s.sec ∧
    (s.onPwm i f).cores = s.cores ∧ (s.onPwm i f).emitted = s.emitted ∧ (s.onPwm i f).romKey = s.romKey ∧
    (s.onPwm i f).freeCtr = s.freeCtr ∧
    (s.onPwm i f).pending = s.pending := by
  and_intros <;> rfl

theorem onPwm_pwms (i : Nat) (f : PwmH → PwmH) : (s.onPwm i f).pwms = vset s.pwms i (f (s.pwm i)) := rfl

@[simp] theorem onFilt_frame (i : Nat) (f : FiltH → FiltH) :
    (s.onFilt i f).regs = s.regs ∧ (s.onFilt i f).shad = s.shad ∧ (s.onFilt i f).mems = s.mems ∧
    (s.onFilt i f).bus = s.bus ∧ (s.onFilt i f).pwr = s.pwr ∧ (s.onFilt i f).clk = s.clk ∧
    (s.onFilt i f).time = s.time ∧ (s.onFilt i f).boot = s.boot ∧ (s.onFilt i f).evt = s.evt ∧
    (s.onFilt i f).ports = s.ports ∧ (s.onFilt i f).cnvs = s.cnvs ∧ (s.onFilt i f).eqs = s.eqs ∧
    (s.onFilt i f).softs = s.softs ∧ (s.onFilt i f).tstats = s.tstats ∧ (s.onFilt i f).pcvs = s.pcvs ∧
    (s.onFilt i f).seq = s.seq ∧ (s.onFilt i f).pwms = s.pwms ∧ (s.onFilt i f).accu = s.accu ∧
    (s.onFilt i f).ringQ = s.ringQ ∧ (s.onFilt i f).herds = s.herds ∧ (s.onFilt i f).lines = s.lines ∧
    (s.onFilt i f).links = s.links ∧
    (s.onFilt i f).sess = s.sess ∧ (s.onFilt i f).memc = s.memc ∧ (s.onFilt i f).spm = s.spm ∧
    (s.onFilt i f).spf = s.spf ∧ (s.onFilt i f).otp = s.otp ∧ (s.onFilt i f).sec = s.sec ∧
    (s.onFilt i f).cores = s.cores ∧ (s.onFilt i f).emitted = s.emitted ∧ (s.onFilt i f).romKey = s.romKey ∧
    (s.onFilt i f).freeCtr = s.freeCtr ∧
    (s.onFilt i f).pending = s.pending := by
  and_intros <;> rfl

theorem onFilt_filts (i : Nat) (f : FiltH → FiltH) : (s.onFilt i f).filts = vset s.filts i (f (s.filt i)) := rfl

@[simp] theorem onHerd_frame (i : Nat) (f : HerdH → HerdH) :
    (s.onHerd i f).regs = s.regs ∧ (s.onHerd i f).shad = s.shad ∧ (s.onHerd i f).mems = s.mems ∧
    (s.onHerd i f).bus = s.bus ∧ (s.onHerd i f).pwr = s.pwr ∧ (s.onHerd i f).clk = s.clk ∧
    (s.onHerd i f).time = s.time ∧ (s.onHerd i f).boot = s.boot ∧ (s.onHerd i f).evt = s.evt ∧
    (s.onHerd i f).ports = s.ports ∧ (s.onHerd i f).cnvs = s.cnvs ∧ (s.onHerd i f).eqs = s.eqs ∧
    (s.onHerd i f).softs = s.softs ∧ (s.onHerd i f).tstats = s.tstats ∧ (s.onHerd i f).pcvs = s.pcvs ∧
    (s.onHerd i f).seq = s.seq ∧ (s.onHerd i f).pwms = s.pwms ∧ (s.onHerd i f).accu = s.accu ∧
    (s.onHerd i f).ringQ = s.ringQ ∧ (s.onHerd i f).filts = s.filts ∧ (s.onHerd i f).lines = s.lines ∧
    (s.onHerd i f).links = s.links ∧
    (s.onHerd i f).sess = s.sess ∧ (s.onHerd i f).memc = s.memc ∧ (s.onHerd i f).spm = s.spm ∧
    (s.onHerd i f).spf = s.spf ∧ (s.onHerd i f).otp = s.otp ∧ (s.onHerd i f).sec = s.sec ∧
    (s.onHerd i f).cores = s.cores ∧ (s.onHerd i f).emitted = s.emitted ∧ (s.onHerd i f).romKey = s.romKey ∧
    (s.onHerd i f).freeCtr = s.freeCtr ∧
    (s.onHerd i f).pending = s.pending := by
  and_intros <;> rfl

@[simp] theorem onLine_frame (i : Nat) (f : LineH → LineH) :
    (s.onLine i f).regs = s.regs ∧ (s.onLine i f).shad = s.shad ∧ (s.onLine i f).mems = s.mems ∧
    (s.onLine i f).bus = s.bus ∧ (s.onLine i f).pwr = s.pwr ∧ (s.onLine i f).clk = s.clk ∧
    (s.onLine i f).time = s.time ∧ (s.onLine i f).boot = s.boot ∧ (s.onLine i f).evt = s.evt ∧
    (s.onLine i f).ports = s.ports ∧ (s.onLine i f).cnvs = s.cnvs ∧ (s.onLine i f).eqs = s.eqs ∧
    (s.onLine i f).softs = s.softs ∧ (s.onLine i f).tstats = s.tstats ∧ (s.onLine i f).pcvs = s.pcvs ∧
    (s.onLine i f).seq = s.seq ∧ (s.onLine i f).pwms = s.pwms ∧ (s.onLine i f).accu = s.accu ∧
    (s.onLine i f).ringQ = s.ringQ ∧ (s.onLine i f).filts = s.filts ∧ (s.onLine i f).herds = s.herds ∧
    (s.onLine i f).links = s.links ∧
    (s.onLine i f).sess = s.sess ∧ (s.onLine i f).memc = s.memc ∧ (s.onLine i f).spm = s.spm ∧
    (s.onLine i f).spf = s.spf ∧ (s.onLine i f).otp = s.otp ∧ (s.onLine i f).sec = s.sec ∧
    (s.onLine i f).cores = s.cores ∧ (s.onLine i f).emitted = s.emitted ∧ (s.onLine i f).romKey = s.romKey ∧
    (s.onLine i f).freeCtr = s.freeCtr ∧
    (s.onLine i f).pending = s.pending := by
  and_intros <;> rfl

theorem onHerd_herds (i : Nat) (f : HerdH → HerdH) : (s.onHerd i f).herds = vset s.herds i (f (s.herd i)) := rfl

@[simp] theorem onLink_frame (i : Nat) (f : LinkH → LinkH) :
    (s.onLink i f).regs = s.regs ∧ (s.onLink i f).shad = s.shad ∧ (s.onLink i f).mems = s.mems ∧
    (s.onLink i f).bus = s.bus ∧ (s.onLink i f).pwr = s.pwr ∧ (s.onLink i f).clk = s.clk ∧
    (s.onLink i f).time = s.time ∧ (s.onLink i f).boot = s.boot ∧ (s.onLink i f).evt = s.evt ∧
    (s.onLink i f).ports = s.ports ∧ (s.onLink i f).cnvs = s.cnvs ∧ (s.onLink i f).eqs = s.eqs ∧
    (s.onLink i f).softs = s.softs ∧ (s.onLink i f).tstats = s.tstats ∧ (s.onLink i f).pcvs = s.pcvs ∧
    (s.onLink i f).seq = s.seq ∧ (s.onLink i f).pwms = s.pwms ∧ (s.onLink i f).accu = s.accu ∧
    (s.onLink i f).ringQ = s.ringQ ∧ (s.onLink i f).filts = s.filts ∧ (s.onLink i f).herds = s.herds ∧
    (s.onLink i f).lines = s.lines ∧ (s.onLink i f).sess = s.sess ∧ (s.onLink i f).memc = s.memc ∧
    (s.onLink i f).spm = s.spm ∧
    (s.onLink i f).spf = s.spf ∧ (s.onLink i f).otp = s.otp ∧ (s.onLink i f).sec = s.sec ∧
    (s.onLink i f).cores = s.cores ∧ (s.onLink i f).emitted = s.emitted ∧ (s.onLink i f).romKey = s.romKey ∧
    (s.onLink i f).freeCtr = s.freeCtr ∧
    (s.onLink i f).pending = s.pending := by
  and_intros <;> rfl

theorem onLink_links (i : Nat) (f : LinkH → LinkH) : (s.onLink i f).links = vset s.links i (f (s.link i)) := rfl

@[simp] theorem onSes_frame (i : Nat) (f : SesH → SesH) :
    (s.onSes i f).regs = s.regs ∧ (s.onSes i f).shad = s.shad ∧ (s.onSes i f).mems = s.mems ∧
    (s.onSes i f).bus = s.bus ∧ (s.onSes i f).pwr = s.pwr ∧ (s.onSes i f).clk = s.clk ∧
    (s.onSes i f).time = s.time ∧ (s.onSes i f).boot = s.boot ∧ (s.onSes i f).evt = s.evt ∧
    (s.onSes i f).ports = s.ports ∧ (s.onSes i f).cnvs = s.cnvs ∧ (s.onSes i f).eqs = s.eqs ∧
    (s.onSes i f).softs = s.softs ∧ (s.onSes i f).tstats = s.tstats ∧ (s.onSes i f).pcvs = s.pcvs ∧
    (s.onSes i f).seq = s.seq ∧ (s.onSes i f).pwms = s.pwms ∧ (s.onSes i f).accu = s.accu ∧
    (s.onSes i f).ringQ = s.ringQ ∧ (s.onSes i f).filts = s.filts ∧ (s.onSes i f).herds = s.herds ∧
    (s.onSes i f).lines = s.lines ∧ (s.onSes i f).links = s.links ∧ (s.onSes i f).memc = s.memc ∧
    (s.onSes i f).spm = s.spm ∧
    (s.onSes i f).spf = s.spf ∧ (s.onSes i f).otp = s.otp ∧ (s.onSes i f).sec = s.sec ∧
    (s.onSes i f).cores = s.cores ∧ (s.onSes i f).emitted = s.emitted ∧ (s.onSes i f).romKey = s.romKey ∧
    (s.onSes i f).freeCtr = s.freeCtr ∧
    (s.onSes i f).pending = s.pending := by
  and_intros <;> rfl

theorem onSes_sess (i : Nat) (f : SesH → SesH) : (s.onSes i f).sess = vset s.sess i (f (s.ses i)) := rfl

@[simp] theorem onCore_frame (i : Nat) (f : CoreH → CoreH) :
    (s.onCore i f).regs = s.regs ∧ (s.onCore i f).shad = s.shad ∧ (s.onCore i f).mems = s.mems ∧
    (s.onCore i f).bus = s.bus ∧ (s.onCore i f).pwr = s.pwr ∧ (s.onCore i f).clk = s.clk ∧
    (s.onCore i f).time = s.time ∧ (s.onCore i f).boot = s.boot ∧ (s.onCore i f).evt = s.evt ∧
    (s.onCore i f).ports = s.ports ∧ (s.onCore i f).cnvs = s.cnvs ∧ (s.onCore i f).eqs = s.eqs ∧
    (s.onCore i f).softs = s.softs ∧ (s.onCore i f).tstats = s.tstats ∧ (s.onCore i f).pcvs = s.pcvs ∧
    (s.onCore i f).seq = s.seq ∧ (s.onCore i f).pwms = s.pwms ∧ (s.onCore i f).accu = s.accu ∧
    (s.onCore i f).ringQ = s.ringQ ∧ (s.onCore i f).filts = s.filts ∧ (s.onCore i f).herds = s.herds ∧
    (s.onCore i f).lines = s.lines ∧ (s.onCore i f).links = s.links ∧ (s.onCore i f).sess = s.sess ∧
    (s.onCore i f).memc = s.memc ∧
    (s.onCore i f).spm = s.spm ∧ (s.onCore i f).spf = s.spf ∧ (s.onCore i f).otp = s.otp ∧
    (s.onCore i f).sec = s.sec ∧ (s.onCore i f).emitted = s.emitted ∧ (s.onCore i f).romKey = s.romKey ∧
    (s.onCore i f).freeCtr = s.freeCtr ∧
    (s.onCore i f).pending = s.pending := by
  and_intros <;> rfl

theorem onCore_cores (i : Nat) (f : CoreH → CoreH) : (s.onCore i f).cores = vset s.cores i (f (s.core i)) := rfl

@[simp] theorem wr_frame (x : Fld) (v : Nat) :
    (wr s x v).shad = s.shad ∧ (wr s x v).mems = s.mems ∧ (wr s x v).bus = s.bus ∧ (wr s x v).pwr = s.pwr ∧
    (wr s x v).clk = s.clk ∧ (wr s x v).time = s.time ∧ (wr s x v).boot = s.boot ∧ (wr s x v).evt = s.evt ∧
    (wr s x v).ports = s.ports ∧ (wr s x v).cnvs = s.cnvs ∧ (wr s x v).eqs = s.eqs ∧
    (wr s x v).softs = s.softs ∧ (wr s x v).tstats = s.tstats ∧ (wr s x v).pcvs = s.pcvs ∧
    (wr s x v).seq = s.seq ∧ (wr s x v).pwms = s.pwms ∧ (wr s x v).accu = s.accu ∧
    (wr s x v).ringQ = s.ringQ ∧ (wr s x v).filts = s.filts ∧ (wr s x v).herds = s.herds ∧
    (wr s x v).lines = s.lines ∧ (wr s x v).links = s.links ∧ (wr s x v).sess = s.sess ∧ (wr s x v).memc = s.memc ∧
    (wr s x v).spm = s.spm ∧ (wr s x v).spf = s.spf ∧ (wr s x v).otp = s.otp ∧ (wr s x v).sec = s.sec ∧
    (wr s x v).cores = s.cores ∧ (wr s x v).emitted = s.emitted ∧ (wr s x v).romKey = s.romKey ∧
    (wr s x v).freeCtr = s.freeCtr ∧
    (wr s x v).pending = s.pending := by
  and_intros <;> rfl

@[simp] theorem wrb_frame (x : Fld) (v : Bool) :
    (wrb s x v).shad = s.shad ∧ (wrb s x v).mems = s.mems ∧ (wrb s x v).bus = s.bus ∧
    (wrb s x v).pwr = s.pwr ∧ (wrb s x v).clk = s.clk ∧ (wrb s x v).time = s.time ∧
    (wrb s x v).boot = s.boot ∧ (wrb s x v).evt = s.evt ∧ (wrb s x v).ports = s.ports ∧
    (wrb s x v).cnvs = s.cnvs ∧ (wrb s x v).eqs = s.eqs ∧ (wrb s x v).softs = s.softs ∧
    (wrb s x v).tstats = s.tstats ∧ (wrb s x v).pcvs = s.pcvs ∧ (wrb s x v).seq = s.seq ∧
    (wrb s x v).pwms = s.pwms ∧ (wrb s x v).accu = s.accu ∧ (wrb s x v).ringQ = s.ringQ ∧
    (wrb s x v).filts = s.filts ∧ (wrb s x v).herds = s.herds ∧ (wrb s x v).lines = s.lines ∧
    (wrb s x v).links = s.links ∧
    (wrb s x v).sess = s.sess ∧ (wrb s x v).memc = s.memc ∧ (wrb s x v).spm = s.spm ∧
    (wrb s x v).spf = s.spf ∧ (wrb s x v).otp = s.otp ∧ (wrb s x v).sec = s.sec ∧
    (wrb s x v).cores = s.cores ∧ (wrb s x v).emitted = s.emitted ∧ (wrb s x v).romKey = s.romKey ∧
    (wrb s x v).freeCtr = s.freeCtr ∧
    (wrb s x v).pending = s.pending := by
  and_intros <;> rfl

@[simp] theorem bump_frame (x : Fld) (v : Nat) :
    (bump s x v).shad = s.shad ∧ (bump s x v).mems = s.mems ∧ (bump s x v).bus = s.bus ∧
    (bump s x v).pwr = s.pwr ∧ (bump s x v).clk = s.clk ∧ (bump s x v).time = s.time ∧
    (bump s x v).boot = s.boot ∧ (bump s x v).evt = s.evt ∧ (bump s x v).ports = s.ports ∧
    (bump s x v).cnvs = s.cnvs ∧ (bump s x v).eqs = s.eqs ∧ (bump s x v).softs = s.softs ∧
    (bump s x v).tstats = s.tstats ∧ (bump s x v).pcvs = s.pcvs ∧ (bump s x v).seq = s.seq ∧
    (bump s x v).pwms = s.pwms ∧ (bump s x v).accu = s.accu ∧ (bump s x v).ringQ = s.ringQ ∧
    (bump s x v).filts = s.filts ∧ (bump s x v).herds = s.herds ∧ (bump s x v).lines = s.lines ∧
    (bump s x v).links = s.links ∧
    (bump s x v).sess = s.sess ∧ (bump s x v).memc = s.memc ∧ (bump s x v).spm = s.spm ∧
    (bump s x v).spf = s.spf ∧ (bump s x v).otp = s.otp ∧ (bump s x v).sec = s.sec ∧
    (bump s x v).cores = s.cores ∧ (bump s x v).emitted = s.emitted ∧ (bump s x v).romKey = s.romKey ∧
    (bump s x v).freeCtr = s.freeCtr ∧
    (bump s x v).pending = s.pending := by
  and_intros <;> rfl

@[simp] theorem inc_frame (x : Fld) (v : Nat) :
    (inc s x v).shad = s.shad ∧ (inc s x v).mems = s.mems ∧ (inc s x v).bus = s.bus ∧
    (inc s x v).pwr = s.pwr ∧ (inc s x v).clk = s.clk ∧ (inc s x v).time = s.time ∧
    (inc s x v).boot = s.boot ∧ (inc s x v).evt = s.evt ∧ (inc s x v).ports = s.ports ∧
    (inc s x v).cnvs = s.cnvs ∧ (inc s x v).eqs = s.eqs ∧ (inc s x v).softs = s.softs ∧
    (inc s x v).tstats = s.tstats ∧ (inc s x v).pcvs = s.pcvs ∧ (inc s x v).seq = s.seq ∧
    (inc s x v).pwms = s.pwms ∧ (inc s x v).accu = s.accu ∧ (inc s x v).ringQ = s.ringQ ∧
    (inc s x v).filts = s.filts ∧ (inc s x v).herds = s.herds ∧ (inc s x v).lines = s.lines ∧
    (inc s x v).links = s.links ∧
    (inc s x v).sess = s.sess ∧ (inc s x v).memc = s.memc ∧ (inc s x v).spm = s.spm ∧
    (inc s x v).spf = s.spf ∧ (inc s x v).otp = s.otp ∧ (inc s x v).sec = s.sec ∧
    (inc s x v).cores = s.cores ∧ (inc s x v).emitted = s.emitted ∧ (inc s x v).romKey = s.romKey ∧
    (inc s x v).freeCtr = s.freeCtr ∧
    (inc s x v).pending = s.pending := by
  and_intros <;> rfl

@[simp] theorem wrS_frame (x : Fld) (v : Nat) :
    (wrS s x v).regs = s.regs ∧ (wrS s x v).mems = s.mems ∧ (wrS s x v).bus = s.bus ∧
    (wrS s x v).pwr = s.pwr ∧ (wrS s x v).clk = s.clk ∧ (wrS s x v).time = s.time ∧
    (wrS s x v).boot = s.boot ∧ (wrS s x v).evt = s.evt ∧ (wrS s x v).ports = s.ports ∧
    (wrS s x v).cnvs = s.cnvs ∧ (wrS s x v).eqs = s.eqs ∧ (wrS s x v).softs = s.softs ∧
    (wrS s x v).tstats = s.tstats ∧ (wrS s x v).pcvs = s.pcvs ∧ (wrS s x v).seq = s.seq ∧
    (wrS s x v).pwms = s.pwms ∧ (wrS s x v).accu = s.accu ∧ (wrS s x v).ringQ = s.ringQ ∧
    (wrS s x v).filts = s.filts ∧ (wrS s x v).herds = s.herds ∧ (wrS s x v).lines = s.lines ∧
    (wrS s x v).links = s.links ∧
    (wrS s x v).sess = s.sess ∧ (wrS s x v).memc = s.memc ∧ (wrS s x v).spm = s.spm ∧
    (wrS s x v).spf = s.spf ∧ (wrS s x v).otp = s.otp ∧ (wrS s x v).sec = s.sec ∧
    (wrS s x v).cores = s.cores ∧ (wrS s x v).emitted = s.emitted ∧ (wrS s x v).romKey = s.romKey ∧
    (wrS s x v).freeCtr = s.freeCtr ∧
    (wrS s x v).pending = s.pending := by
  and_intros <;> rfl

@[simp] theorem clearPage_frame (p a : Nat) :
    (clearPage s p a).mems = s.mems ∧ (clearPage s p a).bus = s.bus ∧ (clearPage s p a).pwr = s.pwr ∧
    (clearPage s p a).clk = s.clk ∧ (clearPage s p a).time = s.time ∧ (clearPage s p a).boot = s.boot ∧
    (clearPage s p a).evt = s.evt ∧ (clearPage s p a).ports = s.ports ∧ (clearPage s p a).cnvs = s.cnvs ∧
    (clearPage s p a).eqs = s.eqs ∧ (clearPage s p a).softs = s.softs ∧ (clearPage s p a).tstats = s.tstats ∧
    (clearPage s p a).pcvs = s.pcvs ∧ (clearPage s p a).seq = s.seq ∧ (clearPage s p a).pwms = s.pwms ∧
    (clearPage s p a).accu = s.accu ∧ (clearPage s p a).ringQ = s.ringQ ∧ (clearPage s p a).filts = s.filts ∧
    (clearPage s p a).herds = s.herds ∧ (clearPage s p a).lines = s.lines ∧ (clearPage s p a).links = s.links ∧
    (clearPage s p a).sess = s.sess ∧
    (clearPage s p a).memc = s.memc ∧ (clearPage s p a).spm = s.spm ∧ (clearPage s p a).spf = s.spf ∧
    (clearPage s p a).otp = s.otp ∧ (clearPage s p a).sec = s.sec ∧ (clearPage s p a).cores = s.cores ∧
    (clearPage s p a).emitted = s.emitted ∧ (clearPage s p a).romKey = s.romKey ∧
    (clearPage s p a).freeCtr = s.freeCtr ∧
    (clearPage s p a).pending = s.pending := by
  and_intros <;> rfl

@[simp] theorem free_frame :
    (free s).2.regs = s.regs ∧ (free s).2.shad = s.shad ∧ (free s).2.mems = s.mems ∧ (free s).2.bus = s.bus ∧
    (free s).2.pwr = s.pwr ∧ (free s).2.clk = s.clk ∧ (free s).2.time = s.time ∧ (free s).2.boot = s.boot ∧
    (free s).2.evt = s.evt ∧ (free s).2.ports = s.ports ∧ (free s).2.cnvs = s.cnvs ∧ (free s).2.eqs = s.eqs ∧
    (free s).2.softs = s.softs ∧ (free s).2.tstats = s.tstats ∧ (free s).2.pcvs = s.pcvs ∧
    (free s).2.seq = s.seq ∧ (free s).2.pwms = s.pwms ∧ (free s).2.accu = s.accu ∧
    (free s).2.ringQ = s.ringQ ∧ (free s).2.filts = s.filts ∧ (free s).2.herds = s.herds ∧
    (free s).2.lines = s.lines ∧ (free s).2.links = s.links ∧ (free s).2.sess = s.sess ∧ (free s).2.memc = s.memc ∧
    (free s).2.spm = s.spm ∧ (free s).2.spf = s.spf ∧ (free s).2.otp = s.otp ∧ (free s).2.sec = s.sec ∧
    (free s).2.cores = s.cores ∧ (free s).2.emitted = s.emitted ∧
    (free s).2.romKey = s.romKey ∧ (free s).2.pending = s.pending := by
  and_intros <;> rfl

/-- What is sent changes the lines and the record alone. -/
@[simp] theorem lineSend_frame (x : Out) :
    (lineSend s x).regs = s.regs ∧ (lineSend s x).shad = s.shad ∧ (lineSend s x).mems = s.mems ∧
    (lineSend s x).bus = s.bus ∧
    (lineSend s x).pwr = s.pwr ∧ (lineSend s x).clk = s.clk ∧ (lineSend s x).time = s.time ∧
    (lineSend s x).boot = s.boot ∧
    (lineSend s x).evt = s.evt ∧ (lineSend s x).ports = s.ports ∧ (lineSend s x).cnvs = s.cnvs ∧
    (lineSend s x).eqs = s.eqs ∧
    (lineSend s x).softs = s.softs ∧ (lineSend s x).tstats = s.tstats ∧ (lineSend s x).pcvs = s.pcvs ∧
    (lineSend s x).seq = s.seq ∧ (lineSend s x).pwms = s.pwms ∧ (lineSend s x).accu = s.accu ∧
    (lineSend s x).ringQ = s.ringQ ∧ (lineSend s x).filts = s.filts ∧ (lineSend s x).herds = s.herds ∧
    (lineSend s x).links = s.links ∧ (lineSend s x).sess = s.sess ∧ (lineSend s x).memc = s.memc ∧
    (lineSend s x).spm = s.spm ∧ (lineSend s x).spf = s.spf ∧ (lineSend s x).otp = s.otp ∧
    (lineSend s x).sec = s.sec ∧
    (lineSend s x).cores = s.cores ∧ (lineSend s x).emitted = s.emitted ∧ (lineSend s x).romKey = s.romKey ∧
    (lineSend s x).freeCtr = s.freeCtr ∧ (lineSend s x).pending = s.pending := by
  unfold lineSend onLines; split <;> simp

@[simp] theorem emit_frame (x : Out) :
    (emit s x).regs = s.regs ∧ (emit s x).shad = s.shad ∧ (emit s x).mems = s.mems ∧ (emit s x).bus = s.bus ∧
    (emit s x).pwr = s.pwr ∧ (emit s x).clk = s.clk ∧ (emit s x).time = s.time ∧ (emit s x).boot = s.boot ∧
    (emit s x).evt = s.evt ∧ (emit s x).ports = s.ports ∧ (emit s x).cnvs = s.cnvs ∧ (emit s x).eqs = s.eqs ∧
    (emit s x).softs = s.softs ∧ (emit s x).tstats = s.tstats ∧ (emit s x).pcvs = s.pcvs ∧
    (emit s x).seq = s.seq ∧ (emit s x).pwms = s.pwms ∧ (emit s x).accu = s.accu ∧
    (emit s x).ringQ = s.ringQ ∧ (emit s x).filts = s.filts ∧ (emit s x).herds = s.herds ∧
    (emit s x).links = s.links ∧ (emit s x).sess = s.sess ∧ (emit s x).memc = s.memc ∧
    (emit s x).spm = s.spm ∧ (emit s x).spf = s.spf ∧ (emit s x).otp = s.otp ∧ (emit s x).sec = s.sec ∧
    (emit s x).cores = s.cores ∧ (emit s x).romKey = s.romKey ∧ (emit s x).freeCtr = s.freeCtr ∧
    (emit s x).pending = s.pending := by
  unfold emit; split <;> simp

@[simp] theorem wrAll_frame (l : List (Fld × Nat)) :
    (wrAll s l).shad = s.shad ∧ (wrAll s l).mems = s.mems ∧ (wrAll s l).bus = s.bus ∧
    (wrAll s l).pwr = s.pwr ∧ (wrAll s l).clk = s.clk ∧ (wrAll s l).time = s.time ∧
    (wrAll s l).boot = s.boot ∧ (wrAll s l).evt = s.evt ∧ (wrAll s l).ports = s.ports ∧
    (wrAll s l).cnvs = s.cnvs ∧ (wrAll s l).eqs = s.eqs ∧ (wrAll s l).softs = s.softs ∧
    (wrAll s l).tstats = s.tstats ∧ (wrAll s l).pcvs = s.pcvs ∧ (wrAll s l).seq = s.seq ∧
    (wrAll s l).pwms = s.pwms ∧ (wrAll s l).accu = s.accu ∧ (wrAll s l).ringQ = s.ringQ ∧
    (wrAll s l).filts = s.filts ∧ (wrAll s l).herds = s.herds ∧ (wrAll s l).lines = s.lines ∧
    (wrAll s l).links = s.links ∧
    (wrAll s l).sess = s.sess ∧ (wrAll s l).memc = s.memc ∧ (wrAll s l).spm = s.spm ∧
    (wrAll s l).spf = s.spf ∧ (wrAll s l).otp = s.otp ∧ (wrAll s l).sec = s.sec ∧
    (wrAll s l).cores = s.cores ∧ (wrAll s l).emitted = s.emitted ∧ (wrAll s l).romKey = s.romKey ∧
    (wrAll s l).freeCtr = s.freeCtr ∧
    (wrAll s l).pending = s.pending := by
  induction l generalizing s with
  | nil => simp [wrAll]
  | cons e t ih => obtain ⟨x, v⟩ := e; simp only [wrAll, ih, wr_frame, and_self]

@[simp] theorem keepAll_frame (g : Fld → Nat) (l : List Fld) :
    (keepAll s g l).mems = s.mems ∧ (keepAll s g l).bus = s.bus ∧ (keepAll s g l).pwr = s.pwr ∧
    (keepAll s g l).clk = s.clk ∧ (keepAll s g l).time = s.time ∧ (keepAll s g l).boot = s.boot ∧
    (keepAll s g l).evt = s.evt ∧ (keepAll s g l).ports = s.ports ∧ (keepAll s g l).cnvs = s.cnvs ∧
    (keepAll s g l).eqs = s.eqs ∧ (keepAll s g l).softs = s.softs ∧ (keepAll s g l).tstats = s.tstats ∧
    (keepAll s g l).pcvs = s.pcvs ∧ (keepAll s g l).seq = s.seq ∧ (keepAll s g l).pwms = s.pwms ∧
    (keepAll s g l).accu = s.accu ∧ (keepAll s g l).ringQ = s.ringQ ∧ (keepAll s g l).filts = s.filts ∧
    (keepAll s g l).herds = s.herds ∧ (keepAll s g l).lines = s.lines ∧ (keepAll s g l).links = s.links ∧
    (keepAll s g l).sess = s.sess ∧
    (keepAll s g l).memc = s.memc ∧ (keepAll s g l).spm = s.spm ∧ (keepAll s g l).spf = s.spf ∧
    (keepAll s g l).otp = s.otp ∧ (keepAll s g l).sec = s.sec ∧ (keepAll s g l).cores = s.cores ∧
    (keepAll s g l).emitted = s.emitted ∧ (keepAll s g l).romKey = s.romKey ∧ (keepAll s g l).freeCtr = s.freeCtr ∧
    (keepAll s g l).pending = s.pending := by
  induction l generalizing s with
  | nil => simp [keepAll]
  | cons e t ih => simp only [keepAll, ih, wr_frame, wrS_frame, and_self]

/-- An element of an instance vector after it, or another, is set. -/
theorem vget_vset {α : Type} {n : Nat} (v : Vector α n) (d : α) (i j : Nat) (x : α) :
    vget (vset v i x) d j = if i = j ∧ i < n then x else vget v d j := by
  unfold vget vset
  by_cases h : i = j
  · subst h
    by_cases hn : i < n
    · simp [hn]
    · simp [hn]
  · simp [Vector.getElem?_setIfInBounds_ne, h]

@[simp] theorem onPort_port (i j : Nat) (f : PortH → PortH) :
    (s.onPort i f).port j = if i = j ∧ i < 16 then f (s.port i) else s.port j := vget_vset _ _ _ _ _

@[simp] theorem onCnv_cnv (i j : Nat) (f : CnvH → CnvH) :
    (s.onCnv i f).cnv j = if i = j ∧ i < 64 then f (s.cnv i) else s.cnv j := vget_vset _ _ _ _ _

@[simp] theorem onEq_eq (i j : Nat) (f : EqH → EqH) :
    (s.onEq i f).eq j = if i = j ∧ i < 16 then f (s.eq i) else s.eq j := vget_vset _ _ _ _ _

@[simp] theorem onSoft_soft (i j : Nat) (f : SoftH → SoftH) :
    (s.onSoft i f).soft j = if i = j ∧ i < 16 then f (s.soft i) else s.soft j := vget_vset _ _ _ _ _

@[simp] theorem onTstat_tstat (i j : Nat) (f : TstatH → TstatH) :
    (s.onTstat i f).tstat j = if i = j ∧ i < 16 then f (s.tstat i) else s.tstat j := vget_vset _ _ _ _ _

@[simp] theorem onPcv_pcv (i j : Nat) (f : PcvH → PcvH) :
    (s.onPcv i f).pcv j = if i = j ∧ i < 24 then f (s.pcv i) else s.pcv j := vget_vset _ _ _ _ _

@[simp] theorem onPwm_pwm (i j : Nat) (f : PwmH → PwmH) :
    (s.onPwm i f).pwm j = if i = j ∧ i < 64 then f (s.pwm i) else s.pwm j := vget_vset _ _ _ _ _

@[simp] theorem onFilt_filt (i j : Nat) (f : FiltH → FiltH) :
    (s.onFilt i f).filt j = if i = j ∧ i < 48 then f (s.filt i) else s.filt j := vget_vset _ _ _ _ _

@[simp] theorem onHerd_herd (i j : Nat) (f : HerdH → HerdH) :
    (s.onHerd i f).herd j = if i = j ∧ i < 17 then f (s.herd i) else s.herd j := vget_vset _ _ _ _ _

@[simp] theorem onLine_line (i j : Nat) (f : LineH → LineH) :
    (s.onLine i f).line j = if i = j ∧ i < 17 then f (s.line i) else s.line j := vget_vset _ _ _ _ _

@[simp] theorem onLink_link (i j : Nat) (f : LinkH → LinkH) :
    (s.onLink i f).link j = if i = j ∧ i < 17 then f (s.link i) else s.link j := vget_vset _ _ _ _ _

@[simp] theorem onSes_ses (i j : Nat) (f : SesH → SesH) :
    (s.onSes i f).ses j = if i = j ∧ i < 8 then f (s.ses i) else s.ses j := vget_vset _ _ _ _ _

@[simp] theorem onCore_core (i j : Nat) (f : CoreH → CoreH) :
    (s.onCore i f).core j = if i = j ∧ i < 2 then f (s.core i) else s.core j := vget_vset _ _ _ _ _

end Sys2Proof.Machine
end

