-- ==== Sys2Proof/Laws/Store.lean ====
section
/-! SUPPORT. Laws of the sparse stores: a read after a write, what a write leaves, and the canonical form, which
every operation keeps and which makes equal contents equal data. -/

namespace Sys2Proof.Machine

variable {α : Type} {d : α} {l : Store α} {k j : Nat} {v : α}

/-! ### Reading -/

@[simp] theorem Store.read_nil : Store.read d [] k = d := rfl

theorem Store.read_cons (a : Nat) (w : α) (t : Store α) :
    Store.read d ((a, w) :: t) k = if a = k then w else Store.read d t k := rfl

theorem Store.read_put (l : Store α) (k j : Nat) (v : α) :
    Store.read d (l.put k v) j = if j = k then v else Store.read d l j := by
  induction l with
  | nil => simp [Store.put, Store.read, eq_comm]
  | cons e t ih =>
    obtain ⟨a, w⟩ := e
    unfold Store.put
    by_cases h1 : k < a
    · simp only [h1, if_true, Store.read_cons]
      by_cases h : j = k
      · simp [h]
      · simp [h, Ne.symm h]
    · by_cases h2 : k = a
      · subst h2
        simp only [h1, if_false, if_true, Store.read_cons]
        by_cases h : j = k
        · simp [h]
        · simp [h, Ne.symm h]
      · simp only [h1, h2, if_false, Store.read_cons, ih]
        by_cases h : j = k
        · subst h; simp [Ne.symm h2]
        · simp [h]

theorem Store.read_filter (p : Nat → Bool) (l : Store α) (j : Nat) :
    Store.read d (l.filter (fun e => p e.1)) j = if p j then Store.read d l j else d := by
  induction l with
  | nil => simp [Store.read]
  | cons e t ih =>
    obtain ⟨a, w⟩ := e
    by_cases hp : p a = true
    · rw [List.filter_cons_of_pos (by simpa using hp), Store.read_cons, Store.read_cons, ih]
      by_cases h : a = j
      · subst h; simp [hp]
      · simp [h]
    · rw [List.filter_cons_of_neg (by simpa using hp), Store.read_cons, ih]
      by_cases h : a = j
      · subst h; simp [hp]
      · simp [h]

theorem Store.read_del (l : Store α) (k j : Nat) :
    Store.read d (l.del k) j = if j = k then d else Store.read d l j := by
  unfold Store.del
  rw [Store.read_filter (fun a => a != k) l j]
  by_cases h : j = k <;> simp [h]

/-- A write gives its key the value and leaves every other key. -/
theorem Store.read_write [DecidableEq α] (d : α) (l : Store α) (k j : Nat) (v : α) :
    Store.read d (Store.write d l k v) j = if j = k then v else Store.read d l j := by
  unfold Store.write
  by_cases h : v = d
  · simp [h, Store.read_del]
  · simp [h, Store.read_put]

theorem Store.read_delRange (d : α) (l : Store α) (lo hi j : Nat) :
    Store.read d (l.delRange lo hi) j = if lo ≤ j ∧ j < hi then d else Store.read d l j := by
  unfold Store.delRange
  rw [Store.read_filter (fun a => a < lo || hi ≤ a) l j]
  by_cases h : lo ≤ j ∧ j < hi
  · have : ¬ (j < lo ∨ hi ≤ j) := by omega
    simp [h, this]
  · have : j < lo ∨ hi ≤ j := by omega
    simp [h, this]

/-! ### The canonical form -/

/-- Every key of a store is above `a`. -/
def Store.above (a : Nat) (l : Store α) : Prop := ∀ e ∈ l, a < e.1

theorem Store.sorted_cons (a : Nat) (w : α) (t : Store α) :
    Store.sorted ((a, w) :: t) = true ↔ Store.above a t ∧ t.sorted = true := by
  induction t generalizing a w with
  | nil => simp [Store.sorted, Store.above]
  | cons e t ih =>
    obtain ⟨b, u⟩ := e
    simp only [Store.sorted, Bool.and_eq_true, decide_eq_true_eq]
    constructor
    · rintro ⟨h1, h2⟩
      refine ⟨?_, h2⟩
      intro e he
      rcases List.mem_cons.1 he with rfl | he
      · exact h1
      · exact Nat.lt_trans h1 ((ih b u).1 h2 |>.1 e he)
    · rintro ⟨h1, h2⟩
      exact ⟨h1 (b, u) (by simp), h2⟩

theorem Store.sorted_filter (p : Nat × α → Bool) (l : Store α) (h : l.sorted = true) :
    Store.sorted (l.filter p) = true := by
  induction l with
  | nil => rfl
  | cons e t ih =>
    obtain ⟨a, w⟩ := e
    obtain ⟨h1, h2⟩ := (Store.sorted_cons a w t).1 h
    by_cases hp : p (a, w) = true
    · rw [List.filter_cons_of_pos hp]
      exact (Store.sorted_cons a w _).2 ⟨fun e he => h1 e (List.mem_filter.1 he).1, ih h2⟩
    · rw [List.filter_cons_of_neg hp]
      exact ih h2

theorem Store.mem_put (l : Store α) (k : Nat) (v : α) (e : Nat × α) (h : e ∈ l.put k v) :
    e = (k, v) ∨ e ∈ l := by
  induction l with
  | nil => simpa [Store.put] using h
  | cons x t ih =>
    obtain ⟨a, w⟩ := x
    unfold Store.put at h
    split at h
    · rcases List.mem_cons.1 h with h | h
      · exact .inl h
      · exact .inr h
    · split at h
      · rcases List.mem_cons.1 h with h | h
        · exact .inl h
        · exact .inr (List.mem_cons_of_mem _ h)
      · rcases List.mem_cons.1 h with h | h
        · exact .inr (by simp [h])
        · rcases ih h with h | h
          · exact .inl h
          · exact .inr (List.mem_cons_of_mem _ h)

theorem Store.sorted_put (l : Store α) (k : Nat) (v : α) (h : l.sorted = true) : Store.sorted (l.put k v) = true := by
  induction l with
  | nil => rfl
  | cons x t ih =>
    obtain ⟨a, w⟩ := x
    obtain ⟨h1, h2⟩ := (Store.sorted_cons a w t).1 h
    unfold Store.put
    split
    · rename_i hk
      refine (Store.sorted_cons k v _).2 ⟨?_, h⟩
      intro e he
      rcases List.mem_cons.1 he with rfl | he
      · exact hk
      · exact Nat.lt_trans hk (h1 e he)
    · split
      · rename_i hk
        subst hk
        exact (Store.sorted_cons k v t).2 ⟨h1, h2⟩
      · rename_i hk1 hk2
        refine (Store.sorted_cons a w _).2 ⟨?_, ih h2⟩
        intro e he
        rcases Store.mem_put t k v e he with rfl | he
        · show a < k
          omega
        · exact h1 e he

theorem Store.wf_iff [DecidableEq α] (d : α) (l : Store α) :
    Store.wf d l = true ↔ l.sorted = true ∧ ∀ e ∈ l, e.2 ≠ d := by
  simp [Store.wf]

@[simp] theorem Store.wf_nil [DecidableEq α] (d : α) : Store.wf d ([] : Store α) = true := rfl

theorem Store.wf_filter [DecidableEq α] (p : Nat × α → Bool) (d : α) (l : Store α) (h : Store.wf d l = true) :
    Store.wf d (l.filter p) = true := by
  obtain ⟨h1, h2⟩ := (Store.wf_iff d l).1 h
  exact (Store.wf_iff d _).2 ⟨Store.sorted_filter p l h1, fun e he => h2 e (List.mem_filter.1 he).1⟩

/-- A write keeps the canonical form. -/
theorem Store.wf_write [DecidableEq α] (d : α) (l : Store α) (k : Nat) (v : α) (h : Store.wf d l = true) :
    Store.wf d (Store.write d l k v) = true := by
  unfold Store.write
  split
  · exact Store.wf_filter _ d l h
  · rename_i hv
    obtain ⟨h1, h2⟩ := (Store.wf_iff d l).1 h
    refine (Store.wf_iff d _).2 ⟨Store.sorted_put l k v h1, ?_⟩
    intro e he
    rcases Store.mem_put l k v e he with rfl | he
    · exact hv
    · exact h2 e he

theorem Store.wf_delRange [DecidableEq α] (d : α) (l : Store α) (lo hi : Nat) (h : Store.wf d l = true) :
    Store.wf d (l.delRange lo hi) = true := Store.wf_filter _ d l h

/-- A key at or below the keys of a store reads as the default. -/
theorem Store.read_above (d : α) (l : Store α) (a k : Nat) (h : Store.above a l) (hk : k ≤ a) :
    Store.read d l k = d := by
  induction l with
  | nil => rfl
  | cons e t ih =>
    obtain ⟨b, w⟩ := e
    have hb : a < b := h (b, w) (by simp)
    rw [Store.read_cons, if_neg (by omega)]
    exact ih (fun e he => h e (List.mem_cons_of_mem _ he))

/-- In canonical form, equal contents are equal data. -/
theorem Store.ext [DecidableEq α] (d : α) : ∀ (l m : Store α), Store.wf d l = true → Store.wf d m = true →
    (∀ k, Store.read d l k = Store.read d m k) → l = m := by
  intro l
  induction l with
  | nil =>
    intro m _ hm h
    cases m with
    | nil => rfl
    | cons e t =>
      obtain ⟨a, w⟩ := e
      have h1 := ((Store.wf_iff d _).1 hm).2 (a, w) (by simp)
      have h2 := h a
      simp only [Store.read_nil, Store.read_cons, if_true] at h2
      exact absurd h2.symm h1
  | cons e t ih =>
    obtain ⟨a, w⟩ := e
    intro m hl hm h
    obtain ⟨hl1, hl2⟩ := (Store.wf_iff d _).1 hl
    obtain ⟨hla, hls⟩ := (Store.sorted_cons a w t).1 hl1
    have hw : w ≠ d := hl2 (a, w) (by simp)
    cases m with
    | nil =>
      have h2 := h a
      simp only [Store.read_nil, Store.read_cons, if_true] at h2
      exact absurd h2 hw
    | cons f u =>
      obtain ⟨b, x⟩ := f
      obtain ⟨hm1, hm2⟩ := (Store.wf_iff d _).1 hm
      obtain ⟨hmb, hms⟩ := (Store.sorted_cons b x u).1 hm1
      have hx : x ≠ d := hm2 (b, x) (by simp)
      have hab : a = b := by
        rcases Nat.lt_trichotomy a b with hlt | heq | hgt
        · have h2 := h a
          rw [Store.read_cons, if_pos rfl, Store.read_cons, if_neg (by omega),
            Store.read_above d u b a hmb (by omega)] at h2
          exact absurd h2 hw
        · exact heq
        · have h2 := h b
          rw [Store.read_cons, if_neg (by omega), Store.read_above d t a b hla (by omega), Store.read_cons,
            if_pos rfl] at h2
          exact absurd h2.symm hx
      subst hab
      have hwx : w = x := by simpa [Store.read_cons] using h a
      subst hwx
      have htu : t = u := by
        apply ih u
        · exact (Store.wf_iff d t).2 ⟨hls, fun e he => hl2 e (List.mem_cons_of_mem _ he)⟩
        · exact (Store.wf_iff d u).2 ⟨hms, fun e he => hm2 e (List.mem_cons_of_mem _ he)⟩
        · intro k
          by_cases hk : k = a
          · subst hk
            rw [Store.read_above d t k k hla (Nat.le_refl _), Store.read_above d u k k hmb (Nat.le_refl _)]
          · simpa [Store.read_cons, Ne.symm hk] using h k
      rw [htu]

end Sys2Proof.Machine
end

