-- ==== Sys2Proof/Laws/Fields.lean ====
section
/-! SUPPORT. Laws of register fields: a read after a write of the same field and of another one, and what the
updates of the other parts of the state leave. Two fields are told apart by their place in the page (`Fld.apart`)
or by their pages (`Fld.afar`); both are Booleans that `rfl` evaluates on the descriptors of RegTable. -/

namespace Sys2Proof.Machine

variable {s : State}

/-- Place of a field in its page, in bits. -/
def Fld.pos (f : Fld) : Nat := f.off * 8 + f.lo

/-- The fields have different places. -/
def Fld.apart (f g : Fld) : Bool := f.pos % 32768 != g.pos % 32768

/-- The fields lie inside different pages. -/
def Fld.afar (f g : Fld) : Bool := f.page != g.page && decide (f.pos < 32768) && decide (g.pos < 32768)

theorem Fld.key_eq (f : Fld) : f.key = f.page * 32768 + f.pos := by
  unfold Fld.key Fld.pos; omega

theorem Fld.key_ne_of_apart {f g : Fld} (h : f.apart g = true) : g.key ≠ f.key := by
  unfold Fld.apart at h
  have h' : f.pos % 32768 ≠ g.pos % 32768 := by simpa using h
  rw [Fld.key_eq, Fld.key_eq]; omega

theorem Fld.key_ne_of_afar {f g : Fld} (h : f.afar g = true) : g.key ≠ f.key := by
  unfold Fld.afar at h
  simp only [Bool.and_eq_true, bne_iff_ne, ne_eq, decide_eq_true_eq] at h
  rw [Fld.key_eq, Fld.key_eq]; omega

/-! ### Reading the store -/

/-- A read sees nothing but the fields in effect. -/
theorem rd_congr {t : State} (h : t.regs = s.regs) (f : Fld) : rd t f = rd s f := by unfold rd; rw [h]

theorem rdS_congr {t : State} (h : t.shad = s.shad) (f : Fld) : rdS t f = rdS s f := by unfold rdS; rw [h]

theorem rd_wr_key (f g : Fld) (v : Nat) (h : g.key ≠ f.key) : rd (wr s f v) g = rd s g := by
  unfold rd wr
  simp only [Store.write]
  split
  · simp [Store.del, Store.read_filter (fun a => a != f.key), h]
  · simp [Store.read_put, h]

/-- A write gives the field its value, to the field's width. -/
theorem rd_wr_same (f : Fld) (v : Nat) : rd (wr s f v) f = v % 2 ^ f.width := by
  unfold rd wr; simp [Store.read_write]

theorem rd_wr_apart {f g : Fld} (v : Nat) (h : f.apart g = true) : rd (wr s f v) g = rd s g :=
  rd_wr_key f g v (Fld.key_ne_of_apart h)

theorem rd_wr_afar {f g : Fld} (v : Nat) (h : f.afar g = true) : rd (wr s f v) g = rd s g :=
  rd_wr_key f g v (Fld.key_ne_of_afar h)

@[simp] theorem rd_wrS (f g : Fld) (v : Nat) : rd (wrS s f v) g = rd s g := rfl

@[simp] theorem rdS_wr (f g : Fld) (v : Nat) : rdS (wr s f v) g = rdS s g := rfl

theorem rdS_wrS_same (f : Fld) (v : Nat) : rdS (wrS s f v) f = v % 2 ^ f.width := by
  unfold rdS wrS; simp [Store.read_write]

theorem rdb_congr {t : State} {f : Fld} (h : rd t f = rd s f) : rdb t f = rdb s f := by unfold rdb; rw [h]

theorem rdb_iff (f : Fld) : rdb s f = true ↔ rd s f ≠ 0 := by simp [rdb]

theorem rdb_false_iff (f : Fld) : rdb s f = false ↔ rd s f = 0 := by simp [rdb]

/-! ### Fields and the other parts of the state -/

@[simp] theorem rd_onBus (f : Bus → Bus) (g : Fld) : rd (s.onBus f) g = rd s g := rfl
@[simp] theorem rd_onPwr (f : PwrH → PwrH) (g : Fld) : rd (s.onPwr f) g = rd s g := rfl
@[simp] theorem rd_onClk (f : ClkH → ClkH) (g : Fld) : rd (s.onClk f) g = rd s g := rfl
@[simp] theorem rd_onTime (f : TimeH → TimeH) (g : Fld) : rd (s.onTime f) g = rd s g := rfl
@[simp] theorem rd_onBoot (f : BootH → BootH) (g : Fld) : rd (s.onBoot f) g = rd s g := rfl
@[simp] theorem rd_onEvt (f : EvtH → EvtH) (g : Fld) : rd (s.onEvt f) g = rd s g := rfl
@[simp] theorem rd_onSeq (f : SeqH → SeqH) (g : Fld) : rd (s.onSeq f) g = rd s g := rfl
@[simp] theorem rd_onAccu (f : AccuH → AccuH) (g : Fld) : rd (s.onAccu f) g = rd s g := rfl
@[simp] theorem rd_onMemc (f : MemH → MemH) (g : Fld) : rd (s.onMemc f) g = rd s g := rfl
@[simp] theorem rd_onSpm (f : SpmH → SpmH) (g : Fld) : rd (s.onSpm f) g = rd s g := rfl
@[simp] theorem rd_onSpf (f : SpfH → SpfH) (g : Fld) : rd (s.onSpf f) g = rd s g := rfl
@[simp] theorem rd_onOtp (f : OtpH → OtpH) (g : Fld) : rd (s.onOtp f) g = rd s g := rfl
@[simp] theorem rd_onSec (f : SecH → SecH) (g : Fld) : rd (s.onSec f) g = rd s g := rfl
@[simp] theorem rd_onMems (f : Mems → Mems) (g : Fld) : rd (s.onMems f) g = rd s g := rfl
@[simp] theorem rd_onPort (i : Nat) (f : PortH → PortH) (g : Fld) : rd (s.onPort i f) g = rd s g := rfl
@[simp] theorem rd_onCnv (i : Nat) (f : CnvH → CnvH) (g : Fld) : rd (s.onCnv i f) g = rd s g := rfl
@[simp] theorem rd_onEq (i : Nat) (f : EqH → EqH) (g : Fld) : rd (s.onEq i f) g = rd s g := rfl
@[simp] theorem rd_onSoft (i : Nat) (f : SoftH → SoftH) (g : Fld) : rd (s.onSoft i f) g = rd s g := rfl
@[simp] theorem rd_onTstat (i : Nat) (f : TstatH → TstatH) (g : Fld) : rd (s.onTstat i f) g = rd s g := rfl
@[simp] theorem rd_onPcv (i : Nat) (f : PcvH → PcvH) (g : Fld) : rd (s.onPcv i f) g = rd s g := rfl
@[simp] theorem rd_onPwm (i : Nat) (f : PwmH → PwmH) (g : Fld) : rd (s.onPwm i f) g = rd s g := rfl
@[simp] theorem rd_onFilt (i : Nat) (f : FiltH → FiltH) (g : Fld) : rd (s.onFilt i f) g = rd s g := rfl
@[simp] theorem rd_onHerd (i : Nat) (f : HerdH → HerdH) (g : Fld) : rd (s.onHerd i f) g = rd s g := rfl
@[simp] theorem rd_onLink (i : Nat) (f : LinkH → LinkH) (g : Fld) : rd (s.onLink i f) g = rd s g := rfl
@[simp] theorem rd_onSes (i : Nat) (f : SesH → SesH) (g : Fld) : rd (s.onSes i f) g = rd s g := rfl
@[simp] theorem rd_onCore (i : Nat) (f : CoreH → CoreH) (g : Fld) : rd (s.onCore i f) g = rd s g := rfl

@[simp] theorem rd_emit (o : Out) (g : Fld) : rd (emit s o) g = rd s g := by
  simp only [rd, emit_frame]

/-- A one-bit field after it is set. -/
theorem rd_wrb_same {f : Fld} (hw : f.width = 1) (b : Bool) : rd (wrb s f b) f = b2n b := by
  unfold wrb; rw [rd_wr_same, hw]; cases b <;> rfl

theorem rd_wrb_apart {f g : Fld} (b : Bool) (h : f.apart g = true) : rd (wrb s f b) g = rd s g := rd_wr_apart _ h

theorem rd_wrb_afar {f g : Fld} (b : Bool) (h : f.afar g = true) : rd (wrb s f b) g = rd s g := rd_wr_afar _ h

theorem rd_bump_apart {f g : Fld} (n : Nat) (h : f.apart g = true) : rd (bump s f n) g = rd s g := rd_wr_apart _ h

theorem rd_bump_afar {f g : Fld} (n : Nat) (h : f.afar g = true) : rd (bump s f n) g = rd s g := rd_wr_afar _ h

theorem rd_inc_apart {f g : Fld} (n : Nat) (h : f.apart g = true) : rd (inc s f n) g = rd s g := rd_wr_apart _ h

theorem rd_inc_afar {f g : Fld} (n : Nat) (h : f.afar g = true) : rd (inc s f n) g = rd s g := rd_wr_afar _ h

/-- Several fields set leave a field apart from each of them. -/
theorem rd_wrAll_apart {g : Fld} : ∀ (l : List (Fld × Nat)) (s : State),
    (l.all fun e => e.1.apart g || e.1.afar g) = true → rd (wrAll s l) g = rd s g
  | [], _, _ => rfl
  | (f, v) :: t, s, h => by
    simp only [List.all_cons, Bool.and_eq_true, Bool.or_eq_true] at h
    rw [wrAll, rd_wrAll_apart t _ h.2]
    rcases h.1 with h | h
    · exact rd_wr_apart v h
    · exact rd_wr_afar v h

end Sys2Proof.Machine
end

