-- ==== Sys2Proof/Laws/Raise.lean ====
section
/-! SUPPORT. What a raise can do (R175, R179, R185): its event's RAW bit is 1 afterwards, no RAW bit falls, and
besides RAW bits, the log counters of EVT[1], the drop counts of EVT[2] and the queues behind them nothing
changes. -/

namespace Sys2Proof.Machine

variable {s : State}

/-- A field that no raise writes: no RAW bit, no drop count. -/
def Fld.calm (f : Fld) : Bool :=
  decide (f.pos < 32768) && f.pos != 160
    && !(f.page == 9 && (f.pos == Reg.EVT1.LOG_DROP_COUNT.pos || f.pos == Reg.EVT1.LOG_STAT_GAP.pos))
    && !(f.page == 10 && decide (2048 ≤ f.pos) && decide (f.pos < 2304))

/-- `t` has everything `s` has but for the fields in effect and the event state. -/
def SameBut (s t : State) : Prop :=
  t = { s with regs := t.regs, evt := t.evt }

theorem SameBut.refl (s : State) : SameBut s s := rfl

theorem SameBut.trans {a b c : State} (h : SameBut a b) (k : SameBut b c) : SameBut a c := by
  unfold SameBut at *; rw [k]; rw [h]

theorem SameBut.wr (s : State) (f : Fld) (v : Nat) : SameBut s (wr s f v) := rfl

theorem SameBut.onEvt (s : State) (f : EvtH → EvtH) : SameBut s (s.onEvt f) := rfl

/-- What one raise may do to the state. -/
structure Raising (s t : State) : Prop where
  same : SameBut s t
  calm : ∀ f : Fld, f.calm = true → rd t f = rd s f
  rise : ∀ id, rawSet s id = true → rawSet t id = true

theorem Raising.refl (s : State) : Raising s s := ⟨SameBut.refl s, fun _ _ => rfl, fun _ h => h⟩

theorem Raising.trans {a b c : State} (h : Raising a b) (k : Raising b c) : Raising a c :=
  ⟨h.same.trans k.same, fun f hf => (k.calm f hf).trans (h.calm f hf), fun id hi => k.rise id (h.rise id hi)⟩

theorem Raising.onEvt (s : State) (f : EvtH → EvtH) : Raising s (s.onEvt f) :=
  ⟨rfl, fun _ _ => rfl, fun _ h => h⟩

theorem rawSet_congr {t : State} {id : Nat}
    (h : rd t (Reg.HDR.PG_EVT_RAW_RAW (id / 32)) = rd s (Reg.HDR.PG_EVT_RAW_RAW (id / 32))) :
    rawSet t id = rawSet s id := by unfold rawSet; rw [h]

/-- A write of a field that is no RAW word leaves every RAW bit. -/
theorem rawSet_wr {f : Fld} (v : Nat) (h : (f.pos % 32768 != 160) = true) (id : Nat) :
    rawSet (wr s f v) id = rawSet s id :=
  rawSet_congr (rd_wr_apart v (by simpa [Fld.apart, Fld.pos, Reg.HDR.PG_EVT_RAW_RAW] using h))

theorem Raising.drop (s : State) (f : Fld) (v : Nat)
    (h : (f.page = 9 ∧ (f.pos = Reg.EVT1.LOG_DROP_COUNT.pos ∨ f.pos = Reg.EVT1.LOG_STAT_GAP.pos))
      ∨ (f.page = 10 ∧ 2048 ≤ f.pos ∧ f.pos < 2304)) : Raising s (Machine.wr s f v) := by
  have e1 : Reg.EVT1.LOG_DROP_COUNT.pos = 672 := rfl
  have e2 : Reg.EVT1.LOG_STAT_GAP.pos = 720 := rfl
  refine ⟨rfl, fun g hg => rd_wr_key f g v ?_, fun id hi => ?_⟩
  · simp only [Fld.calm, Bool.and_eq_true, Bool.not_eq_true', decide_eq_true_eq, e1, e2] at hg
    rw [Fld.key_eq, Fld.key_eq]
    intro hk
    have hp : g.page = f.page ∧ g.pos = f.pos := by omega
    obtain ⟨hp, hq⟩ := hp
    rcases h with h | h
    · have := hg.1.2; simp [hp, hq, h.1] at this; omega
    · have := hg.2; simp [hp, hq, h.1] at this; omega
  · rw [rawSet_wr v _ id]; exact hi
    simp only [bne_iff_ne, ne_eq]; omega

theorem bit_setBit (v i j : Nat) : bit (setBit v i) j = (bit v j || i == j) := by
  unfold bit setBit
  by_cases hv : v.testBit i
  · simp only [hv, if_true]
    by_cases h : i = j
    · subst h; simp [hv]
    · simp [h]
  · simp only [hv, Bool.false_eq_true, if_false]
    have hlo : v % 2 ^ (i + 1) < 2 ^ i := by
      rw [Nat.testBit_eq_decide_div_mod_eq] at hv
      have h1 : v / 2 ^ i % 2 = 0 := by
        have : ¬ (v / 2 ^ i % 2 = 1) := by simpa using hv
        omega
      rw [Nat.pow_succ, Nat.mod_mul, h1, Nat.mul_zero, Nat.add_zero]
      exact Nat.mod_lt _ (Nat.two_pow_pos i)
    have hd : v = 2 ^ (i + 1) * (v / 2 ^ (i + 1)) + v % 2 ^ (i + 1) := (Nat.div_add_mod _ _).symm
    generalize v / 2 ^ (i + 1) = q at hd
    generalize v % 2 ^ (i + 1) = r at hd hlo
    subst hd
    have hr : r < 2 ^ (i + 1) := by rw [Nat.pow_succ]; omega
    have hr' : r + 2 ^ i < 2 ^ (i + 1) := by rw [Nat.pow_succ]; omega
    rw [Nat.add_assoc, Nat.testBit_two_pow_mul_add _ hr', Nat.testBit_two_pow_mul_add _ hr]
    by_cases hj : j < i + 1
    · simp only [hj, if_true]
      rcases Nat.lt_or_ge j i with h | h
      · rw [Nat.add_comm, Nat.testBit_two_pow_add_gt h]
        have : i ≠ j := by omega
        simp [this]
      · have : i = j := by omega
        subst this
        rw [Nat.add_comm, Nat.testBit_two_pow_add_eq]
        simp [Nat.testBit_lt_two_pow hlo]
    · have : i ≠ j := by omega
      simp [hj, this]

theorem bit_mod (v w j : Nat) (h : j < w) : bit (v % 2 ^ w) j = bit v j := by
  unfold bit; simp [Nat.testBit_mod_two_pow, h]

/-- Setting an event's RAW bit sets that bit and leaves every other. -/
theorem rawSet_setRaw (s : State) (id j : Nat) : rawSet (setRaw s id) j = (rawSet s j || id == j) := by
  unfold setRaw
  by_cases h : id / 32 = j / 32
  · unfold rawSet
    rw [← h, rd_wr_same]
    show bit (setBit (rd s (Reg.HDR.PG_EVT_RAW_RAW (id / 32))) (id % 32) % 2 ^ 32) (j % 32) = _
    rw [bit_mod _ _ _ (Nat.mod_lt _ (by decide)), bit_setBit]
    have e : (id % 32 == j % 32) = (id == j) := by
      by_cases e : id = j
      · rw [e, beq_self_eq_true, beq_self_eq_true]
      · rw [beq_eq_false_iff_ne.mpr e, beq_eq_false_iff_ne.mpr (by omega)]
    rw [e]
  · rw [rawSet_congr (rd_wr_key _ _ _ _)]
    · have : (id == j) = false := by
        rw [beq_eq_false_iff_ne]; intro e; exact h (by rw [e])
      rw [this, Bool.or_false]
    · show (j / 32 * 4096 + 20) * 8 + 0 ≠ (id / 32 * 4096 + 20) * 8 + 0
      omega

theorem Raising.setRaw (s : State) (id : Nat) : Raising s (Machine.setRaw s id) := by
  refine ⟨rfl, fun g hg => rd_wr_apart _ ?_, fun j hj => by rw [rawSet_setRaw, hj]; rfl⟩
  simp only [Fld.calm, Bool.and_eq_true, decide_eq_true_eq, bne_iff_ne, ne_eq] at hg
  show ((20 * 8 + 0) % 32768 != g.pos % 32768) = true
  simp only [bne_iff_ne, ne_eq]; omega

theorem Raising.countDrop (s : State) : Raising s (Machine.countDrop s) :=
  (Raising.drop s _ _ (.inl ⟨rfl, .inl rfl⟩)).trans (Raising.drop _ _ _ (.inl ⟨rfl, .inr rfl⟩))

theorem Raising.logRaise (s : State) (id : Nat) : Raising s (Machine.logRaise s id).1 := by
  unfold Machine.logRaise
  split
  · exact .refl s
  · split
    · exact .countDrop s
    · exact Raising.onEvt s (fun v => { v with logQ := _ })

theorem Raising.noticeFor (s : State) (id : Nat) (lg : Option Nat) (k : Nat) (hk : k < 8) :
    Raising s (Machine.noticeFor s id lg k).1 := by
  unfold Machine.noticeFor
  split
  · exact .refl s
  · split
    · refine (Raising.onEvt s _).trans (Raising.drop _ _ _ (.inr ⟨rfl, ?_, ?_⟩))
      · show 2048 ≤ (256 + 4 * k) * 8 + 0; omega
      · show (256 + 4 * k) * 8 + 0 < 2304; omega
    · exact Raising.onEvt s (fun v => { v with notices := _ })

theorem Raising.noticesFor (id : Nat) (lg : Option Nat) : ∀ (l : List Nat) (r : State × Bool), (∀ k ∈ l, k < 8) →
    Raising r.1 (Machine.noticesFor id lg l r).1
  | [], r, _ => .refl _
  | k :: t, (s, d), h => by
    simp only [Machine.noticesFor]
    exact (Raising.noticeFor s id lg k (h k (by simp))).trans
      (Raising.noticesFor id lg t (_, d || (Machine.noticeFor s id lg k).2) (fun j hj => h j (by simp [hj])))

theorem Raising.raiseN : ∀ (n : Nat) (s : State) (id : Nat), Raising s (Machine.raiseN n s id)
  | 0, s, _ => .refl s
  | n + 1, s, id => by
    simp only [Machine.raiseN]
    split
    · exact .refl s
    · have h := ((Raising.setRaw s id).trans (Raising.logRaise _ id)).trans
        ((Raising.noticesFor id (Machine.logRaise (Machine.setRaw s id) id).2.1 (List.range 8)
          ((Machine.logRaise (Machine.setRaw s id) id).1, false) (by simp)).trans (Raising.onEvt _ (fun v => { v with serial := v.serial + 1 })))
      split
      · split
        · exact (h.trans (.raiseN n _ _)).trans (.raiseN n _ _)
        · exact h.trans (.raiseN n _ _)
      · split
        · exact h.trans (.raiseN n _ _)
        · exact h

/-- Everything a raise can do. -/
theorem raise_raising (s : State) (id : Nat) : Raising s (raise s id) := Raising.raiseN 4 s id

/-- The event's RAW bit is 1 after its raise (R175). -/
theorem rawSet_raise (s : State) (id : Nat) : rawSet (raise s id) id = true := by
  unfold raise raiseN
  split
  · assumption
  · have h0 : rawSet (Machine.setRaw s id) id = true := by rw [rawSet_setRaw]; simp
    have h := (((Raising.logRaise (Machine.setRaw s id) id).trans
        ((Raising.noticesFor id (Machine.logRaise (Machine.setRaw s id) id).2.1 (List.range 8)
          ((Machine.logRaise (Machine.setRaw s id) id).1, false) (by simp)).trans
            (Raising.onEvt _ (fun v => { v with serial := v.serial + 1 }))))).rise id h0
    dsimp only
    split
    · split
      · exact (Raising.raiseN 3 _ _).rise _ ((Raising.raiseN 3 _ _).rise _ h)
      · exact (Raising.raiseN 3 _ _).rise _ h
    · split
      · exact (Raising.raiseN 3 _ _).rise _ h
      · exact h

theorem raiseIf_raising (c : Bool) (s : State) (id : Nat) : Raising s (raiseIf c s id) := by
  unfold raiseIf; split
  · exact raise_raising s id
  · exact .refl s

theorem raiseAll_raising : ∀ (l : List Nat) (s : State), Raising s (raiseAll s l)
  | [], s => .refl s
  | id :: t, s => (raise_raising s id).trans (raiseAll_raising t _)

end Sys2Proof.Machine
end

