-- ==== Sys2Proof/Laws/Follow.lean ====
section
/-! SUPPORT. What bringing the ports to their causes can do (R213 to R217, R273 to R275, R187): it writes the pages
of PORT, EQ and SOFT and the fault line, marks windows, and raises; every other field and every other part of the
state stays, and no RAW bit falls. -/

namespace Sys2Proof.Machine

/-- A field that neither a raise nor the following of the ports writes. -/
def Fld.still (f : Fld) : Bool :=
  f.calm && !(decide (16 ≤ f.page) && decide (f.page < 32)) && !(decide (96 ≤ f.page) && decide (f.page < 128))
    && !(f.page == 10 && decide (544 ≤ f.pos) && decide (f.pos ≤ 576))

/-- What following the ports may do to the state. -/
structure Following (s t : State) : Prop where
  same : t = { s with regs := t.regs, evt := t.evt, ports := t.ports, eqs := t.eqs, tstats := t.tstats, cnvs := t.cnvs }
  still : ∀ f : Fld, f.still = true → rd t f = rd s f
  rise : ∀ id, rawSet s id = true → rawSet t id = true

variable {a s : State} {p : Nat}

theorem Following.refl (s : State) : Following s s := ⟨rfl, fun _ _ => rfl, fun _ h => h⟩

theorem Following.trans {a b c : State} (h : Following a b) (k : Following b c) : Following a c := by
  refine ⟨?_, fun f hf => (k.still f hf).trans (h.still f hf), fun id hi => k.rise id (h.rise id hi)⟩
  have := k.same
  rw [h.same] at this
  exact this

theorem Following.raising {s t : State} (h : Raising s t) : Following s t := by
  refine ⟨?_, fun f hf => h.calm f ?_, h.rise⟩
  · have := h.same
    unfold SameBut at this
    rw [this]
  · simp only [Fld.still, Bool.and_eq_true] at hf
    exact hf.1.1.1

/-! Each lemma says that one function keeps `Following a`. -/

theorem fol_raise {id : Nat} (h : Following a s) : Following a (raise s id) := h.trans (.raising (raise_raising s id))

theorem fol_raiseIf {c : Bool} {id : Nat} (h : Following a s) : Following a (raiseIf c s id) :=
  h.trans (.raising (raiseIf_raising c s id))

/-- A page of the ports' chain that following writes. -/
def chainPage (n : Nat) : Prop := (16 ≤ n ∧ n < 32) ∨ (96 ≤ n ∧ n < 128)

theorem fol_wr {f : Fld} {v : Nat} (h : Following a s) (hf : chainPage f.page) (hr : f.pos ≠ 160)
    (hl : f.pos < 32768) : Following a (wr s f v) := by
  refine h.trans ⟨rfl, fun g hg => rd_wr_key f g v ?_, fun id hi => ?_⟩
  · simp only [Fld.still, Fld.calm, Bool.and_eq_true, Bool.not_eq_true', decide_eq_true_eq] at hg
    rw [Fld.key_eq, Fld.key_eq]
    intro hk
    have hp : g.page = f.page := by omega
    unfold chainPage at hf
    have h1 := hg.1.1.2
    have h2 := hg.1.2
    simp only [Bool.and_eq_false_iff, decide_eq_false_iff_not] at h1 h2
    omega
  · rw [rawSet_wr v _ id]; exact hi
    rw [Nat.mod_eq_of_lt hl]; simpa using hr

/-- FAULT_NOW and FAULT_STAT are written. -/
theorem fol_fault {f : Fld} {v : Nat} (h : Following a s) (hp : f.page = 10) (hl : 544 ≤ f.pos) (hu : f.pos ≤ 576) :
    Following a (wr s f v) := by
  have hr : (f.pos % 32768 != 160) = true := by
    rw [Nat.mod_eq_of_lt (by omega)]; simp; omega
  refine h.trans ⟨rfl, fun g hg => rd_wr_key _ g v ?_, fun id hi => by rw [rawSet_wr v hr id]; exact hi⟩
  simp only [Fld.still, Fld.calm, Bool.and_eq_true, Bool.not_eq_true', decide_eq_true_eq] at hg
  rw [Fld.key_eq, Fld.key_eq]
  intro hk
  have h2 := hg.2
  have h1 : g.page = 10 ∧ g.pos = f.pos := by omega
  rw [h1.1, h1.2] at h2
  simp [hl, hu] at h2

theorem fol_faultStat {v : Nat} (h : Following a s) : Following a (wr s Reg.EVT2.FAULT_STAT_SEEN v) :=
  fol_fault h rfl (by decide) (by decide)

theorem fol_showFault (h : Following a s) : Following a (showFault s) := by
  unfold showFault
  simp only [wrAll]
  repeat' first | exact h | apply fol_fault | decide | rfl

theorem fol_bump {f : Fld} {n : Nat} (h : Following a s) (hf : chainPage f.page) (hr : f.pos ≠ 160)
    (hl : f.pos < 32768) : Following a (bump s f n) := fol_wr h hf hr hl

theorem fol_wrb {f : Fld} {b : Bool} (h : Following a s) (hf : chainPage f.page) (hr : f.pos ≠ 160)
    (hl : f.pos < 32768) : Following a (wrb s f b) := fol_wr h hf hr hl

theorem fol_onEvt {f : EvtH → EvtH} (h : Following a s) : Following a (s.onEvt f) := h.trans ⟨rfl, fun _ _ => rfl, fun _ h => h⟩
theorem fol_onPort {i : Nat} {f : PortH → PortH} (h : Following a s) : Following a (s.onPort i f) :=
  h.trans ⟨rfl, fun _ _ => rfl, fun _ h => h⟩
theorem fol_onEq {i : Nat} {f : EqH → EqH} (h : Following a s) : Following a (s.onEq i f) :=
  h.trans ⟨rfl, fun _ _ => rfl, fun _ h => h⟩
theorem fol_onTstat {i : Nat} {f : TstatH → TstatH} (h : Following a s) : Following a (s.onTstat i f) :=
  h.trans ⟨rfl, fun _ _ => rfl, fun _ h => h⟩
theorem fol_onCnv {i : Nat} {f : CnvH → CnvH} (h : Following a s) : Following a (s.onCnv i f) :=
  h.trans ⟨rfl, fun _ _ => rfl, fun _ h => h⟩

theorem fol_ite {c : Prop} [Decidable c] {x y : State} (h : c → Following a x) (k : ¬c → Following a y) :
    Following a (if c then x else y) := by
  by_cases hc : c
  · rw [if_pos hc]; exact h hc
  · rw [if_neg hc]; exact k hc


theorem fol_updateFault (h : Following a s) : Following a (updateFault s ) := by
  unfold updateFault
  try dsimp only
  repeat' (first
    | with_reducible exact h | with_reducible apply fol_onEvt | with_reducible apply fol_onPort
    | with_reducible apply fol_onEq | with_reducible apply fol_onTstat | with_reducible apply fol_onCnv
    | with_reducible apply fol_raise | with_reducible apply fol_raiseIf | with_reducible apply fol_faultStat
    | with_reducible apply fol_showFault | with_reducible apply fol_wr | with_reducible apply fol_wrb
    | with_reducible apply fol_bump | with_reducible apply fol_ite | intro _ | split)

theorem fol_setCd (hp : p < 16) {b : Bool} {k : CdBank} (h : Following a s) : Following a (setCd s p b k) := by
  unfold setCd
  try dsimp only
  repeat' (first
    | with_reducible exact h | (unfold chainPage; simp only [Reg.EQ.CD_BANK_A_PSNM, Reg.EQ.CD_BANK_B_PSNM]; omega)
    | (simp only [Fld.pos, Reg.EQ.CD_BANK_A_PSNM, Reg.EQ.CD_BANK_B_PSNM]; first | done | omega)
    | with_reducible apply fol_onEvt | with_reducible apply fol_onPort | with_reducible apply fol_onEq
    | with_reducible apply fol_onTstat | with_reducible apply fol_onCnv | with_reducible apply fol_raise
    | with_reducible apply fol_raiseIf | with_reducible apply fol_faultStat | with_reducible apply fol_wr
    | with_reducible apply fol_wrb | with_reducible apply fol_bump | with_reducible apply fol_ite | intro _ | split)

theorem fol_setBf (hp : p < 16) {b : Bool} {k : BfBank} (h : Following a s) : Following a (setBf s p b k) := by
  unfold setBf
  try dsimp only
  repeat' (first
    | with_reducible exact h | with_reducible apply fol_onEvt | with_reducible apply fol_onPort
    | with_reducible apply fol_onEq | with_reducible apply fol_onTstat | with_reducible apply fol_onCnv
    | with_reducible apply fol_raise | with_reducible apply fol_raiseIf | with_reducible apply fol_faultStat
    | with_reducible apply fol_wr | with_reducible apply fol_wrb | with_reducible apply fol_bump
    | with_reducible apply fol_ite | intro _ | split)

theorem fol_bfEmptyFlag (hp : p < 16) (h : Following a s) : Following a (bfEmptyFlag s p) := by
  unfold bfEmptyFlag
  try dsimp only
  repeat' (first
    | with_reducible exact h | (unfold chainPage; simp only [Reg.EQ.BF_STAT_STANDBY_EMPTY]; omega)
    | (simp only [Fld.pos, Reg.EQ.BF_STAT_STANDBY_EMPTY]; first | done | omega) | with_reducible apply fol_onEvt
    | with_reducible apply fol_onPort | with_reducible apply fol_onEq | with_reducible apply fol_onTstat
    | with_reducible apply fol_onCnv | with_reducible apply fol_raise | with_reducible apply fol_raiseIf
    | with_reducible apply fol_faultStat | with_reducible apply fol_wr | with_reducible apply fol_wrb
    | with_reducible apply fol_bump | with_reducible apply fol_ite | intro _ | split)

theorem fol_swapCd (hp : p < 16) (h : Following a s) : Following a (swapCd s p) := by
  unfold swapCd
  try dsimp only
  repeat' (first
    | with_reducible exact h | (unfold chainPage; simp only [Reg.EQ.CD_NOW_PSNM, Reg.EQ.STAT_CD_BANK]; omega)
    | (simp only [Fld.pos, Reg.EQ.CD_NOW_PSNM, Reg.EQ.STAT_CD_BANK]; first | done | omega)
    | with_reducible apply fol_onEvt | with_reducible apply fol_onPort | with_reducible apply fol_onEq
    | with_reducible apply fol_onTstat | with_reducible apply fol_onCnv | with_reducible apply fol_raise
    | with_reducible apply fol_raiseIf | with_reducible apply fol_faultStat | with_reducible apply fol_wr
    | with_reducible apply fol_wrb | with_reducible apply fol_bump | with_reducible apply fol_ite | intro _ | split)

theorem fol_swapBf (hp : p < 16) (h : Following a s) : Following a (swapBf s p) := by
  unfold swapBf
  try dsimp only
  repeat' (first
    | with_reducible exact h | (unfold chainPage; simp only [Reg.EQ.STAT_BF_BANK]; omega)
    | (simp only [Fld.pos, Reg.EQ.STAT_BF_BANK]; first | done | omega) | with_reducible apply fol_onEvt
    | with_reducible apply fol_onPort | with_reducible apply fol_onEq | with_reducible apply fol_onTstat
    | with_reducible apply fol_onCnv | with_reducible apply fol_raise | with_reducible apply fol_raiseIf
    | with_reducible apply fol_faultStat | with_reducible apply fol_bfEmptyFlag hp | with_reducible apply fol_wr
    | with_reducible apply fol_wrb | with_reducible apply fol_bump | with_reducible apply fol_ite | intro _ | split)

theorem fol_takeCfg (hp : p < 16) (h : Following a s) : Following a (takeCfg s p) := by
  unfold takeCfg
  try dsimp only
  repeat' (first
    | with_reducible exact h
    | (unfold chainPage; simp only [Reg.EQ.CFG_ALG, Reg.EQ.CFG_FFT_LOG2, Reg.EQ.CFG_MOD, Reg.EQ.CFG_NOW_CFG, Reg.EQ.CFG_NTAPS, Reg.EQ.CFG_SEED_BANK, Reg.EQ.PILOT_AVG, Reg.EQ.PILOT_NOW_PILOT, Reg.EQ.PILOT_PER_LOG2, Reg.EQ.PILOT_SEED_SEED_X, Reg.EQ.PILOT_SEED_SEED_Y, Reg.EQ.SEED_NOW_SEED]; omega)
    | (simp only [Fld.pos, Reg.EQ.CFG_ALG, Reg.EQ.CFG_FFT_LOG2, Reg.EQ.CFG_MOD, Reg.EQ.CFG_NOW_CFG, Reg.EQ.CFG_NTAPS, Reg.EQ.CFG_SEED_BANK, Reg.EQ.PILOT_AVG, Reg.EQ.PILOT_NOW_PILOT, Reg.EQ.PILOT_PER_LOG2, Reg.EQ.PILOT_SEED_SEED_X, Reg.EQ.PILOT_SEED_SEED_Y, Reg.EQ.SEED_NOW_SEED]; first
    | done | omega) | with_reducible apply fol_onEvt | with_reducible apply fol_onPort
    | with_reducible apply fol_onEq | with_reducible apply fol_onTstat | with_reducible apply fol_onCnv
    | with_reducible apply fol_raise | with_reducible apply fol_raiseIf | with_reducible apply fol_faultStat
    | with_reducible apply fol_setBf hp | with_reducible apply fol_bfEmptyFlag hp | with_reducible apply fol_wr
    | with_reducible apply fol_wrb | with_reducible apply fol_bump | with_reducible apply fol_ite | intro _ | split)

theorem fol_cdFadeDone (hp : p < 16) (h : Following a s) : Following a (cdFadeDone s p) := by
  unfold cdFadeDone
  try dsimp only
  repeat' (first
    | with_reducible exact h
    | (unfold chainPage; simp only [Reg.EQ.ANN_CNT_DONE, Reg.EQ.FADE_CD_POS, Reg.EQ.STAT_CD_FADE]; omega)
    | (simp only [Fld.pos, Reg.EQ.ANN_CNT_DONE, Reg.EQ.FADE_CD_POS, Reg.EQ.STAT_CD_FADE]; first | done | omega)
    | with_reducible apply fol_onEvt | with_reducible apply fol_onPort | with_reducible apply fol_onEq
    | with_reducible apply fol_onTstat | with_reducible apply fol_onCnv | with_reducible apply fol_raise
    | with_reducible apply fol_raiseIf | with_reducible apply fol_faultStat | with_reducible apply fol_swapCd hp
    | with_reducible apply fol_wr | with_reducible apply fol_wrb | with_reducible apply fol_bump
    | with_reducible apply fol_ite | intro _ | split)

theorem fol_bfFadeDone (hp : p < 16) (h : Following a s) : Following a (bfFadeDone s p) := by
  unfold bfFadeDone
  try dsimp only
  repeat' (first
    | with_reducible exact h
    | (unfold chainPage; simp only [Reg.EQ.ANN_CNT_DONE, Reg.EQ.FADE_BF_POS, Reg.EQ.STAT_BF_FADE]; omega)
    | (simp only [Fld.pos, Reg.EQ.ANN_CNT_DONE, Reg.EQ.FADE_BF_POS, Reg.EQ.STAT_BF_FADE]; first | done | omega)
    | with_reducible apply fol_onEvt | with_reducible apply fol_onPort | with_reducible apply fol_onEq
    | with_reducible apply fol_onTstat | with_reducible apply fol_onCnv | with_reducible apply fol_raise
    | with_reducible apply fol_raiseIf | with_reducible apply fol_faultStat | with_reducible apply fol_swapBf hp
    | with_reducible apply fol_wr | with_reducible apply fol_wrb | with_reducible apply fol_bump
    | with_reducible apply fol_ite | intro _ | split)

theorem fol_loadStandbyCd (hp : p < 16) {k : CdBank} (h : Following a s) : Following a (loadStandbyCd s p k) := by
  unfold loadStandbyCd
  try dsimp only
  repeat' (first
    | with_reducible exact h | (unfold chainPage; simp only [Reg.EQ.STAT_CD_BANK]; omega)
    | (simp only [Fld.pos, Reg.EQ.STAT_CD_BANK]; first | done | omega) | with_reducible apply fol_onEvt
    | with_reducible apply fol_onPort | with_reducible apply fol_onEq | with_reducible apply fol_onTstat
    | with_reducible apply fol_onCnv | with_reducible apply fol_raise | with_reducible apply fol_raiseIf
    | with_reducible apply fol_faultStat | with_reducible apply fol_setCd hp | with_reducible apply fol_wr
    | with_reducible apply fol_wrb | with_reducible apply fol_bump | with_reducible apply fol_ite | intro _ | split)

theorem fol_startCd (hp : p < 16) {k : CdBank} (h : Following a s) : Following a (startCd s p k) := by
  unfold startCd
  try dsimp only
  repeat' (first
    | with_reducible exact h | (unfold chainPage; simp only [Reg.EQ.STAT_STATE]; omega)
    | (simp only [Fld.pos, Reg.EQ.STAT_STATE]; first | done | omega) | with_reducible apply fol_onEvt
    | with_reducible apply fol_onPort | with_reducible apply fol_onEq | with_reducible apply fol_onTstat
    | with_reducible apply fol_onCnv | with_reducible apply fol_raise | with_reducible apply fol_raiseIf
    | with_reducible apply fol_faultStat | with_reducible apply fol_swapCd hp
    | with_reducible apply fol_loadStandbyCd hp | with_reducible apply fol_wr | with_reducible apply fol_wrb
    | with_reducible apply fol_bump | with_reducible apply fol_ite | intro _ | split)

theorem fol_startPendCd (hp : p < 16) (h : Following a s) : Following a (startPendCd s p) := by
  unfold startPendCd
  try dsimp only
  repeat' (first
    | with_reducible exact h | (unfold chainPage; simp only [Reg.EQ.STAT_CD_PEND]; omega)
    | (simp only [Fld.pos, Reg.EQ.STAT_CD_PEND]; first | done | omega) | with_reducible apply fol_onEvt
    | with_reducible apply fol_onPort | with_reducible apply fol_onEq | with_reducible apply fol_onTstat
    | with_reducible apply fol_onCnv | with_reducible apply fol_raise | with_reducible apply fol_raiseIf
    | with_reducible apply fol_faultStat | with_reducible apply fol_startCd hp | with_reducible apply fol_wr
    | with_reducible apply fol_wrb | with_reducible apply fol_bump | with_reducible apply fol_ite | intro _ | split)

theorem fol_startBf (hp : p < 16) {n : Nat} (h : Following a s) : Following a (startBf s p n) := by
  unfold startBf
  try dsimp only
  repeat' (first
    | with_reducible exact h | (unfold chainPage; simp only [Reg.EQ.STAT_BF_FADE]; omega)
    | (simp only [Fld.pos, Reg.EQ.STAT_BF_FADE]; first | done | omega) | with_reducible apply fol_onEvt
    | with_reducible apply fol_onPort | with_reducible apply fol_onEq | with_reducible apply fol_onTstat
    | with_reducible apply fol_onCnv | with_reducible apply fol_raise | with_reducible apply fol_raiseIf
    | with_reducible apply fol_faultStat | with_reducible apply fol_wr | with_reducible apply fol_wrb
    | with_reducible apply fol_bump | with_reducible apply fol_ite | intro _ | split)

theorem fol_startPendBf (hp : p < 16) (h : Following a s) : Following a (startPendBf s p) := by
  unfold startPendBf
  try dsimp only
  repeat' (first
    | with_reducible exact h | (unfold chainPage; simp only [Reg.EQ.STAT_BF_PEND]; omega)
    | (simp only [Fld.pos, Reg.EQ.STAT_BF_PEND]; first | done | omega) | with_reducible apply fol_onEvt
    | with_reducible apply fol_onPort | with_reducible apply fol_onEq | with_reducible apply fol_onTstat
    | with_reducible apply fol_onCnv | with_reducible apply fol_raise | with_reducible apply fol_raiseIf
    | with_reducible apply fol_faultStat | with_reducible apply fol_startBf hp | with_reducible apply fol_wr
    | with_reducible apply fol_wrb | with_reducible apply fol_bump | with_reducible apply fol_ite | intro _ | split)

theorem fol_eqLeftTrack (hp : p < 16) (h : Following a s) : Following a (eqLeftTrack s p) := by
  unfold eqLeftTrack
  try dsimp only
  repeat' (first
    | with_reducible exact h | (unfold chainPage; simp only [Reg.EQ.STAT_BF_FADE, Reg.EQ.STAT_STATE]; omega)
    | (simp only [Fld.pos, Reg.EQ.STAT_BF_FADE, Reg.EQ.STAT_STATE]; first | done | omega)
    | with_reducible apply fol_onEvt | with_reducible apply fol_onPort | with_reducible apply fol_onEq
    | with_reducible apply fol_onTstat | with_reducible apply fol_onCnv | with_reducible apply fol_raise
    | with_reducible apply fol_raiseIf | with_reducible apply fol_faultStat | with_reducible apply fol_swapCd hp
    | with_reducible apply fol_swapBf hp | with_reducible apply fol_cdFadeDone hp
    | with_reducible apply fol_bfFadeDone hp | with_reducible apply fol_startPendCd hp
    | with_reducible apply fol_startPendBf hp | with_reducible apply fol_wr | with_reducible apply fol_wrb
    | with_reducible apply fol_bump | with_reducible apply fol_ite | intro _ | split)

theorem fol_eqSetState (hp : p < 16) {v : Nat} (h : Following a s) : Following a (eqSetState s p v) := by
  unfold eqSetState
  try dsimp only
  repeat' (first
    | with_reducible exact h
    | (unfold chainPage; simp only [Reg.EQ.STAT_ACQ, Reg.EQ.STAT_GUARD, Reg.EQ.STAT_STATE]; omega)
    | (simp only [Fld.pos, Reg.EQ.STAT_ACQ, Reg.EQ.STAT_GUARD, Reg.EQ.STAT_STATE]; first | done | omega)
    | with_reducible apply fol_onEvt | with_reducible apply fol_onPort | with_reducible apply fol_onEq
    | with_reducible apply fol_onTstat | with_reducible apply fol_onCnv | with_reducible apply fol_raise
    | with_reducible apply fol_raiseIf | with_reducible apply fol_faultStat | with_reducible apply fol_swapCd hp
    | with_reducible apply fol_eqLeftTrack hp | with_reducible apply fol_wr | with_reducible apply fol_wrb
    | with_reducible apply fol_bump | with_reducible apply fol_ite | intro _ | split)

theorem fol_eqStep1 (hp : p < 16) {b : Bool} (h : Following a s) : Following a (eqStep1 s p b) := by
  unfold eqStep1
  try dsimp only
  repeat' (first
    | with_reducible exact h
    | (unfold chainPage; simp only [Reg.EQ.CD_NOW_PSNM, Reg.EQ.CFG_NOW_CFG, Reg.EQ.STAT_BF_BANK, Reg.EQ.STAT_CD_BANK]; omega)
    | (simp only [Fld.pos, Reg.EQ.CD_NOW_PSNM, Reg.EQ.CFG_NOW_CFG, Reg.EQ.STAT_BF_BANK, Reg.EQ.STAT_CD_BANK]; first
    | done | omega) | with_reducible apply fol_onEvt | with_reducible apply fol_onPort
    | with_reducible apply fol_onEq | with_reducible apply fol_onTstat | with_reducible apply fol_onCnv
    | with_reducible apply fol_raise | with_reducible apply fol_raiseIf | with_reducible apply fol_faultStat
    | with_reducible apply fol_setCd hp | with_reducible apply fol_setBf hp | with_reducible apply fol_takeCfg hp
    | with_reducible apply fol_eqSetState hp | with_reducible apply fol_wr | with_reducible apply fol_wrb
    | with_reducible apply fol_bump | with_reducible apply fol_ite | intro _ | split)

theorem fol_eqFollow (hp : p < 16) (h : Following a s) : Following a (eqFollow s p) := by
  unfold eqFollow
  try dsimp only
  repeat' (first
    | with_reducible exact h | (unfold chainPage; simp only [Reg.EQ.STAT_STATE]; omega)
    | (simp only [Fld.pos, Reg.EQ.STAT_STATE]; first | done | omega) | with_reducible apply fol_onEvt
    | with_reducible apply fol_onPort | with_reducible apply fol_onEq | with_reducible apply fol_onTstat
    | with_reducible apply fol_onCnv | with_reducible apply fol_raise | with_reducible apply fol_raiseIf
    | with_reducible apply fol_faultStat | with_reducible apply fol_eqSetState hp
    | with_reducible apply fol_eqStep1 hp | with_reducible apply fol_wr | with_reducible apply fol_wrb
    | with_reducible apply fol_bump | with_reducible apply fol_ite | intro _ | split)

theorem fol_setSquelch (hp : p < 16) {v : Nat} (h : Following a s) : Following a (setSquelch s p v) := by
  unfold setSquelch
  try dsimp only
  repeat' (first
    | with_reducible exact h
    | (unfold chainPage; simp only [Reg.PORT.SQ_NOW_CAUSE, Reg.PORT.SQ_SEEN_CAUSE, Reg.PORT.SQ_TS_HI_NS, Reg.PORT.SQ_TS_LO_NS, Reg.PORT.STAT_CARRY, Reg.PORT.STAT_RESTARTING, Reg.SOFT.STAT_SQ_IN]; omega)
    | (simp only [Fld.pos, Reg.PORT.SQ_NOW_CAUSE, Reg.PORT.SQ_SEEN_CAUSE, Reg.PORT.SQ_TS_HI_NS, Reg.PORT.SQ_TS_LO_NS, Reg.PORT.STAT_CARRY, Reg.PORT.STAT_RESTARTING, Reg.SOFT.STAT_SQ_IN]; first
    | done | omega) | with_reducible apply fol_onEvt | with_reducible apply fol_onPort
    | with_reducible apply fol_onEq | with_reducible apply fol_onTstat | with_reducible apply fol_onCnv
    | with_reducible apply fol_raise | with_reducible apply fol_raiseIf | with_reducible apply fol_faultStat
    | with_reducible apply fol_wr | with_reducible apply fol_wrb | with_reducible apply fol_bump
    | with_reducible apply fol_ite | intro _ | split)

theorem fol_markCnv (h : Following a s) : Following a (markCnv s p) := by
  unfold markCnv
  try dsimp only
  repeat' (first
    | with_reducible exact h | (unfold chainPage; simp only [Reg.PORT.SQ_NOW_CAUSE]; omega)
    | (simp only [Fld.pos, Reg.PORT.SQ_NOW_CAUSE]; first | done | omega) | with_reducible apply fol_onEvt
    | with_reducible apply fol_onPort | with_reducible apply fol_onEq | with_reducible apply fol_onTstat
    | with_reducible apply fol_onCnv | with_reducible apply fol_raise | with_reducible apply fol_raiseIf
    | with_reducible apply fol_faultStat | with_reducible apply fol_wr | with_reducible apply fol_wrb
    | with_reducible apply fol_bump | with_reducible apply fol_ite | intro _ | split)

theorem fol_markWindows (hp : p < 16) (h : Following a s) : Following a (markWindows s p) := by
  unfold markWindows
  try dsimp only
  repeat' (first
    | with_reducible exact h
    | (unfold chainPage; simp only [Reg.EQ.STAT_GUARD, Reg.EQ.STAT_STATE, Reg.PORT.SQ_NOW_CAUSE]; omega)
    | (simp only [Fld.pos, Reg.EQ.STAT_GUARD, Reg.EQ.STAT_STATE, Reg.PORT.SQ_NOW_CAUSE]; first | done | omega)
    | with_reducible apply fol_onEvt | with_reducible apply fol_onPort | with_reducible apply fol_onEq
    | with_reducible apply fol_onTstat | with_reducible apply fol_onCnv | with_reducible apply fol_raise
    | with_reducible apply fol_raiseIf | with_reducible apply fol_faultStat | with_reducible apply fol_markCnv
    | with_reducible apply fol_wr | with_reducible apply fol_wrb | with_reducible apply fol_bump
    | with_reducible apply fol_ite | intro _ | split)

theorem fol_gainDone (hp : p < 16) (h : Following a s) : Following a (gainDone s p) := by
  unfold gainDone
  try dsimp only
  repeat' (first
    | with_reducible exact h
    | (unfold chainPage; simp only [Reg.PORT.CTL_AGC_EN, Reg.PORT.TIA_GAIN_XI, Reg.PORT.TIA_GAIN_XQ, Reg.PORT.TIA_GAIN_YI, Reg.PORT.TIA_GAIN_YQ, Reg.PORT.TIA_NOW_CODES]; omega)
    | (simp only [Fld.pos, Reg.PORT.CTL_AGC_EN, Reg.PORT.TIA_GAIN_XI, Reg.PORT.TIA_GAIN_XQ, Reg.PORT.TIA_GAIN_YI, Reg.PORT.TIA_GAIN_YQ, Reg.PORT.TIA_NOW_CODES]; first
    | done | omega) | with_reducible apply fol_onEvt | with_reducible apply fol_onPort
    | with_reducible apply fol_onEq | with_reducible apply fol_onTstat | with_reducible apply fol_onCnv
    | with_reducible apply fol_raise | with_reducible apply fol_raiseIf | with_reducible apply fol_faultStat
    | with_reducible apply fol_wr | with_reducible apply fol_wrb | with_reducible apply fol_bump
    | with_reducible apply fol_ite | intro _ | split)

theorem fol_restartEnd (hp : p < 16) (h : Following a s) : Following a (restartEnd s p) := by
  unfold restartEnd
  try dsimp only
  repeat' (first
    | with_reducible exact h | (unfold chainPage; simp only [Reg.PORT.RESTART_US_US, Reg.PORT.SQ_NOW_CAUSE]; omega)
    | (simp only [Fld.pos, Reg.PORT.RESTART_US_US, Reg.PORT.SQ_NOW_CAUSE]; first | done | omega)
    | with_reducible apply fol_onEvt | with_reducible apply fol_onPort | with_reducible apply fol_onEq
    | with_reducible apply fol_onTstat | with_reducible apply fol_onCnv | with_reducible apply fol_raise
    | with_reducible apply fol_raiseIf | with_reducible apply fol_faultStat | with_reducible apply fol_setSquelch hp
    | with_reducible apply fol_wr | with_reducible apply fol_wrb | with_reducible apply fol_bump
    | with_reducible apply fol_ite | intro _ | split)

theorem fol_sqFollow (hp : p < 16) (h : Following a s) : Following a (sqFollow s p) := by
  unfold sqFollow
  try dsimp only
  repeat' (first
    | with_reducible exact h | (unfold chainPage; simp only [Reg.PORT.SQ_NOW_CAUSE]; omega)
    | (simp only [Fld.pos, Reg.PORT.SQ_NOW_CAUSE]; first | done | omega) | with_reducible apply fol_onEvt
    | with_reducible apply fol_onPort | with_reducible apply fol_onEq | with_reducible apply fol_onTstat
    | with_reducible apply fol_onCnv | with_reducible apply fol_raise | with_reducible apply fol_raiseIf
    | with_reducible apply fol_faultStat | with_reducible apply fol_setSquelch hp | with_reducible apply fol_wr
    | with_reducible apply fol_wrb | with_reducible apply fol_bump | with_reducible apply fol_ite | intro _ | split)

theorem fol_nolockFollow (hp : p < 16) (h : Following a s) : Following a (nolockFollow s p) := by
  unfold nolockFollow
  try dsimp only
  repeat' (first
    | with_reducible exact h | (unfold chainPage; simp only [Reg.SOFT.STAT_NOLOCK_IN]; omega)
    | (simp only [Fld.pos, Reg.SOFT.STAT_NOLOCK_IN]; first | done | omega) | with_reducible apply fol_wrb
    | with_reducible apply fol_ite | intro _ | split)

theorem fol_portFollow (hp : p < 16) (h : Following a s) : Following a (portFollow s p) := by
  unfold portFollow
  try dsimp only
  repeat' (first
    | with_reducible exact h | (unfold chainPage; simp only [Reg.PORT.SQ_NOW_CAUSE]; omega)
    | (simp only [Fld.pos, Reg.PORT.SQ_NOW_CAUSE]; first | done | omega) | with_reducible apply fol_onEvt
    | with_reducible apply fol_onPort | with_reducible apply fol_onEq | with_reducible apply fol_onTstat
    | with_reducible apply fol_onCnv | with_reducible apply fol_raise | with_reducible apply fol_raiseIf
    | with_reducible apply fol_faultStat | with_reducible apply fol_eqFollow hp
    | with_reducible apply fol_nolockFollow hp | with_reducible apply fol_markWindows hp
    | with_reducible apply fol_gainDone hp | with_reducible apply fol_restartEnd hp
    | with_reducible apply fol_sqFollow hp | with_reducible apply fol_wr | with_reducible apply fol_wrb
    | with_reducible apply fol_bump | with_reducible apply fol_ite | intro _ | split)


theorem fol_portsFollow {l : List Nat} : ∀ {s : State}, (∀ p ∈ l, p < 16) → Following a s → Following a (portsFollow s l) := by
  induction l with
  | nil => intro s _ h; exact h
  | cons q t ih =>
    intro s hl h
    exact ih (fun r hr => hl r (by simp [hr])) (fol_portFollow (hl q (by simp)) h)

/-- Everything that following the ports and the fault line can do. -/
theorem follow_following (s : State) : Following s (follow s) := by
  unfold follow
  exact fol_updateFault (fol_portsFollow (by simp) (.refl s))

theorem follow1_following (s : State) (hp : p < 16) : Following s (follow1 s p) := by
  unfold follow1
  exact fol_updateFault (fol_portFollow hp (.refl s))

end Sys2Proof.Machine
end

