-- ==== Sys2Proof/Laws/Keeps.lean ====
section
/-! SUPPORT. How a frame (`Keeps`) is put together: it holds of no change, it composes, it grows with its scope, and
each kind of update keeps it when its scope names what the update writes. `Keeps.raise` is everything a raise can
do, said as a frame. Each lemma extends a frame from `s` to `t` by one update of `t`. -/

namespace Sys2Proof.Machine

variable {F G : Scope} {s t u : State}

/-! ### No change, two changes, a larger scope -/

theorem Part.same_refl (p : Part) (s : State) : p.same s s := by
  cases p <;> first | rfl | exact ⟨rfl, rfl, rfl⟩

theorem Part.same_trans {p : Part} (h : p.same s t) (k : p.same t u) : p.same s u := by
  cases p <;> first | exact Eq.trans k h | exact ⟨k.1.trans h.1, k.2.1.trans h.2.1, k.2.2.trans h.2.2⟩

theorem Keeps.refl (F : Scope) (s : State) : Keeps F s s :=
  ⟨fun _ _ _ _ _ _ _ => rfl, fun _ _ => rfl, fun p _ => p.same_refl s⟩

theorem Keeps.trans (h : Keeps F s t) (k : Keeps F t u) : Keeps F s u :=
  ⟨fun f a b c d e g => (k.field f a b c d e g).trans (h.field f a b c d e g),
    fun id hi => (k.raw id hi).trans (h.raw id hi), fun p hp => Part.same_trans (h.part p hp) (k.part p hp)⟩

theorem Keeps.mono (h : Keeps F s t) (hp : ∀ x ∈ F.pages, x ∈ G.pages) (hf : ∀ x ∈ F.flds, x ∈ G.flds)
    (he : ∀ x ∈ F.evs, x ∈ G.evs) (hh : ∀ x ∈ F.parts, x ∈ G.parts) : Keeps G s t :=
  ⟨fun f a b c d e g => h.field f a b c d (fun k => e (hp _ k)) (fun x hx => g x (hf x hx)),
    fun id hi => h.raw id (fun k => hi (he _ k)), fun p k => h.part p (fun x => k (hh _ x))⟩

theorem Keeps.left (h : Keeps F s t) : Keeps (F.and G) s t := by
  apply h.mono <;> intro x hx <;> simp [Scope.and, hx]

theorem Keeps.right (h : Keeps G s t) : Keeps (F.and G) s t := by
  apply h.mono <;> intro x hx <;> simp [Scope.and, hx]

/-- A frame in one scope of a list is a frame in all of them. -/
theorem Keeps.all : ∀ {l : List Scope}, F ∈ l → Keeps F s t → Keeps (.all l) s t
  | G :: l, hm, h => by
    rcases List.mem_cons.mp hm with e | e
    · subst e; exact h.left (G := Scope.all l)
    · exact (Keeps.all e h).right (F := G)

theorem Keeps.ite {c : Prop} [Decidable c] {x y : State} (h : c → Keeps F s x) (k : ¬c → Keeps F s y) :
    Keeps F s (if c then x else y) := by
  by_cases hc : c
  · rw [if_pos hc]; exact h hc
  · rw [if_neg hc]; exact k hc

/-- Steps that each keep a frame keep it in turn. -/
theorem Keeps.foldl {α : Type} {f : State → α → State} : ∀ (l : List α) {t : State}, Keeps F s t →
    (∀ a ∈ l, ∀ u, Keeps F s u → Keeps F s (f u a)) → Keeps F s (l.foldl f t)
  | [], _, h, _ => h
  | a :: l, _, h, k => Keeps.foldl l (k a (by simp) _ h) (fun b hb u hu => k b (by simp [hb]) u hu)

/-- The frame of a command whose meaning answers a next state. -/
theorem Within.of {c : Instr} (h : exec c s = .next t) (k : Keeps F s t) : Within F c s := by
  intro u hu
  rw [h] at hu
  cases hu
  exact k

/-! ### Fields -/

/-- An update of nothing but parts in the scope. -/
theorem Keeps.hide (h : Keeps F s t) (hr : u.regs = t.regs) (hp : ∀ p, p ∉ F.parts → p.same t u) : Keeps F s u :=
  h.trans ⟨fun f _ _ _ _ _ _ => rd_congr hr f, fun _ _ => rawSet_congr (rd_congr hr _), hp⟩

theorem Keeps.wr (h : Keeps F s t) {f : Fld} (v : Nat) (hf : f ∈ F.flds) (hr : (f.pos % 32768 != 160) = true) :
    Keeps F s (Machine.wr t f v) :=
  h.trans ⟨fun g _ _ _ _ _ k => rd_wr_key f g v (k f hf).symm, fun id _ => rawSet_wr v hr id,
    fun p _ => by cases p <;> first | rfl | exact ⟨rfl, rfl, rfl⟩⟩

theorem Keeps.wrb (h : Keeps F s t) {f : Fld} (b : Bool) (hf : f ∈ F.flds) (hr : (f.pos % 32768 != 160) = true) :
    Keeps F s (Machine.wrb t f b) := h.wr _ hf hr

theorem Keeps.bump (h : Keeps F s t) {f : Fld} (n : Nat) (hf : f ∈ F.flds) (hr : (f.pos % 32768 != 160) = true) :
    Keeps F s (Machine.bump t f n) := h.wr _ hf hr

theorem Keeps.inc (h : Keeps F s t) {f : Fld} (n : Nat) (hf : f ∈ F.flds) (hr : (f.pos % 32768 != 160) = true) :
    Keeps F s (Machine.inc t f n) := h.wr _ hf hr

theorem Keeps.wrAll : ∀ (l : List (Fld × Nat)) {t : State}, Keeps F s t → (∀ e ∈ l, e.1 ∈ F.flds) →
    (l.all fun e => e.1.pos % 32768 != 160) = true → Keeps F s (Machine.wrAll t l)
  | [], _, h, _, _ => h
  | (f, v) :: l, _, h, hf, hr => by
    simp only [List.all_cons, Bool.and_eq_true] at hr
    exact Keeps.wrAll l (h.wr v (hf (f, v) (by simp)) hr.1) (fun e he => hf e (by simp [he])) hr.2

/-- A field of a page in the scope is written. -/
theorem Keeps.wrPage (h : Keeps F s t) {f : Fld} (v : Nat) (hf : f.page ∈ F.pages) (hp : f.pos < 32768)
    (hr : f.pos ≠ 160) : Keeps F s (Machine.wr t f v) := by
  refine h.trans ⟨fun g h1 h2 h3 h4 h5 _ => rd_wr_key f g v ?_, fun id _ => rawSet_wr v ?_ id,
    fun p _ => by cases p <;> first | rfl | exact ⟨rfl, rfl, rfl⟩⟩
  · have hne : f.page ≠ g.page := fun e => h5 (e ▸ hf)
    rw [Fld.key_eq, Fld.key_eq]
    unfold Fld.pos at *
    omega
  · rw [Nat.mod_eq_of_lt hp]; simpa using hr

/-! ### Parts -/

theorem Keeps.onPwr (h : Keeps F s t) (f : PwrH → PwrH) (hp : Part.pwr ∈ F.parts) : Keeps F s (t.onPwr f) :=
  h.hide rfl fun p k => by cases p <;> first | exact absurd hp k | rfl | exact ⟨rfl, rfl, rfl⟩

theorem Keeps.onClk (h : Keeps F s t) (f : ClkH → ClkH) (hp : Part.clk ∈ F.parts) : Keeps F s (t.onClk f) :=
  h.hide rfl fun p k => by cases p <;> first | exact absurd hp k | rfl | exact ⟨rfl, rfl, rfl⟩

theorem Keeps.onTime (h : Keeps F s t) (f : TimeH → TimeH) (hp : Part.time ∈ F.parts) : Keeps F s (t.onTime f) :=
  h.hide rfl fun p k => by cases p <;> first | exact absurd hp k | rfl | exact ⟨rfl, rfl, rfl⟩

theorem Keeps.onBoot (h : Keeps F s t) (f : BootH → BootH) (hp : Part.boot ∈ F.parts) : Keeps F s (t.onBoot f) :=
  h.hide rfl fun p k => by cases p <;> first | exact absurd hp k | rfl | exact ⟨rfl, rfl, rfl⟩

theorem Keeps.onEvt (h : Keeps F s t) (f : EvtH → EvtH) (hp : Part.evt ∈ F.parts) : Keeps F s (t.onEvt f) :=
  h.hide rfl fun p k => by cases p <;> first | exact absurd hp k | rfl | exact ⟨rfl, rfl, rfl⟩

theorem Keeps.onSeq (h : Keeps F s t) (f : SeqH → SeqH) (hp : Part.seq ∈ F.parts) : Keeps F s (t.onSeq f) :=
  h.hide rfl fun p k => by cases p <;> first | exact absurd hp k | rfl | exact ⟨rfl, rfl, rfl⟩

theorem Keeps.onAccu (h : Keeps F s t) (f : AccuH → AccuH) (hp : Part.accu ∈ F.parts) : Keeps F s (t.onAccu f) :=
  h.hide rfl fun p k => by cases p <;> first | exact absurd hp k | rfl | exact ⟨rfl, rfl, rfl⟩

theorem Keeps.onMemc (h : Keeps F s t) (f : MemH → MemH) (hp : Part.memc ∈ F.parts) : Keeps F s (t.onMemc f) :=
  h.hide rfl fun p k => by cases p <;> first | exact absurd hp k | rfl | exact ⟨rfl, rfl, rfl⟩

theorem Keeps.onSpm (h : Keeps F s t) (f : SpmH → SpmH) (hp : Part.spm ∈ F.parts) : Keeps F s (t.onSpm f) :=
  h.hide rfl fun p k => by cases p <;> first | exact absurd hp k | rfl | exact ⟨rfl, rfl, rfl⟩

theorem Keeps.onSpf (h : Keeps F s t) (f : SpfH → SpfH) (hp : Part.spf ∈ F.parts) : Keeps F s (t.onSpf f) :=
  h.hide rfl fun p k => by cases p <;> first | exact absurd hp k | rfl | exact ⟨rfl, rfl, rfl⟩

theorem Keeps.onOtp (h : Keeps F s t) (f : OtpH → OtpH) (hp : Part.otp ∈ F.parts) : Keeps F s (t.onOtp f) :=
  h.hide rfl fun p k => by cases p <;> first | exact absurd hp k | rfl | exact ⟨rfl, rfl, rfl⟩

theorem Keeps.onSec (h : Keeps F s t) (f : SecH → SecH) (hp : Part.sec ∈ F.parts) : Keeps F s (t.onSec f) :=
  h.hide rfl fun p k => by cases p <;> first | exact absurd hp k | rfl | exact ⟨rfl, rfl, rfl⟩

theorem Keeps.onPort (h : Keeps F s t) (i : Nat) (f : PortH → PortH) (hp : Part.port i ∈ F.parts) : Keeps F s (t.onPort i f) :=
  h.hide rfl fun p k => by
    cases p <;> first | rfl | exact ⟨rfl, rfl, rfl⟩ | skip
    rename_i j
    show (t.onPort i f).port j = t.port j
    rw [onPort_port]
    have : i ≠ j := fun e => k (e ▸ hp)
    simp [this]

theorem Keeps.onCnv (h : Keeps F s t) (i : Nat) (f : CnvH → CnvH) (hp : Part.cnv i ∈ F.parts) : Keeps F s (t.onCnv i f) :=
  h.hide rfl fun p k => by
    cases p <;> first | rfl | exact ⟨rfl, rfl, rfl⟩ | skip
    rename_i j
    show (t.onCnv i f).cnv j = t.cnv j
    rw [onCnv_cnv]
    have : i ≠ j := fun e => k (e ▸ hp)
    simp [this]

theorem Keeps.onEq (h : Keeps F s t) (i : Nat) (f : EqH → EqH) (hp : Part.eq i ∈ F.parts) : Keeps F s (t.onEq i f) :=
  h.hide rfl fun p k => by
    cases p <;> first | rfl | exact ⟨rfl, rfl, rfl⟩ | skip
    rename_i j
    show (t.onEq i f).eq j = t.eq j
    rw [onEq_eq]
    have : i ≠ j := fun e => k (e ▸ hp)
    simp [this]

theorem Keeps.onSoft (h : Keeps F s t) (i : Nat) (f : SoftH → SoftH) (hp : Part.soft i ∈ F.parts) : Keeps F s (t.onSoft i f) :=
  h.hide rfl fun p k => by
    cases p <;> first | rfl | exact ⟨rfl, rfl, rfl⟩ | skip
    rename_i j
    show (t.onSoft i f).soft j = t.soft j
    rw [onSoft_soft]
    have : i ≠ j := fun e => k (e ▸ hp)
    simp [this]

theorem Keeps.onTstat (h : Keeps F s t) (i : Nat) (f : TstatH → TstatH) (hp : Part.tstat i ∈ F.parts) : Keeps F s (t.onTstat i f) :=
  h.hide rfl fun p k => by
    cases p <;> first | rfl | exact ⟨rfl, rfl, rfl⟩ | skip
    rename_i j
    show (t.onTstat i f).tstat j = t.tstat j
    rw [onTstat_tstat]
    have : i ≠ j := fun e => k (e ▸ hp)
    simp [this]

theorem Keeps.onPcv (h : Keeps F s t) (i : Nat) (f : PcvH → PcvH) (hp : Part.pcv i ∈ F.parts) : Keeps F s (t.onPcv i f) :=
  h.hide rfl fun p k => by
    cases p <;> first | rfl | exact ⟨rfl, rfl, rfl⟩ | skip
    rename_i j
    show (t.onPcv i f).pcv j = t.pcv j
    rw [onPcv_pcv]
    have : i ≠ j := fun e => k (e ▸ hp)
    simp [this]

theorem Keeps.onPwm (h : Keeps F s t) (i : Nat) (f : PwmH → PwmH) (hp : Part.pwm i ∈ F.parts) : Keeps F s (t.onPwm i f) :=
  h.hide rfl fun p k => by
    cases p <;> first | rfl | exact ⟨rfl, rfl, rfl⟩ | skip
    rename_i j
    show (t.onPwm i f).pwm j = t.pwm j
    rw [onPwm_pwm]
    have : i ≠ j := fun e => k (e ▸ hp)
    simp [this]

theorem Keeps.onFilt (h : Keeps F s t) (i : Nat) (f : FiltH → FiltH) (hp : Part.filt i ∈ F.parts) : Keeps F s (t.onFilt i f) :=
  h.hide rfl fun p k => by
    cases p <;> first | rfl | exact ⟨rfl, rfl, rfl⟩ | skip
    rename_i j
    show (t.onFilt i f).filt j = t.filt j
    rw [onFilt_filt]
    have : i ≠ j := fun e => k (e ▸ hp)
    simp [this]

theorem Keeps.onHerd (h : Keeps F s t) (i : Nat) (f : HerdH → HerdH) (hp : Part.herd i ∈ F.parts) : Keeps F s (t.onHerd i f) :=
  h.hide rfl fun p k => by
    cases p <;> first | rfl | exact ⟨rfl, rfl, rfl⟩ | skip
    rename_i j
    show (t.onHerd i f).herd j = t.herd j
    rw [onHerd_herd]
    have : i ≠ j := fun e => k (e ▸ hp)
    simp [this]

theorem Keeps.onLine (h : Keeps F s t) (i : Nat) (f : LineH → LineH) (hp : Part.line i ∈ F.parts) : Keeps F s (t.onLine i f) :=
  h.hide rfl fun p k => by
    cases p <;> first | rfl | exact ⟨rfl, rfl, rfl⟩ | skip
    rename_i j
    show (t.onLine i f).line j = t.line j
    rw [onLine_line]
    have : i ≠ j := fun e => k (e ▸ hp)
    simp [this]

theorem Keeps.onLink (h : Keeps F s t) (i : Nat) (f : LinkH → LinkH) (hp : Part.link i ∈ F.parts) : Keeps F s (t.onLink i f) :=
  h.hide rfl fun p k => by
    cases p <;> first | rfl | exact ⟨rfl, rfl, rfl⟩ | skip
    rename_i j
    show (t.onLink i f).link j = t.link j
    rw [onLink_link]
    have : i ≠ j := fun e => k (e ▸ hp)
    simp [this]

theorem Keeps.onSes (h : Keeps F s t) (i : Nat) (f : SesH → SesH) (hp : Part.ses i ∈ F.parts) : Keeps F s (t.onSes i f) :=
  h.hide rfl fun p k => by
    cases p <;> first | rfl | exact ⟨rfl, rfl, rfl⟩ | skip
    rename_i j
    show (t.onSes i f).ses j = t.ses j
    rw [onSes_ses]
    have : i ≠ j := fun e => k (e ▸ hp)
    simp [this]

theorem Keeps.onCore (h : Keeps F s t) (i : Nat) (f : CoreH → CoreH) (hp : Part.core i ∈ F.parts) : Keeps F s (t.onCore i f) :=
  h.hide rfl fun p k => by
    cases p <;> first | rfl | exact ⟨rfl, rfl, rfl⟩ | skip
    rename_i j
    show (t.onCore i f).core j = t.core j
    rw [onCore_core]
    have : i ≠ j := fun e => k (e ▸ hp)
    simp [this]

theorem Keeps.onLines (h : Keeps F s t) (i : Nat) (f : LineH → LineH) (hp : Part.line i ∈ F.parts) :
    Keeps F s (Machine.onLines t i f) := h.onLine i _ hp

/-- The lines that sending `o` advances. -/
theorem Keeps.lineSend (h : Keeps F s t) (o : Out)
    (hl : ∀ i, ((∃ ws, o = .message i ws) ∨ ∃ j w, o = .train i j w) → Part.line i ∈ F.parts) :
    Keeps F s (Machine.lineSend t o) := by
  unfold Machine.lineSend
  split
  · exact h.onLines _ _ (hl _ (.inl ⟨_, rfl⟩))
  · exact h.onLines _ _ (hl _ (.inr ⟨_, _, rfl⟩))
  · exact h

theorem Keeps.emit (h : Keeps F s t) (o : Out) (hp : Part.emitted ∈ F.parts)
    (hl : ∀ i, ((∃ ws, o = .message i ws) ∨ ∃ j w, o = .train i j w) → Part.line i ∈ F.parts) :
    Keeps F s (Machine.emit t o) := by
  unfold Machine.emit
  split
  · exact (h.lineSend o hl).hide rfl fun p k => by
      cases p <;> first | exact absurd hp k | rfl | exact ⟨rfl, rfl, rfl⟩
  · exact h

theorem Keeps.free (h : Keeps F s t) (hp : Part.freeCtr ∈ F.parts) : Keeps F s (Machine.free t).2 :=
  h.hide rfl fun p k => by cases p <;> first | exact absurd hp k | rfl | exact ⟨rfl, rfl, rfl⟩

theorem Keeps.wrS (h : Keeps F s t) (f : Fld) (v : Nat) (hp : Part.shad ∈ F.parts) : Keeps F s (Machine.wrS t f v) :=
  h.hide rfl fun p k => by cases p <;> first | exact absurd hp k | rfl | exact ⟨rfl, rfl, rfl⟩

/-! ### Raises -/

/-- The scope holds everything that raises of other events may set off: the log's counters, the drop counts of the
notices, the events LOG_FULL and SUB_DROP, and the event state. -/
structure Scope.Logs (F : Scope) : Prop where
  gap     : Reg.EVT1.LOG_STAT_GAP ∈ F.flds
  drop    : Reg.EVT1.LOG_DROP_COUNT ∈ F.flds
  sub     : ∀ k < 8, Reg.EVT2.SUB_STAT_DROP k ∈ F.flds
  full    : Reg.EVT0.evLOG_FULL ∈ F.evs
  subDrop : Reg.EVT0.evSUB_DROP ∈ F.evs
  evt     : Part.evt ∈ F.parts

theorem Scope.logs_raising (l : List Nat) : (Scope.raising l).Logs :=
  ⟨by simp [Scope.raising], by simp [Scope.raising], fun k hk => by simp [Scope.raising]; exact Or.inr (Or.inr ⟨k, hk, rfl⟩),
    by simp [Scope.raising], by simp [Scope.raising], by simp [Scope.raising]⟩

theorem Keeps.setRaw (h : Keeps F s t) {id : Nat} (hi : id ∈ F.evs) : Keeps F s (Machine.setRaw t id) := by
  refine h.trans ⟨fun g _ _ h3 h4 _ _ => rd_wr_key _ g _ ?_, fun j hj => ?_,
    fun p _ => by cases p <;> first | rfl | exact ⟨rfl, rfl, rfl⟩⟩
  · rw [Fld.key_eq, Fld.key_eq]
    have e1 : (Reg.HDR.PG_EVT_RAW_RAW (id / 32)).page = id / 32 := rfl
    have e2 : (Reg.HDR.PG_EVT_RAW_RAW (id / 32)).pos = 160 := rfl
    rw [e1, e2]; unfold Fld.pos; omega
  · rw [rawSet_setRaw]
    have : (id == j) = false := by rw [beq_eq_false_iff_ne]; exact fun e => hj (e ▸ hi)
    rw [this, Bool.or_false]

theorem Keeps.logRaise (h : Keeps F s t) (hl : F.Logs) (id : Nat) : Keeps F s (Machine.logRaise t id).1 := by
  unfold Machine.logRaise
  split
  · exact h
  · split
    · exact (h.wr _ hl.drop rfl).wr _ hl.gap rfl
    · exact h.onEvt (fun v => { v with logQ := _ }) hl.evt

theorem Keeps.noticeFor (h : Keeps F s t) (hl : F.Logs) (id : Nat) (lg : Option Nat) {k : Nat} (hk : k < 8) :
    Keeps F s (Machine.noticeFor t id lg k).1 := by
  unfold Machine.noticeFor
  split
  · exact h
  · split
    · refine (h.onEvt _ hl.evt).wr _ (hl.sub k hk) ?_
      show ((256 + 4 * k) * 8 + 0) % 32768 != 160
      simp only [bne_iff_ne, ne_eq]; omega
    · exact h.onEvt (fun v => { v with notices := _ }) hl.evt

theorem Keeps.noticesFor (hl : F.Logs) (id : Nat) (lg : Option Nat) : ∀ (l : List Nat) (r : State × Bool),
    Keeps F s r.1 → (∀ k ∈ l, k < 8) → Keeps F s (Machine.noticesFor id lg l r).1
  | [], _, h, _ => h
  | k :: l, (_, _), h, hk => by
    simp only [Machine.noticesFor]
    exact Keeps.noticesFor hl id lg l _ (h.noticeFor hl id lg (hk k (by simp))) (fun j hj => hk j (by simp [hj]))

theorem Keeps.raiseN (hl : F.Logs) : ∀ (n : Nat) {t : State} {id : Nat}, Keeps F s t → id ∈ F.evs →
    Keeps F s (Machine.raiseN n t id)
  | 0, _, _, h, _ => h
  | n + 1, t, id, h, hi => by
    simp only [Machine.raiseN]
    split
    · exact h
    · have k := (Keeps.noticesFor hl id (Machine.logRaise (Machine.setRaw t id) id).2.1 (List.range 8)
        ((Machine.logRaise (Machine.setRaw t id) id).1, false) ((h.setRaw hi).logRaise hl id) (by simp)).onEvt
          (fun v => { v with serial := v.serial + 1 }) hl.evt
      split
      · split
        · exact Keeps.raiseN hl n (Keeps.raiseN hl n k hl.full) hl.subDrop
        · exact Keeps.raiseN hl n k hl.subDrop
      · split
        · exact Keeps.raiseN hl n k hl.full
        · exact k

/-- Everything a raise can do, as a frame. -/
theorem Keeps.raise (h : Keeps F s t) (hl : F.Logs) {id : Nat} (hi : id ∈ F.evs) : Keeps F s (Machine.raise t id) :=
  Keeps.raiseN hl 4 h hi

theorem Keeps.raiseIf (h : Keeps F s t) (hl : F.Logs) (c : Bool) {id : Nat} (hi : id ∈ F.evs) :
    Keeps F s (Machine.raiseIf c t id) := by
  unfold Machine.raiseIf; split
  · exact h.raise hl hi
  · exact h

theorem Keeps.raiseAll (hl : F.Logs) : ∀ (l : List Nat) {t : State}, Keeps F s t → (∀ id ∈ l, id ∈ F.evs) →
    Keeps F s (Machine.raiseAll t l)
  | [], _, h, _ => h
  | id :: l, _, h, hi => Keeps.raiseAll hl l (h.raise hl (hi id (by simp))) (fun j hj => hi j (by simp [hj]))

/-! ### Completions -/

/-- What a completion at master `m` may change. -/
theorem Keeps.complete (h : Keeps F s t) (r : Req) (c : Completion) (hd : Part.done r.master ∈ F.parts)
    (hs : 4 ≤ r.master → r.master < 12 → Part.ses (r.master - 4) ∈ F.parts) (hm : r.master = 3 → Part.spm ∈ F.parts) :
    Keeps F s (Machine.complete t r c) := by
  have h0 : Keeps F s (t.onBus fun b => { b with done := vset b.done r.master c }) := by
    refine h.hide rfl fun p k => ?_
    cases p <;> first | rfl | exact ⟨rfl, rfl, rfl⟩ | skip
    rename_i j
    show vget (vset t.bus.done r.master c) Completion.none j = vget t.bus.done Completion.none j
    rw [vget_vset]
    have : r.master ≠ j := fun e => k (e ▸ hd)
    simp [this]
  unfold Machine.complete
  refine .ite (fun _ => h) fun _ => ?_
  refine .ite (fun hr => ?_) fun _ => ?_
  · exact (Keeps.ite (fun hc => h0.onSes _ _ (hs hc.1 hc.2)) fun _ => h0).onSpm _ (hm hr)
  · exact .ite (fun hc => h0.onSes _ _ (hs hc.1 hc.2)) fun _ => h0

end Sys2Proof.Machine
end

