-- ==== Sys2Proof/Laws/Mems.lean ====
section
/-! SUPPORT. The canonical form of the memories (`Mems.wf`, `MemInv`): every operation that stores into a memory
keeps it. -/

namespace Sys2Proof.Machine

variable {s t : State}

/-! ### Byte stores -/

theorem putBytes_wf (d : Byte) : ∀ (data : List Byte) (l : Store Byte) (a : Nat), Store.wf d l = true →
    Store.wf d (putBytes d l a data) = true
  | [], _, _, h => h
  | b :: t, l, a, h => putBytes_wf d t _ (a + 1) (Store.wf_write d l a b h)

/-- A byte that a store of bytes does not reach. -/
theorem read_putBytes_outside (d : Byte) : ∀ (data : List Byte) (l : Store Byte) (a o : Nat),
    o < a ∨ a + data.length ≤ o → Store.read d (putBytes d l a data) o = Store.read d l o
  | [], _, _, _, _ => rfl
  | b :: t, l, a, o, h => by
    simp only [putBytes, List.length_cons] at h ⊢
    rw [read_putBytes_outside d t _ (a + 1) o (by omega), Store.read_write, if_neg (by omega)]

/-- The bytes that a store of bytes reaches. -/
theorem bytesAt_putBytes (d : Byte) : ∀ (data : List Byte) (l : Store Byte) (a : Nat),
    bytesAt d (putBytes d l a data) a data.length = data
  | [], _, _ => rfl
  | b :: t, l, a => by
    simp only [putBytes, List.length_cons, bytesAt]
    rw [read_putBytes_outside d t _ (a + 1) a (by omega), Store.read_write, if_pos rfl, bytesAt_putBytes d t _ (a + 1)]

/-! ### The invariant through operations that store nothing -/

theorem MemInv.congr (h : MemInv s) (e : t.mems = s.mems) : MemInv t := by unfold MemInv at *; rw [e]; exact h

theorem MemInv.mk7 {m : Mems} (h1 : Store.wf 0 m.sram = true) (h2 : Store.wf flashDef m.flash = true)
    (h3 : Store.wf 0 m.dram = true) (h4 : Store.wf 0 m.checks = true) (h5 : Store.wf false m.written = true)
    (h6 : Store.wf 0 m.otp = true) (h7 : Store.wf 0 m.seqt = true) : m.wf = true := by
  unfold Mems.wf; rw [h1, h2, h3, h4, h5, h6, h7]; rfl

/-- What the invariant says of each memory. -/
theorem MemInv.parts (h : MemInv s) : Store.wf 0 s.mems.sram = true ∧ Store.wf flashDef s.mems.flash = true
    ∧ Store.wf 0 s.mems.dram = true ∧ Store.wf 0 s.mems.checks = true ∧ Store.wf false s.mems.written = true
    ∧ Store.wf 0 s.mems.otp = true ∧ Store.wf 0 s.mems.seqt = true := by
  unfold MemInv Mems.wf at h
  simp only [Bool.and_eq_true] at h
  exact ⟨h.1.1.1.1.1.1, h.1.1.1.1.1.2, h.1.1.1.1.2, h.1.1.1.2, h.1.1.2, h.1.2, h.2⟩

theorem raise_mems (s : State) (id : Nat) : (raise s id).mems = s.mems := by
  have := (raise_raising s id).same; unfold SameBut at this; rw [this]

theorem raiseIf_mems (c : Bool) (s : State) (id : Nat) : (raiseIf c s id).mems = s.mems := by
  unfold raiseIf; split
  · exact raise_mems s id
  · rfl

theorem complete_mems (s : State) (r : Req) (c : Completion) : (complete s r c).mems = s.mems := by
  unfold complete; split
  · rfl
  · dsimp only; split <;> split <;> rfl

theorem denyRecord_mems (s : State) (t m a k : Nat) : (denyRecord s t m a k).mems = s.mems := by
  unfold denyRecord; rw [raise_mems]; rfl

theorem weakRecover_mems (s : State) (line : Nat) : (weakRecover s line).mems = s.mems := by
  unfold weakRecover; split
  · dsimp only; rw [raiseIf_mems]; rfl
  · split
    · rfl
    · rw [raise_mems]; rfl

theorem recovered_mems (s : State) (line : Nat) : (recovered s line).mems = s.mems := by
  unfold recovered; rw [weakRecover_mems]; rfl

theorem poisonRead_mems (s : State) (r : Req) (b : Bool) : (poisonRead s r b).mems = s.mems := by
  unfold poisonRead; rw [raise_mems]; simp

theorem retiredHit_mems (s : State) (r : Req) : (retiredHit s r).mems = s.mems := by
  unfold retiredHit; rw [raise_mems]; simp

/-! ### Stacked memory -/

theorem markWritten_inv (a : Nat) (h : MemInv s) : MemInv (markWritten s a) := by
  unfold markWritten; split
  · exact h
  · obtain ⟨h1, h2, h3, h4, h5, h6, h7⟩ := h.parts
    unfold MemInv
    simp only [inc_frame, onMems_mems]
    exact MemInv.mk7 h1 h2 (Store.wf_delRange _ _ _ _ h3) (Store.wf_delRange _ _ _ _ h4) (Store.wf_write false s.mems.written (dramOff a / 4096) true h5) h6 h7

theorem storeDram_inv (a : Nat) (data : List Byte) (p : Bool) (h : MemInv s) : MemInv (storeDram s a data p) := by
  obtain ⟨h1, h2, h3, h4, h5, h6, h7⟩ := h.parts
  exact MemInv.mk7 h1 h2 (putBytes_wf _ _ _ _ h3) (Store.wf_write _ _ _ _ h4) h5 h6 h7

theorem wholeWrite_inv (r : Req) (h : MemInv s) : MemInv (wholeWrite s r).1 :=
  (storeDram_inv r.addr r.data r.poison (markWritten_inv r.addr h)).congr rfl

theorem partWrite_inv (r : Req) (n : Nat) (h : MemInv s) : MemInv (partWrite s r n).1 := by
  have hm := markWritten_inv (s := s) r.addr h
  unfold partWrite; dsimp only
  generalize (if isWritten s r.addr = true then badReads s (lineOf r.addr) n else 0) = k
  split
  · exact (hm.congr rfl : MemInv (bump _ _ _)).congr (raise_mems _ _)
  · refine (storeDram_inv _ _ _ ?_).congr rfl
    split
    · exact hm.congr (recovered_mems _ _)
    · exact hm

theorem dramWriteLive_inv (r : Req) (n : Nat) (h : MemInv s) : MemInv (dramWriteLive s r n).1 := by
  unfold dramWriteLive; split
  · exact wholeWrite_inv r h
  · exact partWrite_inv r n h

theorem poisonedRead_mems (s : State) (r : Req) (b : Bool) : (poisonedRead s r b).1.mems = s.mems := by
  unfold poisonedRead; dsimp only; split <;> rw [poisonRead_mems]
  rfl

/-- A read of stacked memory stores nothing. -/
theorem dramReadLive_mems (s : State) (r : Req) (n : Nat) : (dramReadLive s r n).1.mems = s.mems := by
  unfold dramReadLive; dsimp only; split
  · rfl
  · split
    · exact poisonedRead_mems _ _ _
    · split
      · exact poisonedRead_mems _ _ _
      · split
        · rfl
        · exact recovered_mems _ _

theorem shareCharge_mems (s : State) (r : Req) : (shareCharge s r).mems = s.mems := by
  unfold shareCharge; dsimp only; split <;> rfl

theorem dmaReq_inv (r : Req) (n : Nat) (h : MemInv s) : MemInv (dmaReq s r n).1 := by
  have hc : MemInv (shareCharge s r) := h.congr (shareCharge_mems s r)
  unfold dmaReq; split
  · split
    · exact h
    · exact h.congr (denyRecord_mems _ _ _ _ _)
  · split
    · exact h
    · split
      · exact h.congr (denyRecord_mems _ _ _ _ _)
      · split
        · exact h.congr (retiredHit_mems _ _)
        · split
          · exact h
          · split
            · exact dramWriteLive_inv r n hc
            · exact hc.congr (dramReadLive_mems _ _ _)

theorem dmaWrite_inv (m a : Nat) (data : List Byte) (n : Nat) (h : MemInv s) : MemInv (dmaWrite s m a data n).1 :=
  dmaReq_inv _ _ h

theorem dmaReadLine_inv (m a n : Nat) (h : MemInv s) : MemInv (dmaReadLine s m a n).1 := dmaReq_inv _ _ h

theorem dmaReadLines_inv (m : Nat) (b : Nat → Nat) : ∀ (n i a : Nat) {s : State}, MemInv s →
    MemInv (dmaReadLines m b n i a s).1
  | 0, _, _, _, h => h
  | n + 1, i, a, _, h => dmaReadLines_inv m b n (i + 1) (a + 64) (dmaReadLine_inv m a (b i) h)

theorem dmaWriteLines_inv (m : Nat) : ∀ (n a : Nat) (d : List Byte) {s : State}, MemInv s →
    MemInv (dmaWriteLines m n a d s).1
  | 0, _, _, _, h => h
  | n + 1, a, d, _, h => dmaWriteLines_inv m n (a + 64) (d.drop 64) (dmaWrite_inv m a (d.take 64) 0 h)

theorem dramRefuse_mems (s : State) (r : Req) (e : Status) : (dramRefuse s r e).mems = s.mems := by
  unfold dramRefuse
  rw [complete_mems]
  split
  · exact retiredHit_mems _ _
  · rfl

theorem dramServe_inv (r : Req) (v : Option Status) (l : List Refetch) (h : MemInv s) : MemInv (dramServe s r v l) := by
  unfold dramServe; split
  · exact MemInv.congr (s := s) h (dramRefuse_mems (s.onMemc _) r _)
  · have hc : MemInv (shareCharge s r) := h.congr (shareCharge_mems s r)
    dsimp only; split
    · exact hc
    · refine MemInv.congr (s := (if r.write = true then dramWriteLive _ r r.bads else dramReadLive _ r 0).1) ?_ (complete_mems _ _ _)
      split
      · exact dramWriteLive_inv r r.bads (s := (shareCharge s r).onMemc _) hc
      · exact MemInv.congr (s := shareCharge s r) hc (dramReadLive_mems ((shareCharge s r).onMemc _) r 0)

theorem dramAccept_inv (r : Req) (v : Option Status) (h : MemInv s) : MemInv (dramAccept s r v) := by
  unfold dramAccept; split
  · exact h
  · exact (dramServe_inv r v [] (s := s.onMemc _) h).congr rfl

theorem dramIssue_inv (r : Req) (h : MemInv s) : MemInv (dramIssue s r) := by
  unfold dramIssue
  refine dramAccept_inv r _ ?_
  split
  · exact h.congr (denyRecord_mems _ _ _ _ _)
  · exact h

theorem dramUnblock_inv : ∀ (n : Nat) {s : State}, MemInv s → MemInv (dramUnblock n s)
  | 0, _, h => h
  | n + 1, s, h => by
    unfold dramUnblock; split
    · exact h
    · exact dramUnblock_inv n ((dramServe_inv _ _ _ h).congr rfl)

theorem dramRefetch_inv (b : Bool) (h : MemInv s) : MemInv (dramRefetch b s) := by
  unfold dramRefetch; split
  · exact h
  · dsimp only
    generalize (b || badReads s _ 0 == 4) = bad
    split
    · exact h
    · refine dramUnblock_inv _ (MemInv.congr ?_ (complete_mems _ _ _))
      split
      · exact MemInv.congr (s := s) h (poisonedRead_mems _ _ _)
      · split
        · exact MemInv.congr (s := s) h (poisonedRead_mems _ _ _)
        · exact MemInv.congr (s := s) h (recovered_mems _ _)

theorem scrubRead_mems (s : State) (line n : Nat) : (scrubRead s line n).mems = s.mems := by
  unfold scrubRead; dsimp only; split
  · rfl
  · split
    · split
      · rfl
      · exact recovered_mems _ _
    · rw [raise_mems]; rfl

/-! ### The other memories -/

theorem sram_inv (a : Nat) (data : List Byte) (h : MemInv s) :
    MemInv (s.onMems fun m => { m with sram := putBytes 0 m.sram a data }) := by
  obtain ⟨h1, h2, h3, h4, h5, h6, h7⟩ := h.parts
  exact MemInv.mk7 (putBytes_wf _ _ _ _ h1) h2 h3 h4 h5 h6 h7

theorem sramServe_inv (r : Req) (h : MemInv s) : MemInv (sramServe s r) := by
  unfold sramServe; split
  · unfold plainRefuse
    refine MemInv.congr ?_ (complete_mems _ _ _)
    split
    · exact h.congr (denyRecord_mems _ _ _ _ _)
    · exact h
  · dsimp only; split
    · exact (sram_inv _ _ h).congr (complete_mems _ _ _)
    · exact h.congr (complete_mems _ _ _)

theorem seqtPut_inv (w v : Nat) (h : MemInv s) : MemInv (seqtPut s w v) := by
  obtain ⟨h1, h2, h3, h4, h5, h6, h7⟩ := h.parts
  exact MemInv.mk7 h1 h2 h3 h4 h5 h6 (Store.wf_write _ _ _ _ h7)

theorem seqtWrite_inv (m w v : Nat) (h : MemInv s) : MemInv (seqtWrite s m w v) := by
  unfold seqtWrite; split
  · exact h
  · split
    · exact seqtPut_inv _ _ (seqtPut_inv _ _ (h.congr rfl))
    · exact seqtPut_inv _ _ h

theorem flashPut_inv (a : Nat) (data : List Byte) (h : MemInv s) :
    MemInv (s.onMems fun m => { m with flash := putBytes flashDef m.flash a data }) := by
  obtain ⟨h1, h2, h3, h4, h5, h6, h7⟩ := h.parts
  exact MemInv.mk7 h1 (putBytes_wf _ _ _ _ h2) h3 h4 h5 h6 h7

theorem flashUndefine_inv (u : Nat × Nat) (h : MemInv s) : MemInv (flashUndefine s u) :=
  flashPut_inv u.1 _ (s := { s with freeCtr := s.freeCtr + 1 }) h

theorem eraseDone_inv (a n : Nat) (h : MemInv s) : MemInv (eraseDone s a n) := by
  unfold eraseDone
  refine MemInv.congr ?_ (raise_mems _ _)
  obtain ⟨h1, h2, h3, h4, h5, h6, h7⟩ := h.parts
  exact MemInv.mk7 h1 (Store.wf_delRange _ _ _ _ h2) h3 h4 h5 h6 h7

theorem programDone_inv (r : Req) (worn : Option (List Byte)) (h : MemInv s) : MemInv (programDone s r worn) := by
  unfold programDone; dsimp only
  refine MemInv.congr ?_ (complete_mems _ _ _)
  have hp := flashPut_inv (flashOff r.addr) (readBack s r worn) h
  split
  · exact hp.congr rfl
  · exact (hp.congr ((by simp))).congr (raise_mems _ _)

theorem otpProgram_wf : ∀ (ws : List Nat) (l : Store Nat) (a : Nat), Store.wf 0 l = true →
    Store.wf 0 (otpProgram l a ws) = true
  | [], _, _, h => h
  | _ :: t, l, a, h => otpProgram_wf t _ (a + 1) (Store.wf_write 0 l a _ h)

/-- A word of OTP keeps every bit it has (R575). -/
theorem otpProgram_rises : ∀ (ws : List Nat) (l : Store Nat) (a k b : Nat), bit (Store.read 0 l k) b = true →
    bit (Store.read 0 (otpProgram l a ws) k) b = true
  | [], _, _, _, _, h => h
  | w :: t, l, a, k, b, h => by
    refine otpProgram_rises t _ (a + 1) k b ?_
    rw [Store.read_write]; split
    · rename_i e; subst e
      unfold bit at *
      rw [Nat.testBit_or, h, Bool.true_or]
    · exact h

theorem genProgram_inv (r g : Nat) (data : List Nat) (n : Nat) (h : MemInv s) : MemInv (genProgram s r g data n) := by
  obtain ⟨h1, h2, h3, h4, h5, h6, h7⟩ := h.parts
  unfold genProgram recStat MemInv
  simp only [wrAll_frame, onMems_mems]
  exact MemInv.mk7 h1 h2 h3 h4 h5 (otpProgram_wf _ _ _ h6) h7

end Sys2Proof.Machine
end

