-- ==== Sys2Proof/Laws/PerInstr.lean ====
section
/-! SUPPORT. What holds of every command as syntax, one lemma per constructor: the master that issues it is one of
the sixteen masters (R21). -/

namespace Sys2Proof.Laws.Issuer

/-- The master that a command names as its issuer. -/
def issuer : Instr → Option (Fin 16)
  | .lossAck m _ => some m
  | .timeStep m => some m
  | .timeSetNow m => some m
  | .timeSetAtSyncIn m => some m
  | .timeCancel m => some m
  | .rstCmd m _ => some m
  | .fwOk m => some m
  | .bootRetry m => some m
  | .lowHalfRead m _ _ => some m
  | .highHalfRead m _ _ => some m
  | .pageRst m _ _ => some m
  | .pageCommit m _ => some m
  | .pgFreeze m _ _ => some m
  | .errClr m _ _ => some m
  | .lockTake m _ => some m
  | .lockRelease m _ => some m
  | .lockBreak m _ => some m
  | .evtRawClear m _ _ => some m
  | .registerWrite m _ _ _ => some m
  | .logRdWrite m _ => some m
  | .fgCal m _ => some m
  | .reacq m _ => some m
  | .bfSwap m _ => some m
  | .snap m _ => some m
  | .seqtLoWrite m _ _ => some m
  | .seqtHiWrite m _ _ => some m
  | .injGo m => some m
  | .pcvCal m _ => some m
  | .ringRdWrite m _ _ => some m
  | .filtBankSwap m _ => some m
  | .filtRestart m _ => some m
  | .parTrig m _ => some m
  | .outRdWrite m _ _ => some m
  | .parRdWrite m _ _ => some m
  | .herdRetrain m _ => some m
  | .laneTest m _ _ _ => some m
  | .sesKill m _ => some m
  | .dramRead m _ _ _ _ => some m
  | .dramWrite m _ _ _ => some m
  | .dramPartialWrite m _ _ _ _ => some m
  | .retireAdd m _ => some m
  | .weakClrOne m _ => some m
  | .weakClrAll m => some m
  | .flashWindowRead m _ _ _ => some m
  | .flashWindowWrite m _ _ _ => some m
  | .spfErase m _ _ => some m
  | .qCmdPush m _ => some m
  | .qTxPush m _ => some m
  | .qRxRead m => some m
  | .otpGenWrite m _ => some m
  | .provision m => some m
  | .secSign m => some m
  | .coreInv m _ => some m
  | _ => none

/-- The issuer is a master. -/
def Statement (i : Instr) : Prop := ∀ m, issuer i = some m → m.val < 16

/-- Every issuer is a master. -/
theorem any (i : Instr) : Statement i := fun m _ => m.isLt

theorem powerOnReset : Statement (.powerOnReset) := any _
theorem railFault (r : Fin 8) : Statement (.railFault r) := any _
theorem railReturn (r : Fin 8) : Statement (.railReturn r) := any _
theorem firstStageStop : Statement (.firstStageStop) := any _
theorem vinSag : Statement (.vinSag) := any _
theorem vnvSag : Statement (.vnvSag) := any _
theorem sagRecover (vnv : Bool) : Statement (.sagRecover vnv) := any _
theorem nvAbandon (kind : Fin 3) (words : Nat) : Statement (.nvAbandon kind words) := any _
theorem holdupMeasured (ms : BitVec 16) : Statement (.holdupMeasured ms) := any _
theorem holdupCharged : Statement (.holdupCharged) := any _
theorem voltMeasUpdate (vin vnv : BitVec 16) : Statement (.voltMeasUpdate vin vnv) := any _
theorem thermSample (tj : BitVec 8) : Statement (.thermSample tj) := any _
theorem settleEnd (clkin : Bool) : Statement (.settleEnd clkin) := any _
theorem rootLock : Statement (.rootLock) := any _
theorem rootAcqTimeout : Statement (.rootAcqTimeout) := any _
theorem clkinLoss : Statement (.clkinLoss) := any _
theorem rootLossOfLock : Statement (.rootLossOfLock) := any _
theorem clkinReturn (qualified : Bool) : Statement (.clkinReturn qualified) := any _
theorem driftWindow (ppm : Int) : Statement (.driftWindow ppm) := any _
theorem domSwitchDone (d : Fin 6) : Statement (.domSwitchDone d) := any _
theorem lossAck (m : Fin 16) (v : Word32) : Statement (.lossAck m v) := any _
theorem tstateAccept (pins : PinsHeld) : Statement (.tstateAccept pins) := any _
theorem phaseStep (ps : Int) : Statement (.phaseStep ps) := any _
theorem gateClose (pg : BitVec 10) : Statement (.gateClose pg) := any _
theorem gateTmo (pg : BitVec 10) : Statement (.gateTmo pg) := any _
theorem syncInEdge (sub : Nat) : Statement (.syncInEdge sub) := any _
theorem syncInMiss : Statement (.syncInMiss) := any _
theorem syncOutRise : Statement (.syncOutRise) := any _
theorem syncOutFall : Statement (.syncOutFall) := any _
theorem timeStep (m : Fin 16) : Statement (.timeStep m) := any _
theorem timeSetNow (m : Fin 16) : Statement (.timeSetNow m) := any _
theorem timeSetAtSyncIn (m : Fin 16) : Statement (.timeSetAtSyncIn m) := any _
theorem timeCancel (m : Fin 16) : Statement (.timeCancel m) := any _
theorem setAtSyncInTimeout : Statement (.setAtSyncInTimeout) := any _
theorem resetNLow : Statement (.resetNLow) := any _
theorem resetNRelease (clkin : Bool) : Statement (.resetNRelease clkin) := any _
theorem rstCmd (m : Fin 16) (v : Word32) : Statement (.rstCmd m v) := any _
theorem cmdResetStart : Statement (.cmdResetStart) := any _
theorem deviceResetApply (clkin : Bool) : Statement (.deviceResetApply clkin) := any _
theorem flashDiscovery (t : Sfdp) : Statement (.flashDiscovery t) := any _
theorem bootVerify (v0 v1 : SlotVerdict) : Statement (.bootVerify v0 v1) := any _
theorem bootWdtExpire : Statement (.bootWdtExpire) := any _
theorem fwOk (m : Fin 16) : Statement (.fwOk m) := any _
theorem bootRetry (m : Fin 16) : Statement (.bootRetry m) := any _
theorem lowHalfRead (m : Fin 16) (addr : BitVec 40) (fetch : Bool) : Statement (.lowHalfRead m addr fetch) := any _
theorem highHalfRead (m : Fin 16) (addr : BitVec 40) (fetch : Bool) : Statement (.highHalfRead m addr fetch) := any _
theorem pageRst (m : Fin 16) (pg : BitVec 10) (v : Word32) : Statement (.pageRst m pg v) := any _
theorem pageResetApply (pg : BitVec 10) : Statement (.pageResetApply pg) := any _
theorem pageResetTimeout (pg : BitVec 10) : Statement (.pageResetTimeout pg) := any _
theorem pageCommit (m : Fin 16) (pg : BitVec 10) : Statement (.pageCommit m pg) := any _
theorem pgFreeze (m : Fin 16) (pg : BitVec 10) (v : Word32) : Statement (.pgFreeze m pg v) := any _
theorem errClr (m : Fin 16) (pg : BitVec 10) (v : Word32) : Statement (.errClr m pg v) := any _
theorem lockTake (m : Fin 16) (pg : BitVec 10) : Statement (.lockTake m pg) := any _
theorem lockRelease (m : Fin 16) (pg : BitVec 10) : Statement (.lockRelease m pg) := any _
theorem lockBreak (m : Fin 16) (pg : BitVec 10) : Statement (.lockBreak m pg) := any _
theorem evtRawClear (m : Fin 16) (pg : BitVec 10) (v : Word32) : Statement (.evtRawClear m pg v) := any _
theorem registerWrite (m : Fin 16) (addr : BitVec 40) (v : Word32) (poison : Bool) :
    Statement (.registerWrite m addr v poison) := any _
theorem logRdWrite (m : Fin 16) (v : Word32) : Statement (.logRdWrite m v) := any _
theorem logEntryWrite (bads : Fin 5) : Statement (.logEntryWrite bads) := any _
theorem faultNRise : Statement (.faultNRise) := any _
theorem lightLoss (p : Fin 16) (sig lo : Option (Int × Nat)) : Statement (.lightLoss p sig lo) := any _
theorem lightReturn (p : Fin 16) (sig lo : Option (Int × Nat)) : Statement (.lightReturn p sig lo) := any _
theorem agcStep (p : Fin 16) (xi xq yi yq : List Samp) : Statement (.agcStep p xi xq yi yq) := any _
theorem gainRampStep (p : Fin 16) : Statement (.gainRampStep p) := any _
theorem restartSlow (p : Fin 16) : Statement (.restartSlow p) := any _
theorem cnvLoopLock (n : Fin 64) : Statement (.cnvLoopLock n) := any _
theorem startCalDone (n : Fin 64) (cal : List (Int × Int × Int)) (skews : List Int) :
    Statement (.startCalDone n cal skews) := any _
theorem cnvUnlock (n : Fin 64) : Statement (.cnvUnlock n) := any _
theorem cnvRelock (n : Fin 64) : Statement (.cnvRelock n) := any _
theorem puntyCalDone (n : Fin 64) (ofs gain : Int) : Statement (.puntyCalDone n ofs gain) := any _
theorem seamDecision (n : Fin 64) (pairs : List SeamPair) (offset : Int) :
    Statement (.seamDecision n pairs offset) := any _
theorem offlineCalDone (n : Fin 64) (ofs gain skew : Int) : Statement (.offlineCalDone n ofs gain skew) := any _
theorem rotDwellEnd (n : Fin 64) : Statement (.rotDwellEnd n) := any _
theorem sliceFault (n : Fin 64) (by1 : Checked) (by2 : Option Checked) : Statement (.sliceFault n by1 by2) := any _
theorem puntyTakesSlot (n : Fin 64) : Statement (.puntyTakesSlot n) := any _
theorem fgCal (m : Fin 16) (n : Fin 64) : Statement (.fgCal m n) := any _
theorem fgDone (n : Fin 64) (cal : List (Int × Int × Int)) : Statement (.fgDone n cal) := any _
theorem eqFreqDone (e : PortFreq) : Statement (.eqFreqDone e) := any _
theorem eqBlindDone (r : PortRun) : Statement (.eqBlindDone r) := any _
theorem acqDone (p : Fin 16) (sync : PilotSync) (run : EqRun) : Statement (.acqDone p sync run) := any _
theorem acqRetry (p : Fin 16) : Statement (.acqRetry p) := any _
theorem lockLost (w : PilotWindow) : Statement (.lockLost w) := any _
theorem reacq (m : Fin 16) (p : Fin 16) : Statement (.reacq m p) := any _
theorem bfSwap (m : Fin 16) (p : Fin 16) : Statement (.bfSwap m p) := any _
theorem bfLoadDone (p : Fin 16) (bads : List (Fin 5)) : Statement (.bfLoadDone p bads) := any _
theorem cdFadeBegin (r : PortRun) : Statement (.cdFadeBegin r) := any _
theorem bfFadeBegin (r : PortRun) : Statement (.bfFadeBegin r) := any _
theorem fadeBlock (bf : Bool) (r : PortRun) : Statement (.fadeBlock bf r) := any _
theorem cdFadeDone (r : PortRun) : Statement (.cdFadeDone r) := any _
theorem bfFadeDone (r : PortRun) : Statement (.bfFadeDone r) := any _
theorem guardWindow (r : PortRun) : Statement (.guardWindow r) := any _
theorem snap (m : Fin 16) (p : Fin 16) : Statement (.snap m p) := any _
theorem snapDone (r : PortRun) : Statement (.snapDone r) := any _
theorem cdSwapAtBlockBoundary (r : PortRun) : Statement (.cdSwapAtBlockBoundary r) := any _
theorem tstatWindowEnd (p : Fin 16) (xi xq yi yq : List Samp) : Statement (.tstatWindowEnd p xi xq yi yq) := any _
theorem tstatWinDone (p : Fin 16) (est : Estimates) : Statement (.tstatWinDone p est) := any _
theorem seqEntryCurrent : Statement (.seqEntryCurrent) := any _
theorem sampleStart (c : Fin 24) : Statement (.sampleStart c) := any _
theorem conversionBoundary (c : Fin 24) (v partner : Int) : Statement (.conversionBoundary c v partner) := any _
theorem timerEvent (t : Fin 16) : Statement (.timerEvent t) := any _
theorem pwmPeriodStart (o : Fin 64) : Statement (.pwmPeriodStart o) := any _
theorem pwmFallTrigger (o : Fin 64) : Statement (.pwmFallTrigger o) := any _
theorem trigTimeout (c : Option (Fin 24)) : Statement (.trigTimeout c) := any _
theorem seqtLoWrite (m : Fin 16) (i : BitVec 16) (w : Word32) : Statement (.seqtLoWrite m i w) := any _
theorem seqtHiWrite (m : Fin 16) (i : BitVec 16) (w : Word32) : Statement (.seqtHiWrite m i w) := any _
theorem injGo (m : Fin 16) : Statement (.injGo m) := any _
theorem pcvCal (m : Fin 16) (c : Fin 24) : Statement (.pcvCal m c) := any _
theorem pcvCalPeriodic (c : Fin 24) : Statement (.pcvCalPeriodic c) := any _
theorem pcvCalStart (c : Fin 24) : Statement (.pcvCalStart c) := any _
theorem pcvCalEnd (c : Fin 24) (found : List (Int × Int)) : Statement (.pcvCalEnd c found) := any _
theorem convTimeout (c : Fin 24) : Statement (.convTimeout c) := any _
theorem refereeDone (k : Fin 12) (ref0 gnd0 ref1 gnd1 : List Int) :
    Statement (.refereeDone k ref0 gnd0 ref1 gnd1) := any _
theorem ringRecordWrite (bads : Fin 5) : Statement (.ringRecordWrite bads) := any _
theorem ringRdWrite (m : Fin 16) (r : Fin 16) (v : Word32) : Statement (.ringRdWrite m r v) := any _
theorem accuWindowEnd : Statement (.accuWindowEnd) := any _
theorem accuWinDone : Statement (.accuWinDone) := any _
theorem filtInput (n : Fin 48) (bads : Fin 5) : Statement (.filtInput n bads) := any _
theorem filtBankSwap (m : Fin 16) (n : Fin 48) : Statement (.filtBankSwap m n) := any _
theorem filtLoadDone (n : Fin 48) (bads : List (Fin 5)) : Statement (.filtLoadDone n bads) := any _
theorem filtRestart (m : Fin 16) (n : Fin 48) : Statement (.filtRestart m n) := any _
theorem parTrig (m : Fin 16) (n : Fin 48) : Statement (.parTrig m n) := any _
theorem outRecordWrite (n : Fin 48) (bads : Fin 5) : Statement (.outRecordWrite n bads) := any _
theorem outRdWrite (m : Fin 16) (n : Fin 48) (v : Word32) : Statement (.outRdWrite m n v) := any _
theorem parRdWrite (m : Fin 16) (n : Fin 48) (v : Word32) : Statement (.parRdWrite m n v) := any _
theorem streamStart (r : PortRun) : Statement (.streamStart r) := any _
theorem streamDataMessage (r : PortRun) : Statement (.streamDataMessage r) := any _
theorem markMessage (p : Fin 16) : Statement (.markMessage p) := any _
theorem squelchRequest (p : Fin 16) : Statement (.squelchRequest p) := any _
theorem eqWordWithNolock (w : EqWord) : Statement (.eqWordWithNolock w) := any _
theorem rxBlockLock (h : Fin 17) (j : Fin 4) : Statement (.rxBlockLock h j) := any _
theorem trainRequest (h : Fin 17) (j : Fin 4) (hdr w : Word64) (gap : Bool) :
    Statement (.trainRequest h j hdr w gap) := any _
theorem trainState (h : Fin 17) (j : Fin 4) (hdr w : Word64) (gap : Bool) :
    Statement (.trainState h j hdr w gap) := any _
theorem trainMap (h : Fin 17) (j : Fin 4) (hdr w : Word64) (gap : Bool) : Statement (.trainMap h j hdr w gap) := any _
theorem trainTimeout (h : Fin 17) : Statement (.trainTimeout h) := any _
theorem alignTimeout (h : Fin 17) : Statement (.alignTimeout h) := any _
theorem partnerAbsent (h : Fin 17) : Statement (.partnerAbsent h) := any _
theorem partnerSilent (h : Fin 17) : Statement (.partnerSilent h) := any _
theorem rxLos (h : Fin 17) (lanes : Nat) : Statement (.rxLos h lanes) := any _
theorem rxSignalReturn (h : Fin 17) (j : Fin 4) : Statement (.rxSignalReturn h j) := any _
theorem rxLol (h : Fin 17) (lanes : Nat) (cdr : Bool) : Statement (.rxLol h lanes cdr) := any _
theorem adaptWindow (h : Fin 17) (j : Fin 4) (levels : List Nat) (blocks : List RxBlock) :
    Statement (.adaptWindow h j levels blocks) := any _
theorem eyeScanDone (h : Fin 17) (j : Fin 4) (e0 e1 e2 : EyeScan) : Statement (.eyeScanDone h j e0 e1 e2) := any _
theorem txLaneFault (h : Fin 17) (lanes : Nat) : Statement (.txLaneFault h lanes) := any _
theorem switchMarker (h : Fin 17) : Statement (.switchMarker h) := any _
theorem herdRetrain (m : Fin 16) (h : Fin 17) : Statement (.herdRetrain m h) := any _
theorem laneTest (m : Fin 16) (h : Fin 17) (lane : Fin 32) (ret : Bool) : Statement (.laneTest m h lane ret) := any _
theorem laneTestTimeout (h : Fin 17) (lane : Fin 19) (ret : Bool) : Statement (.laneTestTimeout h lane ret) := any _
theorem returnLanesDeskewed (h : Fin 17) (blocks : List RxBlock) : Statement (.returnLanesDeskewed h blocks) := any _
theorem msgRead (h : Fin 17) (gap : Bool) (hdr w1 : Word64) (more : List Word64) (tag : List Byte) (bads : Fin 5) :
    Statement (.msgRead h gap hdr w1 more tag bads) := any _
theorem msgWrite (h : Fin 17) (gap : Bool) (hdr w1 : Word64) (data : List Word64) (tag : List Byte) (bads : Fin 5) :
    Statement (.msgWrite h gap hdr w1 data tag bads) := any _
theorem msgCredit (h : Fin 17) (gap : Bool) (hdr w1 : Word64) : Statement (.msgCredit h gap hdr w1) := any _
theorem msgTelemMargin (h : Fin 17) (gap : Bool) (hdr w1 : Word64) (more : List Word64) (tag : List Byte) :
    Statement (.msgTelemMargin h gap hdr w1 more tag) := any _
theorem transactionComplete (s : Fin 8) (k : Fin 16) (bads : Fin 5) : Statement (.transactionComplete s k bads) := any _
theorem eventMessage (s : Fin 8) : Statement (.eventMessage s) := any _
theorem telemReportMessage (s : Fin 8) : Statement (.telemReportMessage s) := any _
theorem creditInterval (h : Fin 17) : Statement (.creditInterval h) := any _
theorem replayTimeout (h : Fin 17) : Statement (.replayTimeout h) := any _
theorem keyxInit (h : Fin 17) (gap : Bool) (hdr w1 : Word64) (words auth : List Word64) :
    Statement (.keyxInit h gap hdr w1 words auth) := any _
theorem keyxReply (s : Fin 8) : Statement (.keyxReply s) := any _
theorem keyxFinish (h : Fin 17) (gap : Bool) (hdr : Word64) (words : List Word64) :
    Statement (.keyxFinish h gap hdr words) := any _
theorem keyxAccept (h : Fin 17) (s : Fin 8) : Statement (.keyxAccept h s) := any _
theorem keyxTimeout (s : Fin 8) : Statement (.keyxTimeout s) := any _
theorem keyxEnd (h : Fin 17) (gap : Bool) (hdr w1 : Word64) (more : List Word64) (tag : List Byte) :
    Statement (.keyxEnd h gap hdr w1 more tag) := any _
theorem sessionIdle (s : Fin 8) : Statement (.sessionIdle s) := any _
theorem sesKill (m : Fin 16) (slots : BitVec 8) : Statement (.sesKill m slots) := any _
theorem dramRead (m : Fin 16) (addr : BitVec 40) (len : Fin 65) (fetch : Bool) (bad : Bool) :
    Statement (.dramRead m addr len fetch bad) := any _
theorem dramRefetch (bad : Bool) : Statement (.dramRefetch bad) := any _
theorem dramWrite (m : Fin 16) (addr : BitVec 40) (data : List Byte) (poison : Bool) :
    Statement (.dramWrite m addr data poison) := any _
theorem dramPartialWrite (m : Fin 16) (addr : BitVec 40) (data : List Byte) (poison : Bool) (bads : Fin 5) :
    Statement (.dramPartialWrite m addr data poison bads) := any _
theorem scrubLine (bads : Fin 5) : Statement (.scrubLine bads) := any _
theorem retireAdd (m : Fin 16) (page : BitVec 17) : Statement (.retireAdd m page) := any _
theorem weakClrOne (m : Fin 16) (idx : BitVec 8) : Statement (.weakClrOne m idx) := any _
theorem weakClrAll (m : Fin 16) : Statement (.weakClrAll m) := any _
theorem memoryTrainingDone (fuse : List FuseMap) : Statement (.memoryTrainingDone fuse) := any _
theorem spmSelectFall : Statement (.spmSelectFall) := any _
theorem spmWriteFrame (addr : BitVec 40) : Statement (.spmWriteFrame addr) := any _
theorem spmReadFrame (addr : BitVec 40) (bads : Fin 5) : Statement (.spmReadFrame addr bads) := any _
theorem spmStatFrame (addr : BitVec 40) : Statement (.spmStatFrame addr) := any _
theorem spmBadOp (op : BitVec 8) (addr : BitVec 40) : Statement (.spmBadOp op addr) := any _
theorem spmWriteWord (w : Word32) (bads : Fin 5) : Statement (.spmWriteWord w bads) := any _
theorem spmAccessDone (bads : Fin 5) : Statement (.spmAccessDone bads) := any _
theorem spmReadWordDue : Statement (.spmReadWordDue) := any _
theorem spmFrameEnd (nbits : Fin 48) (w : Word32) (bads : Fin 5) : Statement (.spmFrameEnd nbits w bads) := any _
theorem flashWindowRead (m : Fin 16) (addr : BitVec 40) (len : Fin 65) (fetch : Bool) :
    Statement (.flashWindowRead m addr len fetch) := any _
theorem flashReadTimeout : Statement (.flashReadTimeout) := any _
theorem flashWindowWrite (m : Fin 16) (addr : BitVec 40) (data : List Byte) (poison : Bool) :
    Statement (.flashWindowWrite m addr data poison) := any _
theorem flashFenceTimeout : Statement (.flashFenceTimeout) := any _
theorem flashPoll (idle : Bool) (worn : Option (List Byte)) : Statement (.flashPoll idle worn) := any _
theorem flashStuck : Statement (.flashStuck) := any _
theorem flashResetDone : Statement (.flashResetDone) := any _
theorem spfErase (m : Fin 16) (offset : BitVec 26) (type : Fin 4) : Statement (.spfErase m offset type) := any _
theorem qCmdPush (m : Fin 16) (w : Word32) : Statement (.qCmdPush m w) := any _
theorem qTxPush (m : Fin 16) (w : Word32) : Statement (.qTxPush m w) := any _
theorem qRxRead (m : Fin 16) : Statement (.qRxRead m) := any _
theorem qSequenceDone (got : List Word32) : Statement (.qSequenceDone got) := any _
theorem otpGenWrite (m : Fin 16) (rec : BitVec 8) : Statement (.otpGenWrite m rec) := any _
theorem otpSealed : Statement (.otpSealed) := any _
theorem provision (m : Fin 16) : Statement (.provision m) := any _
theorem provisionKeyDrawn (scalar : List Word32) : Statement (.provisionKeyDrawn scalar) := any _
theorem rngFail : Statement (.rngFail) := any _
theorem rngRecover : Statement (.rngRecover) := any _
theorem secSign (m : Fin 16) : Statement (.secSign m) := any _
theorem signComplete (job : Fin 3) : Statement (.signComplete job) := any _
theorem lockstepMismatch (n : Fin 2) : Statement (.lockstepMismatch n) := any _
theorem coreRestartDone (n : Fin 2) : Statement (.coreRestartDone n) := any _
theorem coreInv (m : Fin 16) (n : Fin 2) : Statement (.coreInv m n) := any _

end Sys2Proof.Laws.Issuer
end

