-- ==== Sys2Proof/Laws/Ports.lean ====
section
/-! SUPPORT. Everything that bringing a port to its causes can do, as a frame: `follow1` stays within `Scope.follow`,
`follow` within `Scope.followAll`, and the passing of time within `Scope.lapse`. -/

namespace Sys2Proof.Machine

variable {a s : State} {p c : Nat}

/-! ### What the scope holds -/

theorem Scope.follow_logs (p : Nat) : (Scope.follow p).Logs := by
  have h := Scope.logs_raising [Reg.EQ.evCD_FADE_DONE p, Reg.EQ.evBF_FADE_DONE p, Reg.EQ.evCD_CLAMP p, Reg.PORT.evSQUELCH_ON p,
    Reg.PORT.evSQUELCH_OFF p, Reg.PORT.evRESTART_DONE p, Reg.EVT0.evFAULT_ASSERT]
  constructor
  · exact List.mem_append_right _ (List.mem_append_left _ h.gap)
  · exact List.mem_append_right _ (List.mem_append_left _ h.drop)
  · exact fun k hk => List.mem_append_right _ (List.mem_append_left _ (h.sub k hk))
  · exact List.mem_append_right _ (List.mem_append_left _ h.full)
  · exact List.mem_append_right _ (List.mem_append_left _ h.subDrop)
  · exact List.mem_append_right _ (List.mem_append_left _ h.evt)

/-- The fields that following port `p` writes. -/
def portFlds (p : Nat) : List Fld :=
  [Reg.EQ.STAT_STATE p, Reg.EQ.STAT_ACQ p, Reg.EQ.STAT_CD_BANK p, Reg.EQ.STAT_BF_BANK p,
    Reg.EQ.STAT_CD_FADE p, Reg.EQ.STAT_BF_FADE p, Reg.EQ.STAT_CD_PEND p, Reg.EQ.STAT_BF_PEND p,
    Reg.EQ.STAT_GUARD p, Reg.EQ.CFG_NOW_CFG p, Reg.EQ.PILOT_NOW_PILOT p, Reg.EQ.SEED_NOW_SEED p,
    Reg.EQ.CD_NOW_PSNM p, Reg.EQ.CD_BANK_A_PSNM p, Reg.EQ.CD_BANK_B_PSNM p,
    Reg.EQ.BF_STAT_STANDBY_EMPTY p, Reg.EQ.FADE_CD_POS p, Reg.EQ.FADE_BF_POS p, Reg.EQ.ANN_CNT_DONE p,
    Reg.PORT.SQ_NOW_CAUSE p, Reg.PORT.SQ_SEEN_CAUSE p, Reg.PORT.SQ_TS_LO_NS p, Reg.PORT.SQ_TS_HI_NS p,
    Reg.PORT.RESTART_US_US p, Reg.PORT.STAT_CARRY p, Reg.PORT.STAT_RESTARTING p, Reg.SOFT.STAT_SQ_IN p,
    Reg.SOFT.STAT_NOLOCK_IN p, Reg.EVT2.FAULT_STAT_SEEN, Reg.EVT2.FAULT_NOW_PORT,
    Reg.EVT2.FAULT_NOW_DISARMED, Reg.EVT2.FAULT_NOW_CLOCK, Reg.EVT2.FAULT_NOW_THERM,
    Reg.EVT2.FAULT_NOW_RAIL]

set_option maxRecDepth 4000 in
theorem portFlds_calm (p : Nat) : ((portFlds p).all fun x => x.pos % 32768 != 160) = true := rfl

theorem Keeps.portWr (h : Keeps (.follow p) a s) {f : Fld} (v : Nat) (hf : f ∈ portFlds p) :
    Keeps (.follow p) a (Machine.wr s f v) :=
   h.wr v (List.mem_append_left _ hf) (List.all_eq_true.mp (portFlds_calm p) f hf)

theorem Keeps.portWrAll : ∀ (l : List (Fld × Nat)) {s : State} (_ : Keeps (.follow p) a s) (_ : ∀ x ∈ l, x.1 ∈ portFlds p),
    Keeps (.follow p) a (Machine.wrAll s l)
  | [], _, h, _ => h
  | _ :: l, _, h, hl => Keeps.portWrAll l (h.portWr _ (hl _ (by simp))) fun x hx => hl x (by simp [hx])

theorem Keeps.portWrb (h : Keeps (.follow p) a s) {f : Fld} (b : Bool) (hf : f ∈ portFlds p) :
    Keeps (.follow p) a (Machine.wrb s f b) := h.portWr _ hf

theorem Keeps.portBump (h : Keeps (.follow p) a s) {f : Fld} (n : Nat) (hf : f ∈ portFlds p) :
    Keeps (.follow p) a (Machine.bump s f n) := h.portWr _ hf

theorem Scope.follow_evs (p : Nat) : ∀ x ∈ [Reg.EQ.evCD_FADE_DONE p, Reg.EQ.evBF_FADE_DONE p, Reg.EQ.evCD_CLAMP p, Reg.PORT.evSQUELCH_ON p,
    Reg.PORT.evSQUELCH_OFF p, Reg.PORT.evRESTART_DONE p, Reg.EVT0.evFAULT_ASSERT], x ∈ (Scope.follow p).evs :=
  fun _ h => List.mem_append_right _ (List.mem_append_left _ (List.mem_append_left _ h))

theorem Scope.follow_parts (p : Nat) : ∀ x ∈ ([.port p, .eq p, .tstat p, .cnv (4 * p), .cnv (4 * p + 1), .cnv (4 * p + 2), .cnv (4 * p + 3)] : List Part), x ∈ (Scope.follow p).parts :=
  fun _ h => List.mem_append_right _ (List.mem_append_right _ (List.mem_append_left _ h))

theorem Scope.follow_cnv (p : Nat) (h : c = 4 * p ∨ c = 4 * p + 1 ∨ c = 4 * p + 2 ∨ c = 4 * p + 3) :
    Part.cnv c ∈ (Scope.follow p).parts := by
  rcases h with h | h | h | h <;> subst h <;> exact Scope.follow_parts p _ (by simp)

/-! ### Each function of the chain -/

theorem Keeps.setCd {b : Bool} {k : CdBank} (h : Keeps (.follow p) a s) :
    Keeps (.follow p) a (Machine.setCd s p b k) := by
  unfold Machine.setCd
  try dsimp only
  repeat' first
    | with_reducible exact h
    | with_reducible refine Keeps.onEq ?_ _ _ (Scope.follow_parts p _ (by simp))
    | with_reducible refine Keeps.portWr ?_ _ (by simp [portFlds])
    | with_reducible refine Keeps.ite (fun _ => ?_) fun _ => ?_

theorem Keeps.setBf {b : Bool} {k : BfBank} (h : Keeps (.follow p) a s) :
    Keeps (.follow p) a (Machine.setBf s p b k) := by
  unfold Machine.setBf
  try dsimp only
  repeat' first
    | with_reducible exact h
    | with_reducible refine Keeps.onEq ?_ _ _ (Scope.follow_parts p _ (by simp))
    | with_reducible refine Keeps.ite (fun _ => ?_) fun _ => ?_

theorem Keeps.bfEmptyFlag (h : Keeps (.follow p) a s) :
    Keeps (.follow p) a (Machine.bfEmptyFlag s p) := by
  unfold Machine.bfEmptyFlag
  try dsimp only
  repeat' first
    | with_reducible exact h
    | with_reducible refine Keeps.portWrb ?_ _ (by simp [portFlds])

theorem Keeps.swapCd (h : Keeps (.follow p) a s) :
    Keeps (.follow p) a (Machine.swapCd s p) := by
  unfold Machine.swapCd
  try dsimp only
  repeat' first
    | with_reducible exact h
    | with_reducible refine Keeps.portWr ?_ _ (by simp [portFlds])
    | with_reducible refine Keeps.portWrb ?_ _ (by simp [portFlds])

theorem Keeps.swapBf (h : Keeps (.follow p) a s) :
    Keeps (.follow p) a (Machine.swapBf s p) := by
  unfold Machine.swapBf
  try dsimp only
  repeat' first
    | with_reducible exact h
    | with_reducible refine Keeps.bfEmptyFlag ?_
    | with_reducible refine Keeps.onEq ?_ _ _ (Scope.follow_parts p _ (by simp))
    | with_reducible refine Keeps.portWrb ?_ _ (by simp [portFlds])

theorem Keeps.takeCfg (h : Keeps (.follow p) a s) :
    Keeps (.follow p) a (Machine.takeCfg s p) := by
  unfold Machine.takeCfg
  try dsimp only
  repeat' first
    | with_reducible exact h
    | with_reducible refine Keeps.setBf ?_
    | with_reducible refine Keeps.bfEmptyFlag ?_
    | with_reducible refine Keeps.portWr ?_ _ (by simp [portFlds])
    | with_reducible refine Keeps.ite (fun _ => ?_) fun _ => ?_

theorem Keeps.cdFadeDone (h : Keeps (.follow p) a s) :
    Keeps (.follow p) a (Machine.cdFadeDone s p) := by
  unfold Machine.cdFadeDone
  try dsimp only
  repeat' first
    | with_reducible exact h
    | with_reducible refine Keeps.swapCd ?_
    | with_reducible refine Keeps.onEq ?_ _ _ (Scope.follow_parts p _ (by simp))
    | with_reducible refine Keeps.raise ?_ (Scope.follow_logs p) (Scope.follow_evs p _ (by simp))
    | with_reducible refine Keeps.portWr ?_ _ (by simp [portFlds])
    | with_reducible refine Keeps.portWrb ?_ _ (by simp [portFlds])
    | with_reducible refine Keeps.portBump ?_ _ (by simp [portFlds])

theorem Keeps.bfFadeDone (h : Keeps (.follow p) a s) :
    Keeps (.follow p) a (Machine.bfFadeDone s p) := by
  unfold Machine.bfFadeDone
  try dsimp only
  repeat' first
    | with_reducible exact h
    | with_reducible refine Keeps.swapBf ?_
    | with_reducible refine Keeps.onEq ?_ _ _ (Scope.follow_parts p _ (by simp))
    | with_reducible refine Keeps.raise ?_ (Scope.follow_logs p) (Scope.follow_evs p _ (by simp))
    | with_reducible refine Keeps.portWr ?_ _ (by simp [portFlds])
    | with_reducible refine Keeps.portWrb ?_ _ (by simp [portFlds])
    | with_reducible refine Keeps.portBump ?_ _ (by simp [portFlds])

theorem Keeps.loadStandbyCd {k : CdBank} (h : Keeps (.follow p) a s) :
    Keeps (.follow p) a (Machine.loadStandbyCd s p k) := by
  unfold Machine.loadStandbyCd
  try dsimp only
  repeat' first
    | with_reducible exact h
    | with_reducible refine Keeps.setCd ?_

theorem Keeps.startCd {k : CdBank} (h : Keeps (.follow p) a s) :
    Keeps (.follow p) a (Machine.startCd s p k) := by
  unfold Machine.startCd
  try dsimp only
  repeat' first
    | with_reducible exact h
    | with_reducible refine Keeps.swapCd ?_
    | with_reducible refine Keeps.loadStandbyCd ?_
    | with_reducible refine Keeps.onEq ?_ _ _ (Scope.follow_parts p _ (by simp))
    | with_reducible refine Keeps.ite (fun _ => ?_) fun _ => ?_

theorem Keeps.startPendCd (h : Keeps (.follow p) a s) :
    Keeps (.follow p) a (Machine.startPendCd s p) := by
  unfold Machine.startPendCd
  try dsimp only
  repeat' first
    | with_reducible exact h
    | with_reducible refine Keeps.startCd ?_
    | with_reducible refine Keeps.onEq ?_ _ _ (Scope.follow_parts p _ (by simp))
    | with_reducible refine Keeps.portWrb ?_ _ (by simp [portFlds])
    | with_reducible split

theorem Keeps.startBf {n : Nat} (h : Keeps (.follow p) a s) :
    Keeps (.follow p) a (Machine.startBf s p n) := by
  unfold Machine.startBf
  try dsimp only
  repeat' first
    | with_reducible exact h
    | with_reducible refine Keeps.onEq ?_ _ _ (Scope.follow_parts p _ (by simp))
    | with_reducible refine Keeps.portWrb ?_ _ (by simp [portFlds])

theorem Keeps.startPendBf (h : Keeps (.follow p) a s) :
    Keeps (.follow p) a (Machine.startPendBf s p) := by
  unfold Machine.startPendBf
  try dsimp only
  repeat' first
    | with_reducible exact h
    | with_reducible refine Keeps.startBf ?_
    | with_reducible refine Keeps.onEq ?_ _ _ (Scope.follow_parts p _ (by simp))
    | with_reducible refine Keeps.portWrb ?_ _ (by simp [portFlds])
    | with_reducible split

theorem Keeps.eqLeftTrack (h : Keeps (.follow p) a s) :
    Keeps (.follow p) a (Machine.eqLeftTrack s p) := by
  unfold Machine.eqLeftTrack
  try dsimp only
  repeat' first
    | with_reducible exact h
    | with_reducible refine Keeps.swapCd ?_
    | with_reducible refine Keeps.swapBf ?_
    | with_reducible refine Keeps.cdFadeDone ?_
    | with_reducible refine Keeps.bfFadeDone ?_
    | with_reducible refine Keeps.startPendCd ?_
    | with_reducible refine Keeps.startPendBf ?_
    | with_reducible refine Keeps.onEq ?_ _ _ (Scope.follow_parts p _ (by simp))
    | with_reducible refine Keeps.portWrb ?_ _ (by simp [portFlds])
    | with_reducible refine Keeps.ite (fun _ => ?_) fun _ => ?_

theorem Keeps.eqSetState {v : Nat} (h : Keeps (.follow p) a s) :
    Keeps (.follow p) a (Machine.eqSetState s p v) := by
  unfold Machine.eqSetState
  try dsimp only
  repeat' first
    | with_reducible exact h
    | with_reducible refine Keeps.swapCd ?_
    | with_reducible refine Keeps.eqLeftTrack ?_
    | with_reducible refine Keeps.onEq ?_ _ _ (Scope.follow_parts p _ (by simp))
    | with_reducible refine Keeps.portWr ?_ _ (by simp [portFlds])
    | with_reducible refine Keeps.portWrb ?_ _ (by simp [portFlds])
    | with_reducible refine Keeps.ite (fun _ => ?_) fun _ => ?_

theorem Keeps.eqStep1 {b : Bool} (h : Keeps (.follow p) a s) :
    Keeps (.follow p) a (Machine.eqStep1 s p b) := by
  unfold Machine.eqStep1
  try dsimp only
  repeat' first
    | with_reducible exact h
    | with_reducible refine Keeps.setCd ?_
    | with_reducible refine Keeps.setBf ?_
    | with_reducible refine Keeps.takeCfg ?_
    | with_reducible refine Keeps.eqSetState ?_
    | with_reducible refine Keeps.onEq ?_ _ _ (Scope.follow_parts p _ (by simp))
    | with_reducible refine Keeps.raise ?_ (Scope.follow_logs p) (Scope.follow_evs p _ (by simp))
    | with_reducible refine Keeps.portWr ?_ _ (by simp [portFlds])
    | with_reducible refine Keeps.ite (fun _ => ?_) fun _ => ?_

theorem Keeps.eqFollow (h : Keeps (.follow p) a s) :
    Keeps (.follow p) a (Machine.eqFollow s p) := by
  unfold Machine.eqFollow
  try dsimp only
  repeat' first
    | with_reducible exact h
    | with_reducible refine Keeps.eqSetState ?_
    | with_reducible refine Keeps.eqStep1 ?_
    | with_reducible refine Keeps.ite (fun _ => ?_) fun _ => ?_

theorem Keeps.setSquelch {v : Nat} (h : Keeps (.follow p) a s) :
    Keeps (.follow p) a (Machine.setSquelch s p v) := by
  unfold Machine.setSquelch
  try dsimp only
  repeat' first
    | with_reducible exact h
    | with_reducible refine Keeps.onPort ?_ _ _ (Scope.follow_parts p _ (by simp))
    | with_reducible refine Keeps.raise ?_ (Scope.follow_logs p) (Scope.follow_evs p _ (by simp))
    | with_reducible refine Keeps.portWr ?_ _ (by simp [portFlds])
    | with_reducible refine Keeps.portWrb ?_ _ (by simp [portFlds])
    | with_reducible refine Keeps.ite (fun _ => ?_) fun _ => ?_

theorem Keeps.markCnv (hc : c = 4 * p ∨ c = 4 * p + 1 ∨ c = 4 * p + 2 ∨ c = 4 * p + 3) (h : Keeps (.follow p) a s) :
    Keeps (.follow p) a (Machine.markCnv s c) := by
  unfold Machine.markCnv
  try dsimp only
  repeat' first
    | with_reducible exact h
    | with_reducible refine Keeps.onCnv ?_ _ _ (Scope.follow_cnv p hc)
    | with_reducible refine Keeps.ite (fun _ => ?_) fun _ => ?_

theorem Keeps.markWindows (h : Keeps (.follow p) a s) :
    Keeps (.follow p) a (Machine.markWindows s p) := by
  unfold Machine.markWindows
  try dsimp only
  repeat' first
    | with_reducible exact h
    | with_reducible refine Keeps.markCnv (by omega) ?_
    | with_reducible refine Keeps.onTstat ?_ _ _ (Scope.follow_parts p _ (by simp))
    | with_reducible refine Keeps.ite (fun _ => ?_) fun _ => ?_

theorem Keeps.gainDone (h : Keeps (.follow p) a s) :
    Keeps (.follow p) a (Machine.gainDone s p) := by
  unfold Machine.gainDone
  try dsimp only
  repeat' first
    | with_reducible exact h
    | with_reducible refine Keeps.onPort ?_ _ _ (Scope.follow_parts p _ (by simp))
    | with_reducible refine Keeps.ite (fun _ => ?_) fun _ => ?_

theorem Keeps.restartEnd (h : Keeps (.follow p) a s) :
    Keeps (.follow p) a (Machine.restartEnd s p) := by
  unfold Machine.restartEnd
  try dsimp only
  repeat' first
    | with_reducible exact h
    | with_reducible refine Keeps.setSquelch ?_
    | with_reducible refine Keeps.raise ?_ (Scope.follow_logs p) (Scope.follow_evs p _ (by simp))
    | with_reducible refine Keeps.portWr ?_ _ (by simp [portFlds])

theorem Keeps.sqFollow (h : Keeps (.follow p) a s) :
    Keeps (.follow p) a (Machine.sqFollow s p) := by
  unfold Machine.sqFollow
  try dsimp only
  repeat' first
    | with_reducible exact h
    | with_reducible refine Keeps.setSquelch ?_
    | with_reducible refine Keeps.onPort ?_ _ _ (Scope.follow_parts p _ (by simp))
    | with_reducible refine Keeps.ite (fun _ => ?_) fun _ => ?_

theorem Keeps.nolockFollow (h : Keeps (.follow p) a s) :
    Keeps (.follow p) a (Machine.nolockFollow s p) := by
  unfold Machine.nolockFollow
  try dsimp only
  repeat' first
    | with_reducible exact h
    | with_reducible refine Keeps.portWrb ?_ _ (by simp [portFlds])
    | with_reducible refine Keeps.ite (fun _ => ?_) fun _ => ?_

theorem Keeps.portFollow (h : Keeps (.follow p) a s) :
    Keeps (.follow p) a (Machine.portFollow s p) := by
  unfold Machine.portFollow
  try dsimp only
  repeat' first
    | with_reducible exact h
    | with_reducible refine Keeps.eqFollow ?_
    | with_reducible refine Keeps.markWindows ?_
    | with_reducible refine Keeps.gainDone ?_
    | with_reducible refine Keeps.restartEnd ?_
    | with_reducible refine Keeps.sqFollow ?_
    | with_reducible refine Keeps.nolockFollow ?_
    | with_reducible refine Keeps.ite (fun _ => ?_) fun _ => ?_

theorem Keeps.showFault (h : Keeps (.follow p) a s) :
    Keeps (.follow p) a (Machine.showFault s) := by
  unfold Machine.showFault
  try dsimp only
  repeat' first
    | with_reducible exact h
    | with_reducible refine Keeps.portWrAll _ ?_ (by simp [portFlds])

theorem Keeps.updateFault (h : Keeps (.follow p) a s) :
    Keeps (.follow p) a (Machine.updateFault s) := by
  unfold Machine.updateFault
  try dsimp only
  repeat' first
    | with_reducible exact h
    | with_reducible refine Keeps.showFault ?_
    | with_reducible refine Keeps.onEvt ?_ _ (Scope.follow_logs p).evt
    | with_reducible refine Keeps.raise ?_ (Scope.follow_logs p) (Scope.follow_evs p _ (by simp))
    | with_reducible refine Keeps.portWr ?_ _ (by simp [portFlds])
    | with_reducible refine Keeps.ite (fun _ => ?_) fun _ => ?_

/-! ### The whole -/

/-- Everything that following one port can do. -/
theorem keeps_follow1 (s : State) (p : Nat) : Keeps (.follow p) s (follow1 s p) :=
  Keeps.updateFault (Keeps.portFollow (.refl _ s))

theorem Keeps.inAll {t : State} (hp : p < 16) (h : Keeps (.follow p) s t) : Keeps .followAll s t :=
  Keeps.all (List.mem_map.mpr ⟨p, List.mem_range.mpr hp, rfl⟩) h

theorem keeps_portsFollow : ∀ (l : List Nat) (s : State), (∀ p ∈ l, p < 16) → Keeps .followAll s (portsFollow s l)
  | [], s, _ => .refl _ s
  | p :: l, s, h => (Keeps.inAll (h p (by simp)) (Keeps.portFollow (.refl _ s))).trans
      (keeps_portsFollow l _ (fun q hq => h q (by simp [hq])))

/-- Everything that following all ports can do. -/
theorem keeps_follow (s : State) : Keeps .followAll s (follow s) :=
  (keeps_portsFollow (List.range 16) s (by simp)).trans
    (Keeps.inAll (p := 0) (by decide) (Keeps.updateFault (.refl _ _)))

/-! ### The passing of time -/

theorem Scope.lapse_cnv (h : c < 64) : Part.cnv c ∈ Scope.lapse.parts := by
  simp [Scope.lapse, Scope.hidden, h]

theorem Keeps.lapseCnv (hc : c < 64) (h : Keeps .lapse a s) : Keeps .lapse a (Machine.markCnv s c) := by
  unfold Machine.markCnv
  refine Keeps.ite (fun _ => ?_) fun _ => h
  exact h.onCnv _ _ (Scope.lapse_cnv hc)

theorem Keeps.lapseWindows (hp : p < 16) (h : Keeps .lapse a s) : Keeps .lapse a (Machine.markWindows s p) := by
  unfold Machine.markWindows
  refine Keeps.ite (fun _ => ?_) fun _ => h
  refine Keeps.lapseCnv (by omega) (Keeps.lapseCnv (by omega) (Keeps.lapseCnv (by omega) (Keeps.lapseCnv (by omega) ?_)))
  exact h.onTstat _ _ (by simp [Scope.lapse, Scope.hidden, hp])

theorem Keeps.lapseTime (h : Keeps .lapse a s) (f : TimeH → TimeH) : Keeps .lapse a (s.onTime f) :=
  h.onTime f (by simp [Scope.lapse, Scope.hidden])

theorem Keeps.lapseClk (h : Keeps .lapse a s) (f : ClkH → ClkH) : Keeps .lapse a (s.onClk f) :=
  h.onClk f (by simp [Scope.lapse, Scope.hidden])

theorem Keeps.addUnits (h : Keeps .lapse a s) (n : Nat) : Keeps .lapse a (Machine.addUnits s n) := h.lapseTime _

theorem Keeps.addAtPeriod (h : Keeps .lapse a s) (n : Nat) : Keeps .lapse a (Machine.addAtPeriod s n) :=
  Keeps.addUnits ((h.lapseTime _).lapseClk _) _

theorem Keeps.nextPeriod (h : Keeps .lapse a s) : Keeps .lapse a (Machine.nextPeriod s) := by
  unfold Machine.nextPeriod
  exact (h.free (by simp [Scope.lapse, Scope.hidden])).lapseClk _

theorem Keeps.addMeasured : ∀ (k : Nat) {s : State} (_ : Keeps .lapse a s) (n : Nat),
    Keeps .lapse a (Machine.addMeasured k s n).1
  | 0, _, h, _ => h
  | k + 1, s, h, n => by
    unfold Machine.addMeasured; dsimp only; split
    · exact h.addAtPeriod _
    · exact Keeps.addMeasured k (h.addAtPeriod _).nextPeriod _

theorem Keeps.addCycles (h : Keeps .lapse a s) (n : Nat) : Keeps .lapse a (Machine.addCycles s n) :=
  (h.lapseTime _).addUnits _

theorem Keeps.fabPass (h : Keeps .lapse a s) (n : Nat) : Keeps .lapse a (Machine.fabPass s n) := by
  unfold Machine.fabPass; dsimp only
  exact Keeps.ite (fun _ => (h.addMeasured _ _).lapseTime _) fun _ => (h.lapseTime _).addCycles _

/-- Everything that the passing of time can do by itself. -/
theorem keeps_elapse (s : State) (du : Nat) : Keeps .lapse s (elapse s du) := by
  unfold elapse
  exact Keeps.foldl _ (Keeps.fabPass (Keeps.lapseTime (Keeps.refl _ s) _) _) fun p hp u h =>
    h.lapseWindows (List.mem_range.mp hp)

theorem keeps_advUp (s : State) (t : Nat) : Keeps .lapse s (advUp s t) := by
  unfold advUp
  exact Keeps.ite (fun _ => keeps_elapse s _) fun _ => .refl _ s

theorem keeps_advTick (s : State) (t : Nat) : Keeps .lapse s (advTick s t) := by
  unfold advTick
  exact Keeps.ite (fun _ => keeps_elapse s _) fun _ => .refl _ s

theorem keeps_passMeasured : ∀ (k : Nat) (s : State) (n : Nat), Keeps .lapse s (passMeasured k s n)
  | 0, s, _ => .refl _ s
  | k + 1, s, n => by
    unfold passMeasured; dsimp only
    exact Keeps.ite (fun _ => keeps_elapse s _) fun _ => (keeps_elapse s _).trans (keeps_passMeasured k _ _)

theorem keeps_passCycles (s : State) (n : Nat) : Keeps .lapse s (passCycles s n) := by
  unfold passCycles
  exact Keeps.ite (fun _ => keeps_passMeasured _ s n) fun _ => keeps_elapse s _

theorem keeps_advMeasured : ∀ (k : Nat) (s : State) (d : Nat), Keeps .lapse s (advMeasured k s d)
  | 0, s, _ => .refl _ s
  | k + 1, s, d => by
    unfold advMeasured
    dsimp only
    exact Keeps.ite (fun _ => .refl _ s) fun _ => (keeps_elapse s _).trans (keeps_advMeasured k _ _)

theorem keeps_advNs (s : State) (t : Nat) : Keeps .lapse s (advNs s t) := by
  unfold advNs
  exact Keeps.ite (fun _ => Keeps.ite (fun _ => keeps_advMeasured _ s _) fun _ => keeps_passCycles s _)
    fun _ => .refl _ s

theorem keeps_fabTick (s : State) : Keeps .lapse s (fabTick s) := by
  unfold fabTick
  exact keeps_passCycles s 1

end Sys2Proof.Machine
end

