-- ==== Sys2Proof/WellFormed.lean ====
section
/-! DEFINITION. Commands whose operands have the sizes that the spec gives what they stand for. A command that
breaks a check still has a meaning: what is missing counts as 0, what is too much is left out. -/

namespace Sys2Proof

/-- A block comes in whole crossing words of 150 samples, the same of every lane, and begins in the first (R225,
R259). -/
def blockFormed (b : EqBlock) : Bool :=
  decide (b.skip < 150) && b.xi.length % 150 == 0
    && [b.xq, b.yi, b.yq].all (fun l => l.length == b.xi.length)

/-- A run's DSP cycles carry at most 134 symbols each (R259). -/
def runFormed (r : EqSpan) : Bool := r.cycles.all (fun c => decide (c ≤ 134)) && r.blocks.all blockFormed

/-- Trims of 64 slices and the punty (R221). -/
def trimsFormed (l : List (Int × Int × Int)) : Bool := l.length == 65

/-- Samples are numbered in time order (R220). -/
def samplesFormed : List Samp → Bool
  | [] => true
  | [_] => true
  | a :: b :: t => b.idx == a.idx + 1 && decide (a.time ≤ b.time) && samplesFormed (b :: t)

/-- An SFDP has at most 256 parameter headers, each with a table of at most 255 DWORDs (R550). -/
def sfdpFormed (t : Sfdp) : Bool := decide (t.tables.length ≤ 256) && t.tables.all (fun x => decide (x.dwords.length ≤ 255))

/-- The size checks of a command's operands. -/
def wellFormed : Instr → Bool
  | .flashPoll _ worn => worn.all (fun b => decide (b.length ≤ 64))
  | .refereeDone _ a b c d => [a, b, c, d].all (fun l => l.length == 16)
  | .nvAbandon _ words => decide (words ≤ 54)
  | .memoryTrainingDone fuse => fuse.length == 8
  | .flashDiscovery t => sfdpFormed t
  | .startCalDone _ cal skews => trimsFormed cal && skews.length == 64
  | .fgDone _ cal => trimsFormed cal
  | .eqBlindDone r => runFormed r.run.toEqSpan
  | .acqDone _ _ run => runFormed run.toEqSpan
  | .eqFreqDone e => e.blocks.all blockFormed
  | .seamDecision _ pairs _ => pairs.length == 4096
  | .cdFadeBegin r => runFormed r.run.toEqSpan
  | .bfFadeBegin r => runFormed r.run.toEqSpan
  | .cdFadeDone r => runFormed r.run.toEqSpan
  | .bfFadeDone r => runFormed r.run.toEqSpan
  | .guardWindow r => runFormed r.run.toEqSpan
  | .snapDone r => runFormed r.run.toEqSpan
  | .cdSwapAtBlockBoundary r => runFormed r.run.toEqSpan
  | .streamStart r => runFormed r.run.toEqSpan
  | .streamDataMessage r => runFormed r.run.toEqSpan
  | .fadeBlock _ r => runFormed r.run.toEqSpan
  | .bfLoadDone _ bads => bads.length == 17
  | .filtLoadDone _ bads => bads.length == 17
  | .tstatWindowEnd _ a b c d => samplesFormed a && samplesFormed b && samplesFormed c && samplesFormed d
  | .agcStep _ a b c d => samplesFormed a && samplesFormed b && samplesFormed c && samplesFormed d
  | .rxLos _ lanes => decide (lanes < 16)
  | .rxLol _ lanes _ => decide (lanes < 16)
  | .txLaneFault _ lanes => decide (lanes < 2 ^ 19)
  | .sliceFault _ a b => b.map (·.elem) != some a.elem
  | .laneTestTimeout _ lane ret => !ret || decide (lane.val < 4)
  | .msgWrite _ _ _ _ data tag _ => decide (data.length ≤ 8) && tag.length == 16
  | .keyxInit _ _ _ _ words auth => words.length == 17 && auth.length == 13
  | .keyxFinish _ _ _ words => words.length == 13
  | .dramRead _ _ len _ _ => len.val != 0
  | .dramWrite _ _ data _ => data.length == 64
  | .dramPartialWrite _ _ data _ _ => data.length != 0 && decide (data.length < 64)
  | .flashWindowRead _ _ len _ => len.val != 0
  | .flashWindowWrite _ _ data _ => data.length != 0 && decide (data.length ≤ 64)
  | .provisionKeyDrawn scalar => scalar.length == 12
  | .adaptWindow _ _ levels _ => levels.length == 4 && levels.foldl (· + ·) 0 == 65536
  | .returnLanesDeskewed h blocks => blocks.length == (if h.val = 16 then 4 else 2)
  | .msgRead _ _ _ _ more tag _ => decide (more.length ≤ 1019) && tag.length == 16
  | .msgTelemMargin _ _ _ _ more tag => decide (more.length ≤ 1019) && tag.length == 16
  | .keyxEnd _ _ _ _ more tag => decide (more.length ≤ 1019) && tag.length == 16
  | .spmBadOp op _ => op.toNat == 0 || decide (4 ≤ op.toNat)
  | _ => true

end Sys2Proof
end

