-- ==== Sys2Proof/Tests/Slice0.lean ====
section
/-! SUPPORT. Tests: a witness for the hypotheses of every clause of every obligation, the refusals of
`wellFormed`, and a few single steps against the spec's own numbers. -/

set_option maxRecDepth 8000
set_option maxHeartbeats 1000000
set_option linter.unusedVariables false

namespace Sys2Proof.Tests

open Sys2Proof Sys2Proof.Machine

/-! ### Small states -/

/-- Fields of a state set, first to last. -/
def has (s : State) (l : List (Fld × Nat)) : State := wrAll s l

/-- The device after hand-over, every domain on the root oscillator at 1.5 GHz. -/
def up : State :=
  has { State.reset with
    clk := { ClkH.reset with cur := Vector.replicate 6 (.root 8) }
    boot := { BootH.reset with stage := .running } }
    [(Reg.HDR.PG_STAT_GATED (Reg.CORE.page 0), 0), (Reg.HDR.PG_STAT_GATED (Reg.CORE.page 1), 0),
      (Reg.CORE.STAT_STATE 0, 1), (Reg.CORE.STAT_STATE 1, 1)]

/-- Pages with their gates open. -/
def opened (s : State) (l : List Nat) : State := has s (l.map fun pg => (Reg.HDR.PG_STAT_GATED pg, 0))

/-- A 4-byte read of master `m`. -/
def rq (m a : Nat) : Req := ⟨m, a, false, false, 4, [], false, 2, 0, 0, false, false⟩

/-- ACL[3] grants master `m` reads and writes of the first DRAM unit. -/
def granting (s : State) (m : Nat) : State :=
  has s [(Reg.ACL.RGN_BASE_EN 3 0, 1), (Reg.ACL.RGN_BASE_PAGE 3 0, 0x1000000), (Reg.ACL.RGN_LIMIT_PAGE 3 0, 0x1000000),
    (Reg.ACL.RGN_RT_HI_RIGHTS 3 0, 3 * 8 ^ (m - 8))]

/-- A raise waiting for the log. -/
def oneEntry : LogEntry := ⟨0, 5, 0, 1, 2, 0⟩

/-- The log runs, with one entry waiting. -/
def logging : State :=
  { has (granting up 14) [(Reg.EVT1.LOG_CTL_EN, 1), (Reg.EVT1.LOG_BASE_HI_ADDR, 16)] with
    evt := { up.evt with logQ := [oneEntry] } }

/-- Port `p`'s equaliser in state `st`, with nothing against it. -/
def tracking (st p : Nat) : State :=
  has ((opened up [Reg.EQ.page p, Reg.SOFT.page p, Reg.TSTAT.page p, Reg.HERD.page p, Reg.CNV.page (4 * p),
      Reg.CNV.page (4 * p + 1), Reg.CNV.page (4 * p + 2), Reg.CNV.page (4 * p + 3)]).onPort p fun q => { q with sig := .good, lo := .good })
    [(Reg.EQ.STAT_STATE p, st), (Reg.CNV.STAT_RDY (4 * p), 1), (Reg.CNV.STAT_RDY (4 * p + 1), 1),
      (Reg.CNV.STAT_RDY (4 * p + 2), 1), (Reg.CNV.STAT_RDY (4 * p + 3), 1), (Reg.HDR.PG_CTL_EN (Reg.PORT.page p), 1),
      (Reg.CLK.MON_STAT_SQUELCH, 0), (Reg.PORT.CTL_FORCE_SQ p, 0)]

/-- 100 samples of one LSB, 7 ns apart. -/
def someSamples : List Samp := (List.range 100).map fun i => ⟨64 * i, 7000 * i, 7000 * i, 1⟩

/-- A run of no DSP cycles, whose loops have come to values of their own. -/
def noRun : EqRun := ⟨⟨[], [], [], []⟩, ⟨1, 2, 3⟩⟩

/-- A run of one DSP cycle that makes a symbol. -/
def oneCycle : EqRun := ⟨⟨[], [1], [], []⟩, ⟨1, 2, 3⟩⟩

/-- A window that has ended, of 5 ns. -/
def someEnded : Ended := ⟨⟨0, 5, true⟩, false, 3, [], ⟨0, 0, 0, 0, 0, 0⟩, ⟨0, 0, 0, 0, 0, 0⟩, false, EstAcc.zero⟩

def someEst : Estimates := ⟨1, 2, 3, 4, 5, 6⟩

/-- Tables of a flash of 2^29 bits with a 4 KiB erase and pages of 256 bytes. -/
def flashTable : Sfdp := ⟨0x50444653, 1, 6,
  [⟨0xFF00, 1, 6, [0, 0x1FFFFFFF, 0, 0, 0, 0, 0, 0x200C, 0, 0, 0x80, 0, 0, 0, 0, 0x1000]⟩, ⟨0xFF84, 1, 0, [0x242]⟩], false, 20⟩

/-- An entry whose event has not come. -/
def waitingWork : Work := ⟨23, 0, 0, 0, 0, 0, false, false, false, false, false, none, [], 0⟩

/-- An entry of converter `c` whose instant has come. -/
def readyWork (c : Nat) : Work := ⟨c, 0, 0, 0, 0, 0, false, false, false, false, false, some 0, [], 0⟩

/-- A result for ring 15. -/
def oneRes : Res := ⟨5, 1, 77, false, false, false, false, 0, 3, 32, 2, 2, 15, 0⟩

/-- Herds that run, and SOFT[15]. -/
def herds : State := opened up [Reg.HERD.page 0, Reg.HERD.page 15, Reg.HERD.page 16, Reg.SOFT.page 15]

/-- Session 7 is established on herd 16. -/
def inSession : State :=
  (has herds [(Reg.HERD.STAT_STATE 16, 4), (Reg.LINK1.SES_STAT_STATE 7, 2), (Reg.LINK1.SES_STAT_HERD 7, 16)]).onLink 16
    fun l => { l with limit := 1000, peerSeen := true }

/-- The generator of P-384 as words, the public key of the private key 1. -/
def generator : List Nat := packWords 13 (pointBytes p384g)

/-- Slot 7 on herd 16 has taken a FINISH that the private key 1 has signed. -/
def finishing : State :=
  inSession.onSes 7 fun x =>
    { x with exch := .verifying, init := 0x701 :: generator ++ [1, 2, 3, 4] ++ generator,
             reply := 2 :: generator ++ [5, 6, 7, 8] ++ generator,
             finish := [3, 10062072218845239061, 3363886687123587437, 8689249955436214319, 6131935074679556503,
               16982182026680273701, 17161379785081322775, 17129172261659846241, 636619142003916881,
               13766662590934921787, 5528354276777101431, 6688455071076442309, 4291997588524555616] }

/-- The header of a TRAIN message of word 1. -/
def trainHdr (w : Word64) : Word64 := BitVec.ofNat 64 (word0 9 2 false 0 false 0 w.toNat)

/-- A marker of each return lane, in one place. -/
def oneMarkerEach : List RxBlock :=
  (List.range 4).map fun j => ⟨2, BitVec.ofNat 64 (0x4B + 2 ^ 8 * j + 2 ^ 32 * 15), 0⟩

/-- The header of a sequenced message of session 7. -/
def wd0 (kind len w1 : Nat) : Word64 := BitVec.ofNat 64 (word0 kind len true 7 false 0 w1)

def someSent : Sent := ⟨0, ⟨5, 7, true, [1, 2, 3]⟩, [4]⟩

/-- The stacked memory is in service. -/
def trained : State := { up with memc := { up.memc with trained := true } }

/-- SPM is in a frame. -/
def inFrame (op : SpmOp) : State := { has up [(Reg.SPM.STAT_FRAME, 1)] with spm := { up.spm with live := true, op := op, unit := 32 } }

/-- Sixteen requests of session 7 are outstanding. -/
def fullSession : State :=
  inSession.onSes 7 fun x => { x with out := List.replicate 16 ⟨5, rq 11 0x8000000, false, 0, none, 0⟩ }

/-! ### A bootable image -/

/-- The body of an image of erased flash. -/
def blank : List Byte := List.replicate 4096 0xFF
/-- The SHA-384 hash of that body. -/
def blankHash : List Byte :=
  [151, 97, 166, 204, 143, 56, 21, 20, 18, 91, 213, 70, 27, 17, 161, 122, 114, 23, 3, 251, 33, 121, 221, 241, 83,
  72, 182, 39, 107, 71, 254, 147, 187, 202, 86, 80, 96, 189, 180, 37, 201, 156, 174, 147, 251, 214, 141, 132]

/-- A signature of the header that the private key 1 has made. -/
def vendorSig : List Byte :=
  [40, 60, 29, 115, 101, 206, 71, 136, 242, 159, 142, 191, 35, 78, 223, 254, 173, 111, 233, 151, 251, 234, 95,
  250, 45, 88, 204, 157, 250, 123, 28, 80, 139, 5, 82, 111, 85, 185, 235, 178, 4, 15, 5, 180, 143, 182, 208, 225,
  246, 244, 33, 207, 1, 208, 98, 200, 245, 145, 29, 171, 28, 209, 11, 13, 233, 89, 124, 49, 25, 123, 92, 102, 169,
  55, 188, 172, 182, 61, 229, 27, 175, 104, 194, 12, 166, 63, 118, 94, 36, 101, 89, 210, 239, 152, 39, 54]

/-- Byte `i` of the header of an image of slot 0 with such a body: both entry points at its start. -/
def headerByte (i : Nat) : Byte :=
  if i = 0 then 0x44 else if i = 1 then 0x52 else if i = 2 then 0x56 else if i = 3 then 0x4C else if i = 4 then 1
  else if i = 13 then 0x10 else if i = 17 then 0x10 else if i = 19 then 0x20 else if i = 21 then 0x10
  else if i = 23 then 0x20 else if 24 ≤ i ∧ i < 72 then blankHash.getD (i - 24) 0
  else if 176 ≤ i ∧ i < 272 then vendorSig.getD (i - 176) 0 else 0

/-- A run of `n` bytes from `a`, each the byte `f` names. -/
def runOf (f : Nat → Byte) (a n : Nat) : Store Byte := (List.range' a n).map fun i => (i, f i)

theorem read_runOf (d : Byte) (f : Nat → Byte) (k : Nat) :
    ∀ n a, a ≤ k → k < a + n → Store.read d (runOf f a n) k = f k
  | 0, a, h1, h2 => by omega
  | n + 1, a, h1, h2 => by
    have ih := read_runOf d f k n (a + 1)
    simp only [runOf, List.range'_succ, List.map_cons, Store.read_cons] at ih ⊢
    by_cases h : a = k
    · simp [h]
    · simp only [h, if_false]
      exact ih (by omega) (by omega)

theorem bytesAt_runOf (d : Byte) (f : Nat → Byte) (n : Nat) :
    ∀ k a, a + k ≤ n → bytesAt d (runOf f 0 n) a k = (List.range' a k).map f
  | 0, _, _ => rfl
  | k + 1, a, h => by
    simp only [bytesAt, List.range'_succ, List.map_cons]
    rw [read_runOf d f a n 0 (by omega) (by omega), bytesAt_runOf d f n k (a + 1) (by omega)]

theorem read_past (d : Byte) (f : Nat → Byte) (k : Nat) : ∀ n a, a + n ≤ k → Store.read d (runOf f a n) k = d
  | 0, _, _ => rfl
  | n + 1, a, h => by
    have ih := read_past d f k n (a + 1)
    simp only [runOf, List.range'_succ, List.map_cons, Store.read_cons] at ih ⊢
    rw [if_neg (by omega), ih (by omega)]

theorem bytesAt_past (d : Byte) (f : Nat → Byte) (n : Nat) :
    ∀ k a, n ≤ a → bytesAt d (runOf f 0 n) a k = List.replicate k d
  | 0, _, _ => rfl
  | k + 1, a, h => by
    simp only [bytesAt, List.replicate_succ]
    rw [bytesAt_past d f n k (a + 1) (by omega), read_past d f a n 0 (by omega)]

/-- Start-up has reached the check of the images, slot 0 holds a well-formed one, and the boot ROM holds the public key
of the private key 1. -/
def imaged : State :=
  { up with boot := { up.boot with stage := .flash, wdtSkip := none }, mems := { up.mems with flash := runOf headerByte 0 4096 },
            romKey := pointBytes p384g }

theorem imaged_hdrNat (a n : Nat) (h : a + n ≤ 4096) :
    hdrNat imaged 0 a n = leNat ((List.range' a n).map headerByte) := by
  have := bytesAt_runOf flashDef headerByte 4096 n a h
  simpa [hdrNat, imaged] using congrArg leNat this

theorem imaged_hdrZero (a b : Nat) (h : a ≤ b) (hb : b < 4096)
    (hz : ∀ i, a ≤ i → i ≤ b → headerByte i = 0) : hdrZero imaged 0 a b = true := by
  have := bytesAt_runOf flashDef headerByte 4096 (b + 1 - a) a (by omega)
  simp only [hdrZero, imaged, Nat.zero_mul, Nat.zero_add]
  rw [this]
  simp only [List.all_map, List.all_eq_true, List.mem_range'_1, Function.comp, beq_iff_eq]
  intro i hi
  exact hz i hi.1 (by omega)

theorem imaged_formed : slotFormed imaged 0 = true := by
  have z : ∀ i, 72 ≤ i → i < 176 ∨ 272 ≤ i → headerByte i = 0 := by
    intro i hi _; simp only [headerByte]; repeat rw [if_neg (by omega)]
  have z1 := imaged_hdrZero 9 11 (by decide) (by decide)
    (by intro i h1 h2; simp only [headerByte]; repeat rw [if_neg (by omega)])
  have z2 := imaged_hdrZero 169 175 (by decide) (by decide) (fun i h g => z i (by omega) (by omega))
  have z3 := imaged_hdrZero 368 4095 (by decide) (by decide) (fun i h g => z i (by omega) (by omega))
  simp only [slotFormed, z1, z2, z3, imaged_hdrNat 0 4 (by decide), imaged_hdrNat 4 2 (by decide),
    imaged_hdrNat 12 4 (by decide), imaged_hdrNat 16 4 (by decide), imaged_hdrNat 20 4 (by decide)]
  decide

/-- Every check of a slot passes. -/
def allGood : SlotVerdict := ⟨true⟩
/-- A slot that does not read. -/
def unread : SlotVerdict := ⟨false⟩

theorem blank_hash : sha384 blank = blankHash := by decide +kernel

theorem imaged_hash : bodyHashOk imaged 0 = true := by
  have h1 := bytesAt_runOf flashDef headerByte 4096 48 24 (by decide)
  have h2 : bytesAt flashDef (runOf headerByte 0 4096) 4096 4096 = blank := bytesAt_past _ _ _ _ _ (Nat.le_refl _)
  have h3 : hdrNat imaged 0 12 4 = 4096 := by rw [imaged_hdrNat 12 4 (by decide)]; decide
  have h4 : (List.range' 24 48).map headerByte = sha384 blank := by
    rw [blank_hash]; decide
  have h5 : slotBytes imaged 0 24 48 = sha384 blank := h1.trans h4
  have h6 : slotBytes imaged 0 4096 4096 = blank := h2
  simp only [bodyHashOk, h3, h5, h6, beq_self_eq_true]

theorem imaged_signed : vendorSigOk imaged 0 = true := by
  have h1 : slotBytes imaged 0 0 176 = (List.range' 0 176).map headerByte :=
    bytesAt_runOf flashDef headerByte 4096 176 0 (by decide)
  have h2 : slotBytes imaged 0 176 96 = (List.range' 176 96).map headerByte :=
    bytesAt_runOf flashDef headerByte 4096 96 176 (by decide)
  unfold vendorSigOk
  rw [h1, h2]
  decide +kernel

theorem imaged_codes : (slotCodes imaged allGood unread).1 = 0 := by
  have h : slotCode imaged 0 allGood = 0 := by
    have h3 : ¬ hdrNat imaged 0 8 1 < recWord imaged 3 0 0 % 256 := by
      rw [imaged_hdrNat 8 1 (by decide)]; decide
    have h4 : (loadedData imaged 4).isNone = true := by decide
    simp [slotCode, imaged_formed, imaged_hash, imaged_signed, h3, h4, allGood]
  have hs : imaged.boot.wdtSkip = none := rfl
  simp [slotCodes, h, hs]


/-! ### Operands of a wrong size -/

theorem test_ill_formed_words : [Instr.nvAbandon 0 55, .memoryTrainingDone [], .keyxInit 16 true 0 1 [1] [],
    .keyxFinish 16 true 0 (List.replicate 14 1), .msgWrite 1 true 8 0 (List.replicate 9 1) (List.replicate 16 0) 0,
    .provisionKeyDrawn [1], .msgRead 16 true 0 0 [] (List.replicate 15 0) 0, .msgTelemMargin 16 true 0 0 [] [],
    .keyxEnd 16 true 0 0 [] [], .adaptWindow 16 0 [1] [], .returnLanesDeskewed 0 [], .flashPoll true (some (zeros 65)),
    .refereeDone 0 [] [] [] [1], .spmBadOp 2 0].all (fun c => !wellFormed c) = true := by decide

/-- A run with a DSP cycle of 135 symbols, and one with a block of a part of a word. -/
def badRun : EqRun := { noRun with cycles := [135] }
def badBlock : EqBlock := ⟨0, someSamples, [], [], []⟩

theorem test_ill_formed_runs : [Instr.acqDone 3 ⟨false, 0, 0⟩ badRun, .eqBlindDone ⟨3, badRun⟩, .bfFadeBegin ⟨3, badRun⟩,
    .guardWindow ⟨3, badRun⟩, .snapDone ⟨3, badRun⟩, .cdFadeBegin ⟨3, badRun⟩, .cdFadeDone ⟨3, badRun⟩,
    .bfFadeDone ⟨3, badRun⟩, .cdSwapAtBlockBoundary ⟨3, badRun⟩, .streamStart ⟨3, badRun⟩,
    .streamDataMessage ⟨3, badRun⟩, .fadeBlock true ⟨3, badRun⟩, .eqFreqDone ⟨3, 0, [badBlock]⟩,
    .seamDecision 3 [] 0, .bfLoadDone 3 [0], .filtLoadDone 20 []].all (fun c => !wellFormed c) = true := by decide

theorem test_ill_formed_lanes : [Instr.rxLos 2 16, .rxLol 2 16 true, .txLaneFault 2 (2 ^ 19), .laneTestTimeout 2 4 true,
    .sliceFault 9 ⟨5, .clockEdge⟩ (some ⟨5, .lateDecision⟩), .startCalDone 9 [] [], .fgDone 9 [],
    .tstatWindowEnd 3 [⟨1, 0, 0, 0⟩, ⟨0, 0, 0, 0⟩] [] [] [],
    .agcStep 3 [] [⟨1, 5, 5, 0⟩, ⟨2, 4, 4, 0⟩] [] []].all (fun c => !wellFormed c) = true := by decide

theorem test_ill_formed_lengths : [Instr.dramRead 1 0x1000000000 0 false false, .dramWrite 1 0x1000000000 [1] false,
    .dramPartialWrite 1 0x1000000000 [] false 0, .dramPartialWrite 1 0x1000000000 (List.replicate 64 1) false 0,
    .flashWindowRead 1 0x20000000 0 false, .flashWindowWrite 1 0x20000000 [] false,
    .flashDiscovery { flashTable with tables := List.replicate 257 ⟨0, 0, 0, []⟩ }].all (fun c => !wellFormed c) = true := by decide

/-! ### Single steps against the spec's own numbers -/

/-- The field of a state that a command gives. -/
def after (c : Instr) (s : State) (f : State → α) (d : α) : α :=
  match step { s with pending := [c] } with
  | .next t => f t
  | _ => d

/-- 05 after R154: EQ[3].PG_ID reads 0x0112_0C63. -/
theorem test_pg_id_of_eq3 : after (.lowHalfRead 1 0x1063000 false) up (lastDone · 1) Completion.none
    = ⟨.ok, [0x63, 0x0C, 0x12, 0x01]⟩ := by decide +kernel

/-- Session 1 is established. -/
def session1 : State := has up [(Reg.LINK1.SES_STAT_STATE 1, 2)]

/-- 01, the worked example of a session read: without a right of master 5, the status is BUS_ERR_DENIED and the data
is 0. -/
theorem test_session_read_denied : after (.lowHalfRead 5 0x106300C false) session1 (lastDone · 5) Completion.none
    = ⟨.errDenied, [0, 0, 0, 0]⟩ := by decide

/-- The denial is recorded at T8's access table, page 0x308 (R601). -/
theorem test_session_read_recorded : after (.lowHalfRead 5 0x106300C false) session1
    (fun t => rd t (Reg.ACL.DENY_LAST_MASTER 8)) 0 = 5 := by decide

/-- A log of 65,536 entries at 0x10_4000_0000 with the sequence at 70,000, and the worked example's raise waiting. -/
def exampleLog : State :=
  { has up [(Reg.EVT1.LOG_CTL_EN, 1), (Reg.EVT1.LOG_CTL_SIZE_LOG2, 16), (Reg.EVT1.LOG_BASE_LO_ADDR, 0x4000),
      (Reg.EVT1.LOG_BASE_HI_ADDR, 0x10), (Reg.EVT1.LOG_WR_COUNT, 70000), (Reg.EVT1.LOG_RD_COUNT, 70000),
      (Reg.ACL.RGN_BASE_EN 3 0, 1), (Reg.ACL.RGN_BASE_PAGE 3 0, 0x1040011), (Reg.ACL.RGN_LIMIT_PAGE 3 0, 0x1040011),
      (Reg.ACL.RGN_RT_HI_RIGHTS 3 0, 3 * 8 ^ 6)] with
    evt := { up.evt with logQ := [⟨0, 0x42, 0, 10000000000, 0x8000, 1⟩] } }

/-- 05, the worked example of the log: the entry's four words at 0x10_4001_1700. -/
theorem test_log_entry : after (.logEntryWrite 0) exampleLog (fun t => bytesAt 0 t.mems.dram 0x40011700 16) []
    = [0x00, 0xE4, 0x0B, 0x54, 2, 0, 0, 0, 0x00, 0x80, 0x42, 0x80, 0x70, 0x11, 1, 0] := by decide

theorem test_log_entry_counted : after (.logEntryWrite 0) exampleLog (rd · Reg.EVT1.LOG_WR_COUNT) 0 = 70001 := by decide

/-- 02, the worked example of a sag: of 30 OTP words 24 are left, and the bank holds 180 ms. -/
def saggingOtp : State :=
  { has up [(Reg.PWR.HOLDUP_VALID, 1), (Reg.PWR.HOLDUP_BUDGET_MS, 180), (Reg.PWR.FENCE_STAT_CLOSED, 0)] with
    pwr := { up.pwr with bankFull := true }
    otp := { up.otp with op := some ⟨7, 3, List.replicate 24 1, 0, .none⟩ } }

/-- The fence closes, and the OTP write is to complete (R62). -/
theorem test_sag_otp_completes : after .vinSag saggingOtp (fun t => t.otp.op.map (·.dec)) none = some .complete := by decide

/-- 02, the same example: a 4 KiB erase of at most 400 ms that began 20 ms ago is abandoned. -/
theorem test_sag_erase_abandoned : after .vinSag
    { has up [(Reg.PWR.HOLDUP_VALID, 1), (Reg.PWR.HOLDUP_BUDGET_MS, 180), (Reg.SPF.GEOM_E1_LOG2, 12),
        (Reg.PWR.FENCE_STAT_CLOSED, 0)] with
      pwr := { up.pwr with bankFull := true }
      spf := { up.spf with op := some ⟨.erase 0 4096, 0, .none, false⟩, eraseMs := [400] }
      time := { up.time with uptime := 20000 * 36000 } } (fun t => t.spf.op.map (·.dec)) none = some .abandon := by decide

/-- 04, R139: 0x1B00 7 in RST_CMD starts no reset unless the key is 0xB007. -/
theorem test_rst_cmd_key : after (.rstCmd 1 0x1B008) up (fun t => t.boot.cmdReset) (some 9) = none := by decide

/-- R515: a unit never written reads as zeros, with status UNWRITTEN. -/
theorem test_unwritten_reads_zero : after (.dramRead 14 0x1000000000 4 false false)
    { granting up 14 with memc := trained.memc } (lastDone · 14) Completion.none = ⟨.unwritten, [0, 0, 0, 0]⟩ := by decide

/-- R226: a quantiser value of -1 LSB is code -1, one of -129 is code -128 with OR, one of 128 is 127 with OR. -/
theorem test_sample_codes : [-1, -129, 128, 127].map (sampleCode (0, 0))
    = [(-1, false), (-128, true), (127, true), (127, false)] := by decide

/-- R437: 00, 01, 11 and 10 are the four levels, lowest first. -/
theorem test_gray_levels : pam4 [false, false, false, true, true, true, true, false] = [0, 1, 2, 3] := by decide

/-- FIPS 180-4: the first bytes of the SHA-384 hash of "abc". -/
theorem test_sha384_abc : (sha384 [0x61, 0x62, 0x63]).take 8 = [0xCB, 0x00, 0x75, 0x3F, 0x45, 0xA3, 0x5E, 0x8B] := by
  decide +kernel

/-- SP 800-38D, test case 13: AES-256-GCM of nothing under a key and an IV of zeros. -/
theorem test_gcm_of_nothing : gcmSeal (zeros 32) (zeros 12) [] []
    = [0x53, 0x0F, 0x8A, 0xFB, 0xC7, 0x45, 0x36, 0xB9, 0xA9, 0x63, 0xB4, 0xF1, 0xC4, 0xCB, 0x73, 0x8B] := by decide +kernel

/-- R560: of work that becomes ready in one MGT cycle, a window access goes before an erase, and an erase before a queue
sequence. -/
theorem test_flash_order : placeWork 4 (.window (rq 1 0x20000000)) (placeWork 4 (.erase 0 4096 4) [.seq 4])
    = [.window (rq 1 0x20000000), .erase 0 4096 4, .seq 4] := by decide

/-- R560: work of an earlier cycle keeps its place. -/
theorem test_flash_order_earlier : placeWork 5 (.window (rq 1 0x20000000)) [.erase 0 4096 4]
    = [.erase 0 4096 4, .window (rq 1 0x20000000)] := by decide

/-! ### What meets the hypotheses of each obligation, clause by clause -/

/-- The hypotheses of each clause of `Obligations.RailsAndSagsComplete` are met. -/
theorem test_hypotheses_rails_and_sags_complete :
    (∃ (s : State), nvRunning s = false ∧ s.pwr.failed % 256 = 0) ∧
    (∃ (s : State), nvRunning s = false ∧ s.pwr.failed % 256 ≠ 0) ∧
    (∃ (s : State) (r : Fin 8), bit s.pwr.rails r = true ∧ powered s = true) ∧
    (∃ (s : State) (r : Fin 8), s.boot.stage = .rising ∧ clrBit s.pwr.failed r % 256 = 0) ∧
    (∃ (s : State) (r : Fin 8), powered s = true) ∧
    (∃ (s : State), powered s = true) ∧
    (∃ (s : State), rd s Reg.PWR.FENCE_STAT_CAUSE_VIN = 0) ∧
    (∃ (s : State), rd s Reg.PWR.FENCE_STAT_CAUSE_VNV = 0) :=
  ⟨⟨up, by decide, by decide⟩,
   ⟨{ up with pwr := { up.pwr with failed := 4 } }, by decide, by decide⟩,
   ⟨up, 7, by decide, by decide⟩,
   ⟨{ up with boot := { up.boot with stage := .rising }, pwr := { up.pwr with failed := 4 } }, 2, by decide,
    by decide⟩,
   ⟨{ up with pwr := { up.pwr with rails := 0 } }, 0, by decide⟩,
   ⟨up, by decide⟩,
   ⟨up, by decide⟩,
   ⟨up, by decide⟩⟩

/-- The hypotheses of each clause of `Obligations.HoldupAndMeasuresComplete` are met. -/
theorem test_hypotheses_holdup_and_measures_complete :
    (∃ (s : State) (ms : BitVec 16), rd s Reg.PWR.HOLDUP_VALID = 0) ∧
    (∃ (s : State), rd s Reg.PWR.FENCE_STAT_ON_HOLDUP = 0) ∧
    (∃ (s : State) (o : OtpOp) (n : Nat), s.otp.op = some o ∧ o.dec = .abandon) ∧
    (∃ (s : State) (n : Nat), s.sec.prov = true ∧ s.sec.provDec = .abandon) ∧
    (∃ (s : State) (o : FlashOp) (n : Nat), s.spf.op = some o ∧ o.dec = .abandon ∧ o.stuck = false) :=
  ⟨⟨up, 99, by decide⟩,
   ⟨up, by decide⟩,
   ⟨{ up with otp := { up.otp with op := some ⟨5, 1, [1, 2], 0, .abandon⟩ } }, ⟨5, 1, [1, 2], 0, .abandon⟩, 1,
    by decide, by decide⟩,
   ⟨{ up with sec := { up.sec with prov := true, provDec := .abandon } }, 0, by decide, by decide⟩,
   ⟨{ up with spf := { up.spf with op := some ⟨.erase 4096 64, 0, .abandon, false⟩ } }, ⟨.erase 4096 64, 0,
    .abandon, false⟩, 0, by decide, by decide, by decide⟩⟩

/-- The hypotheses of each clause of `Obligations.ClockMonitorsComplete` are met. -/
theorem test_hypotheses_clock_monitors_complete :
    (∃ (s : State), rd s Reg.CLK.ROOT_STAT_STATE = 1) ∧
    (∃ (s : State), (rd s Reg.CLK.ROOT_STAT_STATE = 1 ∨ rd s Reg.CLK.ROOT_STAT_STATE = 2)) ∧
    (∃ (s : State), rd s Reg.CLK.ROOT_STAT_STATE = 2) ∧
    (∃ (s : State) (q : Bool), rd s Reg.CLK.MON_STAT_LOST ≠ 0) :=
  ⟨⟨has up [(Reg.CLK.ROOT_STAT_STATE, 1)], by decide⟩,
   ⟨has up [(Reg.CLK.ROOT_STAT_STATE, 2)], by decide⟩,
   ⟨has up [(Reg.CLK.ROOT_STAT_STATE, 2)], by decide⟩,
   ⟨has up [(Reg.CLK.MON_STAT_LOST, 1), (Reg.CLK.ROOT_STAT_STATE, 3)], true, by decide⟩⟩

/-- The hypotheses of each clause of `Obligations.SwitchesAndGatesComplete` are met. -/
theorem test_hypotheses_switches_and_gates_complete :
    (∃ (s : State) (d : Fin 6) (x : Source), vget s.clk.next none d = some x ∧ domWaits s d = false ∧ s.clk.held = 0
      ∧ s.bus.waiting = [] ∧ s.bus.deferred = []) ∧
    (∃ (s : State) (pg : BitVec 10), gatePending s pg.toNat = true ∧ busIdle s pg.toNat = true ∧ s.bus.waiting = []) ∧
    (∃ (s : State) (pg : BitVec 10), gatePending s pg.toNat = true ∧ s.bus.waiting ≠ [] ∧ s.bus.waiting.all
      (inProgress s pg.toNat) = true) ∧
    (∃ (s : State) (m : Fin 16) (v : Word32), WritePasses s m Reg.CLK.page 112 v.toNat ∧ v.getLsbD 0 = true ∧ rd s
      Reg.CLK.ROOT_STAT_STATE = 2 ∧ rd s Reg.CLK.MON_STAT_SQUELCH ≠ 0) :=
  ⟨⟨{ up with clk := { up.clk with next := vset up.clk.next 5 (some (.root 12)) } }, 5, .root 12, by decide, by decide,
    by decide, by decide, by decide⟩,
   ⟨has (opened up [0x21]) [(Reg.HDR.PG_STAT_COMMIT_HELD 0x21, 1)], 0x21, by decide, by decide, by decide⟩,
   ⟨has (opened { up with bus := { up.bus with waiting := [rq 1 (regAddr 0x21 64)] } } [0x21])
    [(Reg.HDR.PG_STAT_COMMIT_HELD 0x21, 1)], 0x21, by decide, by decide, by decide⟩,
   ⟨has up [(Reg.CLK.ROOT_STAT_STATE, 2), (Reg.CLK.MON_STAT_SQUELCH, 1)], 1, 1, by unfold WritePasses; decide,
    by decide, by decide, by decide⟩⟩

/-- The hypotheses of each clause of `Obligations.DeviceTimeCompletes` are met. -/
theorem test_hypotheses_device_time_completes :
    (∃ (s : State) (sub : Nat), rd s Reg.TIME.STAT_PEND = 0) ∧
    (∃ (s : State) (l : Nat), s.time.lastEdge = some l ∧ rd s Reg.TIME.STAT_SYNC_IN_OK ≠ 0) ∧
    (∃ (s : State), rd s Reg.TIME.SYNC_OUT_CTL_EN ≠ 0 ∧ s.bus.accepting = true ∧ 36 * s.time.nextOut ≤ s.time.units) ∧
    (∃ (s : State) (e : Nat), s.time.outEnd = some e) ∧
    (∃ (s : State) (m : Fin 16), WritePasses s m Reg.TIME.page 92 1 ∧ rd s Reg.TIME.STAT_PEND = 0) ∧
    (∃ (s : State) (m : Fin 16), WritePasses s m Reg.TIME.page 92 2 ∧ rd s Reg.TIME.STAT_PEND = 0) ∧
    (∃ (s : State) (m : Fin 16), WritePasses s m Reg.TIME.page 92 3 ∧ rd s Reg.TIME.STAT_PEND = 0 ∧ rd s
      Reg.TIME.STAT_SYNC_IN_OK ≠ 0) ∧
    (∃ (s : State) (m : Fin 16), WritePasses s m Reg.TIME.page 92 4) ∧
    (∃ (s : State), rd s Reg.TIME.STAT_PEND ≠ 0) :=
  ⟨⟨up, 0, by decide⟩,
   ⟨has { up with time := { up.time with lastEdge := some 36 } } [(Reg.TIME.STAT_SYNC_IN_OK, 1)], 36, by decide,
    by decide⟩,
   ⟨has up [(Reg.TIME.SYNC_OUT_CTL_EN, 1)], by decide, by decide, by decide⟩,
   ⟨{ up with time := { up.time with outEnd := some 72 } }, 72, by decide⟩,
   ⟨has up [(Reg.TIME.ADJ_LO_NS, 5)], 1, by unfold WritePasses; decide, by decide⟩,
   ⟨has up [(Reg.TIME.ADJ_LO_NS, 5)], 2, by unfold WritePasses; decide, by decide⟩,
   ⟨has up [(Reg.TIME.STAT_SYNC_IN_OK, 1)], 1, by unfold WritePasses; decide, by decide, by decide⟩,
   ⟨up, 1, by unfold WritePasses; decide⟩,
   ⟨has up [(Reg.TIME.STAT_PEND, 1)], by decide⟩⟩

/-- The hypotheses of each clause of `Obligations.StartUpCompletes` are met. -/
theorem test_hypotheses_start_up_completes :
    (∃ (s : State) (clkin : Bool), s.boot.stage = .settling ∧ s.pwr.resetN = true ∧ s.spm.queue = [] ∧ spmInFrame s
      = false) ∧
    (∃ (s : State) (clkin : Bool), s.boot.stage = .settling ∧ s.pwr.resetN = false) ∧
    (∃ (s : State) (clkin : Bool), s.boot.stage = .held ∧ s.spm.queue = [] ∧ spmInFrame s = false) ∧
    (∃ (s : State) (fuse : List FuseMap), s.boot.stage = .clocks ∧ rd s Reg.CLK.ROOT_STAT_STATE ≠ 1) ∧
    (∃ (s : State) (f : Sfdp), s.boot.stage = .memory) ∧
    (∃ (s : State) (v0 v1 : SlotVerdict), s.boot.stage = .flash ∧ rd s Reg.DEV.RST_CAUSE_WDT_RUN < 2 ∧ ((slotCodes s
      v0 v1).1 = 0 ∨ (slotCodes s v0 v1).2 = 0)) ∧
    (∃ (s : State) (v0 v1 : SlotVerdict), s.boot.stage = .flash ∧ (2 ≤ rd s Reg.DEV.RST_CAUSE_WDT_RUN ∨ ((slotCodes
      s v0 v1).1 ≠ 0 ∧ (slotCodes s v0 v1).2 ≠ 0))) ∧
    (∃ (s : State) (m : Fin 16), WritePasses s m Reg.DEV.page 88 1) ∧
    (∃ (s : State) (m : Fin 16), WritePasses s m Reg.DEV.page 88 2 ∧ s.boot.stage = .recovery) :=
  ⟨⟨{ up with boot := { up.boot with stage := .settling } }, true, by decide, by decide, by decide, by decide⟩,
   ⟨{ up with boot := { up.boot with stage := .settling }, pwr := { up.pwr with resetN := false } }, true,
    by decide, by decide⟩,
   ⟨{ up with boot := { up.boot with stage := .held }, pwr := { up.pwr with resetN := false } }, false, by decide,
    by decide, by decide⟩,
   ⟨has { up with boot := { up.boot with stage := .clocks } } [(Reg.CLK.ROOT_STAT_STATE, 3)], List.replicate 8 ⟨0,
    true, []⟩, by decide, by decide⟩,
   ⟨{ up with boot := { up.boot with stage := .memory } }, flashTable, by decide⟩,
   ⟨imaged, allGood, unread, rfl, by decide, .inl imaged_codes⟩,
   ⟨{ up with boot := { up.boot with stage := .flash } }, ⟨true⟩, ⟨false⟩, by decide, by decide⟩,
   ⟨up, 1, by unfold WritePasses; decide⟩,
   ⟨{ up with boot := { up.boot with stage := .recovery } }, 1, by unfold WritePasses; decide, by decide⟩⟩

/-- The hypotheses of each clause of `Obligations.DeviceResetCompletes` are met. -/
theorem test_hypotheses_device_reset_completes :
    (∃ (s : State), running4 s = true) ∧
    (∃ (s : State) (m : Fin 16) (v : Word32), WritePasses s m Reg.DEV.page 76 v.toNat ∧ v.toNat % 65536 = 0xB007 ∧
      bits v.toNat 16 4 = 1) ∧
    (∃ (s : State) (m : Fin 16) (v : Word32), WritePasses s m Reg.DEV.page 76 v.toNat ∧ (v.toNat % 65536 ≠ 0xB007 ∨
      bits v.toNat 16 4 ≠ 1)) ∧
    (∃ (s : State), running4 s = true ∧ s.boot.cmdReset.isSome = true) ∧
    (∃ (s : State), running4 s = true ∧ rd s Reg.DEV.BOOT_WDT_RUNNING ≠ 0) ∧
    (∃ (s : State) (clkin : Bool), s.boot.stage = .resetting ∧ nvRunning s = false ∧ s.spm.queue = []) :=
  ⟨⟨up, by decide⟩,
   ⟨up, 1, 0x1B007, by unfold WritePasses; decide, by decide, by decide⟩,
   ⟨up, 1, 0xB007, by unfold WritePasses; decide, by decide⟩,
   ⟨{ up with boot := { up.boot with cmdReset := some 2 } }, by decide, by decide⟩,
   ⟨has up [(Reg.DEV.BOOT_WDT_RUNNING, 1)], by decide, by decide⟩,
   ⟨{ up with boot := { up.boot with stage := .resetting, causePin := true } }, true, by decide, by decide,
    by decide⟩⟩

/-- The hypotheses of each clause of `Obligations.HeaderWritesComplete` are met. -/
theorem test_hypotheses_header_writes_complete :
    (∃ (s : State) (m : Fin 16) (pg : BitVec 10) (v : Word32), WritePasses s m pg.toNat 8 (setBit v.toNat 1)) ∧
    (∃ (s : State) (m : Fin 16) (pg : BitVec 10), WritePasses s m pg.toNat 16 1 ∧ (pg.toNat ≠ Reg.CLK.page ∨ rd s
      Reg.CLK.DOM_STAT_BUSY = 0)) ∧
    (∃ (s : State) (m : Fin 16), WritePasses s m Reg.CLK.page 16 1 ∧ rd s Reg.CLK.DOM_STAT_BUSY ≠ 0) ∧
    (∃ (s : State) (m : Fin 16) (pg : BitVec 10) (v : Word32), WritePasses s m pg.toNat 8 v.toNat) ∧
    (∃ (s : State) (m : Fin 16) (pg : BitVec 10) (v : Word32), WritePasses s m pg.toNat 8 (setBit v.toNat 3)) ∧
    (∃ (s : State) (m : Fin 16) (pg : BitVec 10), WritePasses s m pg.toNat 32 0x10000 ∧ rd s (Reg.HDR.PG_LOCK_HELD
      pg.toNat) = 0) ∧
    (∃ (s : State) (m : Fin 16) (pg : BitVec 10), WritePasses s m pg.toNat 32 0x20000) ∧
    (∃ (s : State) (m : Fin 16) (pg : BitVec 10), WritePasses s m pg.toNat 32 0x40000 ∧ rd s (Reg.HDR.PG_LOCK_HELD
      pg.toNat) ≠ 0) ∧
    (∃ (s : State) (m : Fin 16) (pg : BitVec 10) (v : Word32), WritePasses s m pg.toNat 20 v.toNat) :=
  ⟨⟨up, 1, 0, 0, by unfold WritePasses; decide⟩,
   ⟨up, 1, 0, by unfold WritePasses; decide, by decide⟩,
   ⟨has up [(Reg.CLK.DOM_STAT_BUSY, 1)], 1, by unfold WritePasses; decide, by decide⟩,
   ⟨up, 1, 10, 4, by unfold WritePasses; decide⟩,
   ⟨up, 1, 3, 0, by unfold WritePasses; decide⟩,
   ⟨up, 2, 0x100, by unfold WritePasses; decide, by decide⟩,
   ⟨has up [(Reg.HDR.PG_LOCK_HELD 3, 1), (Reg.HDR.PG_LOCK_OWNER 3, 2)], 2, 3, by unfold WritePasses; decide⟩,
   ⟨has up [(Reg.HDR.PG_LOCK_HELD 3, 1), (Reg.HDR.PG_LOCK_OWNER 3, 2)], 1, 3, by unfold WritePasses; decide,
    by decide⟩,
   ⟨has up [(Reg.HDR.PG_EVT_RAW_RAW 2, 5)], 1, 2, 4, by unfold WritePasses; decide⟩⟩

/-- The hypotheses of each clause of `Obligations.AccessesAndLogComplete` are met. -/
theorem test_hypotheses_accesses_and_log_complete :
    (∃ (s : State) (m : Fin 16) (pg : BitVec 10) (v : Word32), WritePasses s m pg.toNat 24 v.toNat) ∧
    (∃ (s : State) (m : Fin 16) (a : BitVec 22) (v : Word32), fabricQuiet s = true ∧ masterIssues s (mkReq m
      (0x8000000 + a.toNat) true false 4 [] false 0) = true ∧ a.toNat % 64 ≤ 60 ∧ aclGrants s 1 m (0x8000000 +
      a.toNat) 1 = true) ∧
    (∃ (s : State) (m : Fin 16) (pg : BitVec 10) (k : Kind) (i off hi : Nat) (comp : List Nat), ReadPasses s m
      pg.toNat off ∧ kindOf pg.toNat = some (k, i) ∧ pairLow k off = some (hi, comp)) ∧
    (∃ (s : State) (m : Fin 16) (pg : BitVec 10) (k : Kind) (i off x : Nat) (l : Latch), ReadPasses s m pg.toNat off
      ∧ kindOf pg.toNat = some (k, i) ∧ pairLow k off = none ∧ latchOf s m pg.toNat = some l ∧ l.words.headD (0, 0)
      = (off, x) ∧ l.words ≠ [] ∧ pg.toNat ≠ Reg.SPF.page) ∧
    (∃ (s : State) (pg : BitVec 10), resetPending s pg.toNat = true ∧ busIdle s pg.toNat = true ∧ s.bus.waiting = []
      ∧ (kindOf pg.toNat).isSome = true) ∧
    (∃ (s : State) (pg : BitVec 10), resetPending s pg.toNat = true ∧ s.bus.waiting ≠ [] ∧ s.bus.waiting.all
      (inProgress s pg.toNat) = true ∧ (kindOf pg.toNat).isSome = true ∧ pg.toNat ≠ Reg.CLK.page) ∧
    (∃ (s : State) (m : Fin 16) (v : Word32), WritePasses s m Reg.EVT1.page 80 v.toNat) ∧
    (∃ (s : State) (bads : Fin 5) (e : LogEntry) (rest : List LogEntry), logRuns s = true ∧ s.evt.logQ = e :: rest ∧
      logLevel s < logSize s ∧ rd s Reg.EVT1.LOG_STAT_GAP = 0 ∧ (logPut s (logBytes e.ns e.frac e.id e.trust (rd s
      Reg.EVT1.LOG_WR_COUNT)) bads).2 = true) ∧
    (∃ (s : State) (bads : Fin 5) (e : LogEntry) (rest : List LogEntry), logRuns s = true ∧ s.evt.logQ = e :: rest ∧
      logSize s ≤ logLevel s) ∧
    (∃ (s : State), s.evt.faultLow = true ∧ faultWanted s = false) :=
  ⟨⟨up, 1, 0x21, 0xFFFFFFFF, by unfold WritePasses; decide⟩,
   ⟨up, 1, 0x3FFFFC, 0x12345678, by decide, by decide, by decide, by decide⟩,
   ⟨up, 1, 6, .time, 0, 64, 68, [72], by unfold ReadPasses; decide, by decide, by decide⟩,
   ⟨{ up with bus := { up.bus with latches := [⟨1, 6, [(68, 9), (72, 3)]⟩] } }, 1, 6, .time, 0, 68, 9, ⟨1, 6, [(68,
    9), (72, 3)]⟩, by unfold ReadPasses; decide, by decide, by decide, by decide, by decide, by decide, by decide⟩,
   ⟨has up [(Reg.HDR.PG_STAT_RST_BUSY 3, 1)], 3, by decide, by decide, by decide, by decide⟩,
   ⟨has { up with bus := { up.bus with waiting := [rq 1 (regAddr 3 64)] } } [(Reg.HDR.PG_STAT_RST_BUSY 3, 1)], 3,
    by decide, by decide, by decide, by decide, by decide⟩,
   ⟨up, 1, 0, by unfold WritePasses; decide⟩,
   ⟨logging, 0, oneEntry, [], by decide, by decide, by decide, by decide, by decide⟩,
   ⟨has logging [(Reg.EVT1.LOG_WR_COUNT, 0x80000000)], 0, oneEntry, [], by decide, by decide, by decide⟩,
   ⟨has { up with evt := { up.evt with faultLow := true } } [(Reg.EVT2.FAULT_CTL_ARM, 1), (Reg.CLK.MON_STAT_SQUELCH,
    0), (Reg.EVT2.FAULT_CTL_PORT_EN, 0)], by decide, by decide⟩⟩

/-- The hypotheses of each clause of `Obligations.OpticalComplete` are met. -/
theorem test_hypotheses_optical_complete :
    (∃ (s : State) (p : Fin 16) (dbm : Int) (ps : Nat), (s.port p).sig = .good ∧ dbm < sigThr s p ∧ 1000 ≤ ps) ∧
    (∃ (s : State) (p : Fin 16) (dbm : Int) (ps : Nat), (s.port p).lo = .good ∧ dbm < loThr s p ∧ 1000 ≤ ps) ∧
    (∃ (s : State) (p : Fin 16) (a b : Int) (m n : Nat), (sigThr s p ≤ a ∨ m < 200) ∧ (loThr s p ≤ b ∨ n < 200)) ∧
    (∃ (s : State) (p : Fin 16) (a b : Int) (m n : Nat), blockRuns s (Reg.PORT.page p) = true ∧ (s.port p).sig =
      .loss ∧ (s.port p).lo = .loss ∧ sigThr s p + rd s (Reg.PORT.LOS_RET_HYST p) ≤ a ∧ loThr s p + rd s
      (Reg.PORT.LOS_RET_HYST p) ≤ b ∧ 0 < m ∧ 0 < n ∧ 100 * rd s (Reg.PORT.LOS_RET_RETURN_US p) ≤ (s.port p).sigQual
      + m ∧ 100 * rd s (Reg.PORT.LOS_RET_RETURN_US p) ≤ (s.port p).loQual + n) ∧
    (∃ (s : State) (p : Fin 16) (a : Int) (m : Nat), blockRuns s (Reg.PORT.page p) = true ∧ (s.port p).sig = .loss ∧
      a < sigThr s p + rd s (Reg.PORT.LOS_RET_HYST p) ∧ 0 < m) ∧
    (∃ (s : State) (p : Fin 16) (xi xq yi yq : List Samp), blockRuns s (Reg.PORT.page p) = true ∧ rd s
      (Reg.PORT.CTL_AGC_EN p) ≠ 0 ∧ (s.port p).sig = .good ∧ (s.port p).lo = .good) ∧
    (∃ (s : State) (p : Fin 16), blockRuns s (Reg.PORT.page p) = true ∧ rd s (Reg.PORT.CTL_AGC_EN p) = 0) ∧
    (∃ (s : State) (p : Fin 16), bit (rd s (Reg.PORT.SQ_NOW_CAUSE p)) 4 = true) :=
  ⟨⟨up.onPort 15 fun q => { q with sig := .good }, 15, -300, 1000, by decide, by decide, by decide⟩,
   ⟨up.onPort 0 fun q => { q with lo := .good }, 0, -300, 1000, by decide, by decide, by decide⟩,
   ⟨up.onPort 0 fun q => { q with sig := .good, lo := .good }, 0, -300, 300, 199, 5000, by decide, by decide⟩,
   ⟨(opened up [Reg.PORT.page 3]).onPort 3 fun q => { q with sig := .loss, lo := .loss }, 3, 300, 300, 100000,
    100000, by decide, by decide, by decide, by decide, by decide, by decide, by decide, by decide, by decide⟩,
   ⟨(opened up [Reg.PORT.page 3]).onPort 3 fun q => { q with sig := .loss, lo := .loss }, 3, -300, 7, by decide,
    by decide, by decide, by decide⟩,
   ⟨has (opened (up.onPort 3 fun q => { q with sig := .good, lo := .good }) [Reg.PORT.page 3, Reg.CNV.page 12])
    [(Reg.PORT.CTL_AGC_EN 3, 1), (Reg.CNV.STAT_STATE 12, 3)], 3, someSamples, [], [], [], by decide, by decide,
    by decide, by decide⟩,
   ⟨has (opened up [Reg.PORT.page 3]) [(Reg.PORT.CTL_AGC_EN 3, 0), (Reg.PORT.TIA_GAIN_XI 3, 9)], 3, by decide,
    by decide⟩,
   ⟨has up [(Reg.PORT.SQ_NOW_CAUSE 3, 16)], 3, by decide⟩⟩

/-- The hypotheses of each clause of `Obligations.ConverterStatesComplete` are met. -/
theorem test_hypotheses_converter_states_complete :
    (∃ (s : State) (n : Fin 64), cnvState s n = 1 ∧ blockRuns s (Reg.CNV.page n) = true) ∧
    (∃ (s : State) (n : Fin 64) (cal : List (Int × Int × Int)) (skews : List Int), cnvState s n = 2 ∧ blockRuns s
      (Reg.CNV.page n) = true) ∧
    (∃ (s : State) (n : Fin 64), (cnvState s n = 3 ∨ cnvState s n = 4) ∧ blockRuns s (Reg.CNV.page n) = true ∧
      (s.cnv n).locked = true) ∧
    (∃ (s : State) (n : Fin 64), cnvState s n = 6 ∧ (s.cnv n).locked = false ∧ blockRuns s (Reg.CNV.page n) = true) ∧
    (∃ (s : State) (m : Fin 16) (n : Fin 64), WritePasses s m (Reg.CNV.page n) 80 1) ∧
    (∃ (s : State) (n : Fin 64) (cal : List (Int × Int × Int)), cnvState s n = 7 ∧ blockRuns s (Reg.CNV.page n) =
      true) :=
  ⟨⟨has (opened up [Reg.CNV.page 63]) [(Reg.CNV.STAT_STATE 63, 1), (Reg.CNV.RETIRE_VALID 63, 1), (Reg.CNV.RETIRE_SLICE
    63, 64)], 63, by decide, by decide⟩,
   ⟨has (opened up [Reg.CNV.page 0]) [(Reg.CNV.STAT_STATE 0, 2)], 0, List.replicate 65 (0, 0, 0), List.replicate 64
    0, by decide, by decide⟩,
   ⟨has (opened (up.onCnv 5 fun t => { t with locked := true }) [Reg.CNV.page 5]) [(Reg.CNV.STAT_STATE 5, 4)], 5,
    by decide, by decide, by decide⟩,
   ⟨has (opened up [Reg.CNV.page 5]) [(Reg.CNV.STAT_STATE 5, 6)], 5, by decide, by decide, by decide⟩,
   ⟨has (opened up [Reg.CNV.page 5]) [(Reg.CNV.STAT_STATE 5, 3), (Reg.PORT.SQ_NOW_CAUSE 1, 1)], 1, 5,
    by unfold WritePasses; decide⟩,
   ⟨has (opened up [Reg.CNV.page 5]) [(Reg.CNV.STAT_STATE 5, 7)], 5, List.replicate 65 (1, 2, 3), by decide,
    by decide⟩⟩

/-- The hypotheses of each clause of `Obligations.RotationCompletes` are met. -/
theorem test_hypotheses_rotation_completes :
    (∃ (s : State) (n : Fin 64) (ofs gain : Int), rotPhase s n = 1 ∧ cnvState s n = 3 ∧ trimOk ofs gain 0 = true ∧
      blockRuns s (Reg.CNV.page n) = true) ∧
    (∃ (s : State) (n : Fin 64) (pairs : List SeamPair) (offset : Int), cnvState s n = 3 ∧ (rotPhase s n = 2 ∨
      rotPhase s n = 4) ∧ blockRuns s (Reg.CNV.page n) = true ∧ pairs.length = 4096) ∧
    (∃ (s : State) (n : Fin 64) (ofs gain skew : Int), rotPhase s n = 3 ∧ cnvState s n = 3 ∧ (s.cnv n).step ≤ 64 ∧
      blockRuns s (Reg.CNV.page n) = true) ∧
    (∃ (s : State) (n : Fin 64), cnvState s n = 3 ∧ rotPhase s n = 0 ∧ (s.cnv n).hole = none ∧ blockRuns s
      (Reg.CNV.page n) = true) ∧
    (∃ (s : State) (n : Fin 64) (sl : Fin 65) (why : SelfCheck), 4 ≤ cnvState s n ∧ blockRuns s (Reg.CNV.page n) =
      true ∧ checkFails s n why = true) ∧
    (∃ (s : State) (n : Fin 64) (sl : Fin 65) (why : SelfCheck), checkFails s n why = false) ∧
    (∃ (s : State) (n sl : Fin 64) (why : SelfCheck), cnvState s n = 3 ∧ sliceFailed s n sl = false ∧ (s.cnv n).hole
      = none ∧ ¬(2 ≤ rotPhase s n ∧ rotPhase s n ≤ 4 ∧ stepSlice s n = sl) ∧ blockRuns s (Reg.CNV.page n) = true ∧
      checkFails s n why = true) ∧
    (∃ (s : State) (n j : Fin 64), (s.cnv n).hole = some j.val ∧ cnvState s n = 3 ∧ sliceFailed s n j = false ∧ rd s
      (Reg.CNV.SLICE_B_STATE n 64) < 4 ∧ blockRuns s (Reg.CNV.page n) = true) :=
  ⟨⟨has (opened up [Reg.CNV.page 5]) [(Reg.CNV.STAT_STATE 5, 3), (Reg.CNV.STAT_ROT_PHASE 5, 1)], 5, -512, 8192,
    by decide, by decide, by decide, by decide⟩,
   ⟨has (opened up [Reg.CNV.page 5]) [(Reg.CNV.STAT_STATE 5, 3), (Reg.CNV.STAT_ROT_PHASE 5, 2)], 5, List.replicate
    4096 ⟨0, 0⟩, 0, by decide, by decide, by decide, List.length_replicate⟩,
   ⟨has (opened (up.onCnv 5 fun t => { t with step := 64 }) [Reg.CNV.page 5]) [(Reg.CNV.STAT_STATE 5, 3),
    (Reg.CNV.STAT_ROT_PHASE 5, 3)], 5, -512, 8192, 200, by decide, by decide, by decide, by decide⟩,
   ⟨has (opened up [Reg.CNV.page 5]) [(Reg.CNV.STAT_STATE 5, 3), (Reg.CNV.STAT_ROT_PHASE 5, 0)], 5, by decide,
    by decide, by decide, by decide⟩,
   ⟨has (opened up [Reg.CNV.page 5]) [(Reg.CNV.STAT_STATE 5, 4)], 5, 64, .lateDecision, by decide, by decide,
    by decide⟩,
   ⟨has (opened up [Reg.CNV.page 5]) [(Reg.CNV.STAT_STATE 5, 3)], 5, 63, .run 0 128 1000 0 1000, by decide⟩,
   ⟨has (opened up [Reg.CNV.page 5]) [(Reg.CNV.STAT_STATE 5, 3)], 5, 63, .clockEdge, by decide, by decide,
    by decide, by decide, by decide, by decide⟩,
   ⟨has (opened (up.onCnv 5 fun t => { t with hole := some 63 }) [Reg.CNV.page 5]) [(Reg.CNV.STAT_STATE 5, 3)], 5,
    63, by decide, by decide, by decide, by decide, by decide⟩⟩

/-- The hypotheses of each clause of `Obligations.AcquisitionCompletes` are met. -/
theorem test_hypotheses_acquisition_completes :
    (∃ (s : State) (p : Fin 16) (khz : Int) (bl : List EqBlock), rd s (Reg.EQ.STAT_STATE p) = 2 ∧ eqRuns s p = true) ∧
    (∃ (s : State) (p : Fin 16) (run : EqRun), rd s (Reg.EQ.STAT_STATE p) = 3 ∧ eqRuns s p = true) ∧
    (∃ (s : State) (p : Fin 16) (y : PilotSync) (run : EqRun), rd s (Reg.EQ.STAT_STATE p) = 4 ∧ eqRuns s p = true ∧
      syncHolds s p y run.toEqSpan = true) ∧
    (∃ (s : State) (p : Fin 16), 2 ≤ rd s (Reg.EQ.STAT_STATE p) ∧ rd s (Reg.EQ.STAT_STATE p) ≤ 4 ∧ eqRuns s p =
      true) ∧
    (∃ (s : State) (w : PilotWindow), rd s (Reg.EQ.STAT_STATE w.port) = 5 ∧ eqRuns s w.port = true ∧ lockFails s w =
      true) ∧
    (∃ (s : State) (m p : Fin 16), WritePasses s m (Reg.EQ.page p) 120 4 ∧ rd s (Reg.EQ.STAT_STATE p) = 5) :=
  ⟨⟨tracking 2 15, 15, 7000000, [], by decide, by decide⟩,
   ⟨tracking 3 15, 15, noRun, by decide, by decide⟩,
   ⟨tracking 4 15, 15, ⟨true, 0, 0⟩, noRun, by decide, by decide, by decide⟩,
   ⟨tracking 2 0, 0, by decide, by decide, by decide⟩,
   ⟨tracking 5 0, ⟨0, true, 0, [], []⟩, by decide, by decide, by decide⟩,
   ⟨has (opened up [Reg.EQ.page 0]) [(Reg.EQ.STAT_STATE 0, 5)], 1, 0, by unfold WritePasses; decide, by decide⟩⟩

/-- The hypotheses of each clause of `Obligations.BanksAndGuardComplete` are met. -/
theorem test_hypotheses_banks_and_guard_complete :
    (∃ (s : State) (m p : Fin 16), WritePasses s m (Reg.EQ.page p) 120 1) ∧
    (∃ (s : State) (p : Fin 16) (bads : List (Fin 5)) (a : Nat), (s.eq p).bfLoad = some a ∧ (s.eq p).bfPend = none ∧
      eqRuns s p = true) ∧
    (∃ (s : State) (p : Fin 16) (run : EqRun), rd s (Reg.EQ.STAT_STATE p) = 5 ∧ (s.eq p).cdReady = true ∧ (s.eq
      p).cdPlain = false ∧ rd s (Reg.EQ.STAT_GUARD p) = 0 ∧ eqStays s p = true) ∧
    (∃ (s : State) (p : Fin 16) (run : EqRun), rd s (Reg.EQ.STAT_STATE p) = 5 ∧ (s.eq p).bfReady = true ∧ eqStays s
      p = true) ∧
    (∃ (s : State) (p : Fin 16) (run : EqRun) (n : Nat), (s.eq p).bfFade = some n ∧ rd s (Reg.EQ.FADE_BF_POS p) + 1
      < n ∧ eqRuns s p = true) ∧
    (∃ (s : State) (p : Fin 16) (run : EqRun) (n : Nat), (s.eq p).cdFade = some n ∧ rd s (Reg.EQ.FADE_CD_POS p) + 1
      < n ∧ rd s (Reg.EQ.STAT_STATE p) = 5 ∧ eqStays s p = true) ∧
    (∃ (s : State) (p : Fin 16) (run : EqRun) (n : Nat), (s.eq p).cdFade = some n ∧ rd s (Reg.EQ.FADE_CD_POS p) + 1
      = n ∧ rd s (Reg.EQ.STAT_GUARD p) = 0 ∧ rd s (Reg.EQ.STAT_STATE p) = 5 ∧ eqRuns s p = true) ∧
    (∃ (s : State) (p : Fin 16) (run : EqRun) (n : Nat), (s.eq p).bfFade = some n ∧ rd s (Reg.EQ.FADE_BF_POS p) + 1
      = n ∧ eqRuns s p = true) ∧
    (∃ (s : State) (p : Fin 16) (run : EqRun), (s.eq p).cdReady = true ∧ (s.eq p).cdPlain = true ∧ 2 ≤ rd s
      (Reg.EQ.STAT_STATE p) ∧ eqRuns s p = true) ∧
    (∃ (s : State) (p : Fin 16) (run : EqRun), rd s (Reg.EQ.STAT_STATE p) = 5 ∧ eqRuns s p = true ∧ rd s
      (Reg.EQ.STAT_GUARD p) = 0) ∧
    (∃ (s : State) (p : Fin 16) (run : EqRun), rd s (Reg.EQ.STAT_STATE p) = 5 ∧ eqRuns s p = true ∧ rd s
      (Reg.EQ.STAT_GUARD p) ≠ 0) ∧
    (∃ (s : State) (m p : Fin 16), WritePasses s m (Reg.EQ.page p) 120 2) ∧
    (∃ (s : State) (p : Fin 16) (run : EqRun), rd s (Reg.EQ.STAT_SNAP_BUSY p) ≠ 0 ∧ (s.eq p).snapWait = false ∧
      eqRuns s p = true) :=
  ⟨⟨opened up [Reg.EQ.page 0], 1, 0, by unfold WritePasses; decide⟩,
   ⟨(opened up [Reg.EQ.page 0]).onEq 0 fun e => { e with bfLoad := some 0x1000000000, bfPend := none }, 0,
    List.replicate 17 0, 0x1000000000, by decide, by decide, by decide⟩,
   ⟨(tracking 5 2).onEq 2 fun e => { e with cdReady := true, cdPlain := false }, 2, noRun, by decide, by decide,
    by decide, by decide, by decide⟩,
   ⟨(tracking 5 2).onEq 2 fun e => { e with bfReady := true }, 2, noRun, by decide, by decide, by decide⟩,
   ⟨(tracking 5 2).onEq 2 fun e => { e with bfFade := some 2 }, 2, noRun, 2, by decide, by decide, by decide⟩,
   ⟨(tracking 5 2).onEq 2 fun e => { e with cdFade := some 2 }, 2, noRun, 2, by decide, by decide, by decide,
    by decide⟩,
   ⟨(tracking 5 2).onEq 2 fun e => { e with cdFade := some 1 }, 2, noRun, 1, by decide, by decide, by decide,
    by decide, by decide⟩,
   ⟨(tracking 5 2).onEq 2 fun e => { e with bfFade := some 1 }, 2, noRun, 1, by decide, by decide, by decide⟩,
   ⟨(tracking 2 2).onEq 2 fun e => { e with cdReady := true, cdPlain := true }, 2, noRun, by decide, by decide,
    by decide, by decide⟩,
   ⟨tracking 5 2, 2, noRun, by decide, by decide, by decide⟩,
   ⟨(has (tracking 5 2) [(Reg.EQ.STAT_GUARD 2, 1)]).onEq 2 fun e => { e with goodWin := 40000 }, 2, noRun,
    by decide, by decide, by decide⟩,
   ⟨opened up [Reg.EQ.page 0], 1, 0, by unfold WritePasses; decide⟩,
   ⟨has (opened up [Reg.EQ.page 0]) [(Reg.EQ.STAT_SNAP_BUSY 0, 1)], 0, noRun, by decide, by decide, by decide⟩⟩

/-- The hypotheses of each clause of `Obligations.StatisticsComplete` are met. -/
theorem test_hypotheses_statistics_complete :
    (∃ (s : State) (p : Fin 16) (xi xq yi yq : List Samp) (w : Win), (s.tstat p).win = some w ∧ blockRuns s
      (Reg.TSTAT.page p) = true ∧ 36 * w.fin ≤ s.time.units) ∧
    (∃ (s : State) (p : Fin 16) (est : Estimates) (d : Ended) (rest : List Ended), (s.tstat p).ended = d :: rest ∧
      blockRuns s (Reg.TSTAT.page p) = true) :=
  ⟨⟨(opened up [Reg.TSTAT.page 1, Reg.CNV.page 4]).onTstat 1 fun t => { t with win := some ⟨0, 0, true⟩ }, 1,
    someSamples, [], [], [], ⟨0, 0, true⟩, by decide, by decide, by decide⟩,
   ⟨(opened up [Reg.TSTAT.page 1]).onTstat 1 fun t => { t with ended := [someEnded] }, 1, someEst, someEnded, [],
    by decide, by decide⟩⟩

/-- The hypotheses of each clause of `Obligations.SequencerCompletes` are met. -/
theorem test_hypotheses_sequencer_completes :
    (∃ (s : State), blockRuns s Reg.SEQ.page = true ∧ rd s Reg.SEQ.STAT_RUN ≠ 0 ∧ s.seq.cur = none) ∧
    (∃ (s : State) (i : Fin 16), blockRuns s Reg.TMR.page = true ∧ bit (rd s Reg.TMR.CTL_EN) i = true) ∧
    (∃ (s : State) (o : Fin 64), blockRuns s Reg.PWM.page = true ∧ rd s (Reg.PWM.CFG_PERIOD o) = (s.pwm o).per ∧ rd
      s (Reg.PWM.CFG_PHASE o) = (s.pwm o).phase) ∧
    (∃ (s : State) (o : Fin 64) (e : Nat), (s.pwm o).start = some e ∧ blockRuns s Reg.PWM.page = true ∧ (s.pwm
      o).high = true ∧ (s.pwm o).on < (s.pwm o).per) ∧
    (∃ (s : State) (w : Work), blockRuns s Reg.SEQ.page = true ∧ s.seq.cur = some w) ∧
    (∃ (s : State) (c : Fin 24) (w : Work), blockRuns s Reg.SEQ.page = true ∧ (s.pcv c).work = some w ∧ (w.taken = 0
      ∨ w.each = true) ∧ (s.pcv c).conv = none) ∧
    (∃ (s : State) (m : Fin 16) (i : BitVec 16) (w : Word32), fabricQuiet s = true ∧ masterIssues s (mkReq m
      (0x1800000 + 8 * i.toNat) true false 4 [] false 0) = true ∧ aclGrants s 4 m (0x1800000 + 8 * i.toNat) 1 =
      true) ∧
    (∃ (s : State) (m : Fin 16) (i : BitVec 16) (w : Word32), fabricQuiet s = true ∧ masterIssues s (mkReq m
      (0x1800000 + 8 * i.toNat + 4) true false 4 [] false 0) = true ∧ aclGrants s 4 m (0x1800000 + 8 * i.toNat + 4)
      1 = true) ∧
    (∃ (s : State) (m : Fin 16), WritePasses s m Reg.SEQ.page 80 1) :=
  ⟨⟨has (opened up [Reg.SEQ.page]) [(Reg.SEQ.STAT_RUN, 1)], by decide, by decide, by decide⟩,
   ⟨has (opened up [Reg.TMR.page]) [(Reg.TMR.CTL_EN, 0x8000)], 15, by decide, by decide⟩,
   ⟨has (opened up [Reg.PWM.page]) [(Reg.PWM.DUTY_DUTY 63, 0x8000)], 63, by decide, by decide, by decide⟩,
   ⟨(opened up [Reg.PWM.page]).onPwm 63 fun p => { p with start := some 4, high := true, on := 9 }, 63, 4,
    by decide, by decide, by decide, by decide⟩,
   ⟨{ opened up [Reg.SEQ.page] with seq := { up.seq with cur := some waitingWork } }, waitingWork, by decide,
    by decide⟩,
   ⟨(opened up [Reg.SEQ.page]).onPcv 23 fun p => { p with work := some waitingWork, conv := none }, 23, waitingWork,
    by decide, by decide, by decide, by decide⟩,
   ⟨up, 1, 65535, 7, by decide, by decide, by decide⟩,
   ⟨{ up with seq := { up.seq with latches := [(1, 65535, 9)] } }, 1, 65535, 7, by decide, by decide, by decide⟩,
   ⟨opened up [Reg.SEQ.page], 1, by unfold WritePasses; decide⟩⟩

/-- The hypotheses of each clause of `Obligations.ConversionsComplete` are met. -/
theorem test_hypotheses_conversions_complete :
    (∃ (s : State) (c : Fin 24) (w : Work), blockRuns s (Reg.PCV.page c) = true ∧ blockRuns s Reg.SEQ.page = true ∧
      pst s c = 2 ∧ injWaits s c = none ∧ (s.pcv c).work = some w ∧ w.trigAt = some s.time.tick ∧ canStart s c
      .entry false w = true) ∧
    (∃ (s : State) (c : Fin 24) (w : Work), blockRuns s (Reg.PCV.page c) = true ∧ blockRuns s Reg.SEQ.page = true ∧
      pst s c = 2 ∧ injWaits s c = some w ∧ canStart s c .inj false w = true) ∧
    (∃ (s : State) (c : Fin 24) (w : Work), blockRuns s (Reg.PCV.page c) = true ∧ blockRuns s Reg.SEQ.page = true ∧
      pst s c = 2 ∧ injWaits s c = none ∧ (s.pcv c).work = none ∧ s.seq.cur = some w ∧ serve s w.pcv = some c.val ∧
      s.seq.referee.contains (c / 2) = false ∧ calReady s c = false ∧ w.trigAt = some s.time.tick ∧ canStart s c
      .entry true w = true) ∧
    (∃ (s : State) (c : Fin 24) (v partner : Int) (k : Conv) (w : Work), blockRuns s (Reg.PCV.page c) = true ∧
      blockRuns s Reg.SEQ.page = true ∧ (s.pcv c).conv = some k ∧ k.kind = .entry ∧ (s.pcv c).work = some w ∧
      w.taken + 1 < 2 ^ (w.avg + 1)) ∧
    (∃ (s : State) (c : Fin 24) (v partner : Int) (k : Conv) (w : Work), blockRuns s (Reg.PCV.page c) = true ∧
      blockRuns s Reg.SEQ.page = true ∧ (s.pcv c).conv = some k ∧ k.kind = .entry ∧ (s.pcv c).work = some w ∧ 2 ^
      (w.avg + 1) ≤ w.taken + 1 ∧ w.clsT = false ∧ inputT s w.input = false ∧ w.dest < 16 ∧ (∀ y ∈ s.ringQ, y.tick <
      k.tick + 100)) ∧
    (∃ (s : State) (c : Fin 24) (v partner : Int) (k : Conv) (w : Work), blockRuns s (Reg.PCV.page c) = true ∧
      blockRuns s Reg.SEQ.page = true ∧ (s.pcv c).conv = some k ∧ k.kind = .inj ∧ s.seq.inj = some w ∧ 2 ^ (w.avg +
      1) ≤ w.taken + 1) ∧
    (∃ (s : State) (m : Fin 16) (c : Fin 24), WritePasses s m (Reg.PCV.page c) 72 1 ∧ (pst s c = 1 ∨ pst s c = 2)) ∧
    (∃ (s : State) (c : Fin 24), rd s (Reg.PCV.CTL_CAL_PER_S c) ≠ 0 ∧ blockRuns s (Reg.PCV.page c) = true ∧ (pst s c
      = 1 ∨ pst s c = 2)) ∧
    (∃ (s : State) (c : Fin 24), blockRuns s (Reg.PCV.page c) = true ∧ calReady s c = true) ∧
    (∃ (s : State) (c : Fin 24) (found : List (Int × Int)), pst s c = 1 ∧ blockRuns s (Reg.PCV.page c) = true) ∧
    (∃ (s : State) (c : Fin 24) (k : Conv), (s.pcv c).conv = some k ∧ blockRuns s (Reg.PCV.page c) = true) ∧
    (∃ (s : State) (k : Fin 12) (ref0 gnd0 ref1 gnd1 : List Int), s.seq.referee.contains k.val = true ∧ blockRuns s
      (Reg.PCV.page (2 * k)) = true ∧ blockRuns s (Reg.PCV.page (2 * k + 1)) = true ∧ pst s (2 * k) = 2 ∧ pst s (2 *
      k + 1) = 2) :=
  ⟨⟨(has (opened up [Reg.PCV.page 2, Reg.SEQ.page]) [(Reg.PCV.STAT_STATE 2, 2)]).onPcv 2 fun p =>
    { p with work := some (readyWork 2), conv := none }, 2, readyWork 2, by decide, by decide, by decide, by decide,
    by decide, by decide, by decide⟩,
   ⟨{ has (opened up [Reg.PCV.page 2, Reg.SEQ.page]) [(Reg.PCV.STAT_STATE 2, 2)] with seq := { up.seq with inj := some (readyWork 2) } },
    2, readyWork 2, by decide, by decide, by decide, by decide, by decide⟩,
   ⟨{ has (opened up [Reg.PCV.page 2, Reg.SEQ.page]) [(Reg.PCV.STAT_STATE 2, 2)] with seq := { up.seq with cur := some (readyWork 2) } },
    2, readyWork 2, by decide, by decide, by decide, by decide, by decide, by decide, by decide, by decide,
    by decide, by decide, by decide⟩,
   ⟨(has (opened up [Reg.PCV.page 2, Reg.SEQ.page]) [(Reg.PCV.STAT_STATE 2, 2)]).onPcv 2 fun p =>
    { p with work := some (readyWork 2), conv := some ⟨.entry, 0, 0, 0⟩ }, 2, 300, 0, ⟨.entry, 0, 0, 0⟩, readyWork
    2, by decide, by decide, by decide, by decide, by decide, by decide⟩,
   ⟨(has (opened up [Reg.PCV.page 2, Reg.SEQ.page]) [(Reg.PCV.STAT_STATE 2, 2)]).onPcv 2 fun p =>
    { p with work := some { readyWork 2 with taken := 1 }, conv := some ⟨.entry, 0, 0, 0⟩ }, 2, 300, 0, ⟨.entry, 0,
    0, 0⟩, { readyWork 2 with taken := 1 }, by decide, by decide, by decide, by decide, by decide, by decide,
    by decide, by decide, by decide, by decide⟩,
   ⟨{ (has (opened up [Reg.PCV.page 2, Reg.SEQ.page]) [(Reg.PCV.STAT_STATE 2, 2)]).onPcv 2 (fun p => { p with conv := some ⟨.inj, 0, 0, 0⟩ }) with seq := { up.seq with inj := some { readyWork 2 with taken := 1 } } },
    2, 300, 0, ⟨.inj, 0, 0, 0⟩, { readyWork 2 with taken := 1 }, by decide, by decide, by decide, by decide,
    by decide, by decide⟩,
   ⟨has (opened up [Reg.PCV.page 2]) [(Reg.PCV.STAT_STATE 2, 2)], 1, 2, by unfold WritePasses; decide, by decide⟩,
   ⟨has (opened up [Reg.PCV.page 2]) [(Reg.PCV.STAT_STATE 2, 2), (Reg.PCV.CTL_CAL_PER_S 2, 1)], 2, by decide,
    by decide, by decide⟩,
   ⟨has (opened up [Reg.PCV.page 2]) [(Reg.PCV.STAT_STATE 2, 2), (Reg.PCV.STAT_CAL_PEND 2, 1)], 2, by decide,
    by decide⟩,
   ⟨has (opened up [Reg.PCV.page 2]) [(Reg.PCV.STAT_STATE 2, 1)], 2, [(3, -4)], by decide, by decide⟩,
   ⟨(has (opened up [Reg.PCV.page 2]) [(Reg.PCV.STAT_STATE 2, 2)]).onPcv 2 fun p =>
    { p with conv := some ⟨.entry, 0, 0, 0⟩ }, 2, ⟨.entry, 0, 0, 0⟩, by decide, by decide⟩,
   ⟨{ has (opened up [Reg.PCV.page 2, Reg.PCV.page 3]) [(Reg.PCV.STAT_STATE 2, 2), (Reg.PCV.STAT_STATE 3, 2)] with seq := { up.seq with referee := [1] } },
    1, [], [], [], [5], by decide, by decide, by decide, by decide, by decide⟩⟩

/-- The hypotheses of each clause of `Obligations.RingsAndAccumulatorsComplete` are met. -/
theorem test_hypotheses_rings_and_accumulators_complete :
    (∃ (s : State) (bads : Fin 5) (x : Res) (rest : List Res), s.ringQ = x :: rest ∧ blockRuns s Reg.RING.page =
      true ∧ x.dest < 16 ∧ rd s (Reg.RING.RCTL_EN x.dest) ≠ 0 ∧ rd s (Reg.RING.RSTAT_BAD x.dest) = 0) ∧
    (∃ (s : State) (m r : Fin 16) (v : Word32), WritePasses s m Reg.RING.page (272 + 32 * r) v.toNat) ∧
    (∃ (s : State) (w : Win), s.accu.win = some w ∧ blockRuns s Reg.ACCU.page = true ∧ 36 * w.fin ≤ s.time.units) ∧
    (∃ (s : State) (w : Win) (fl : Nat) (v : Vector AccuRec 64) (rest : List (Win × Nat × Vector AccuRec 64)),
      s.accu.ended = (w, fl, v) :: rest ∧ blockRuns s Reg.ACCU.page = true) :=
  ⟨⟨has { opened up [Reg.RING.page] with ringQ := [oneRes] } [(Reg.RING.RCTL_EN 15, 1)], 0, oneRes, [], by decide,
    by decide, by decide, by decide, by decide⟩,
   ⟨opened up [Reg.RING.page], 1, 15, 0, by unfold WritePasses; decide⟩,
   ⟨{ opened up [Reg.ACCU.page] with accu := { up.accu with win := some ⟨0, 0, true⟩ } }, ⟨0, 0, true⟩, by decide,
    by decide, by decide⟩,
   ⟨{ opened up [Reg.ACCU.page] with accu := { up.accu with ended := [(⟨0, 5, true⟩, 1, Vector.replicate 64 AccuRec.zero)] } },
    ⟨0, 5, true⟩, 1, Vector.replicate 64 AccuRec.zero, [], by decide, by decide⟩⟩

/-- The hypotheses of each clause of `Obligations.FilterCompletes` are met. -/
theorem test_hypotheses_filter_completes :
    (∃ (s : State) (n : Fin 48) (bads : Fin 5) (r : Res) (rest : List Res), (s.filt n).inQ = r :: rest ∧ blockRuns s
      (Reg.FILT.page n) = true ∧ rd s (Reg.FILT.STAT_STATE n) ≠ 0 ∧ (s.filt n).anneal = .none) ∧
    (∃ (s : State) (m : Fin 16) (n : Fin 48), WritePasses s m (Reg.FILT.page n) 156 1) ∧
    (∃ (s : State) (n : Fin 48) (bads : List (Fin 5)) (a : Nat), (s.filt n).load = some a ∧ (s.filt n).pend = none ∧
      blockRuns s (Reg.FILT.page n) = true ∧ dmaLinesHeld s 13 a 17 = false) ∧
    (∃ (s : State) (m : Fin 16) (n : Fin 48), WritePasses s m (Reg.FILT.page n) 156 4) ∧
    (∃ (s : State) (m : Fin 16) (n : Fin 48), WritePasses s m (Reg.FILT.page n) 156 2 ∧ (s.filt n).par.state ≤ 2 ∧
      (s.filt n).trigAt.map (·.1) ≠ some s.time.cycle) ∧
    (∃ (s : State) (n : Fin 48) (bads : Fin 5) (rcd : List Nat) (rest : List (List Nat)), (s.filt n).outQ = rcd ::
      rest ∧ rd s (Reg.FILT.STAT_OUT_BAD n) = 0 ∧ blockRuns s (Reg.FILT.page n) = true) ∧
    (∃ (s : State) (m : Fin 16) (n : Fin 48) (v : Word32), WritePasses s m (Reg.FILT.page n) 200 v.toNat) ∧
    (∃ (s : State) (m : Fin 16) (n : Fin 48) (v : Word32), WritePasses s m (Reg.FILT.page n) 236 v.toNat) :=
  ⟨⟨(has (opened up [Reg.FILT.page 47]) [(Reg.FILT.STAT_STATE 47, 2)]).onFilt 47 fun f => { f with inQ := [oneRes] },
    47, 0, oneRes, [], by decide, by decide, by decide, by decide⟩,
   ⟨opened up [Reg.FILT.page 47], 1, 47, by unfold WritePasses; decide⟩,
   ⟨(opened up [Reg.FILT.page 47]).onFilt 47 fun f => { f with load := some 0x1000000000 }, 47, List.replicate 17 0,
    0x1000000000, by decide, by decide, by decide, by decide⟩,
   ⟨opened up [Reg.FILT.page 47], 1, 47, by unfold WritePasses; decide⟩,
   ⟨(opened up [Reg.FILT.page 47]).onFilt 47 fun f => { f with par := { f.par with state := 1 } }, 1, 47,
    by unfold WritePasses; decide, by decide, by decide⟩,
   ⟨(opened up [Reg.FILT.page 47]).onFilt 47 fun f => { f with outQ := [[1, 2]] }, 47, 0, [1, 2], [], by decide,
    by decide, by decide⟩,
   ⟨opened up [Reg.FILT.page 47], 1, 47, 0, by unfold WritePasses; decide⟩,
   ⟨opened up [Reg.FILT.page 47], 1, 47, 0, by unfold WritePasses; decide⟩⟩

/-- The hypotheses of each clause of `Obligations.SoftOutputCompletes` are met. -/
theorem test_hypotheses_soft_output_completes :
    (∃ (s : State) (r : PortRun), rd s (Reg.SOFT.STAT_STATE r.port) = 1 ∧ rd s (Reg.SOFT.STAT_SQ_IN r.port) = 0 ∧ rd
      s (Reg.EQ.STAT_STATE r.port) = 5 ∧ softRuns s r.port = true ∧ blockRuns s (Reg.EQ.page r.port) = true ∧
      runSyms s r ≠ [] ∧ (∀ y ∈ runSyms s r, y.sq = false)) ∧
    (∃ (s : State) (r : PortRun), rd s (Reg.SOFT.STAT_STATE r.port) = 2 ∧ softRuns s r.port = true ∧ (nextSyms
      (fedBy s r) r.port).length = 512) ∧
    (∃ (s : State) (p : Fin 16), rd s (Reg.SOFT.STAT_STATE p) = 1 ∧ softRuns s p = true) ∧
    (∃ (s : State) (p : Fin 16), rd s (Reg.SOFT.STAT_STATE p) ≠ 0 ∧ rd s (Reg.PORT.SQ_NOW_CAUSE p) ≠ 0 ∧ softRuns s
      p = true) ∧
    (∃ (s : State) (p : Fin 16) (up : Nat), rd s (Reg.SOFT.STAT_STATE p) ≠ 0 ∧ rd s (Reg.EQ.STAT_STATE p) ≠ 0 ∧
      softRuns s p = true) :=
  ⟨⟨has (opened herds [Reg.EQ.page 15]) [(Reg.SOFT.STAT_STATE 15, 1), (Reg.HERD.STAT_L_ACTIVE 15, 18),
    (Reg.EQ.STAT_STATE 15, 5)], ⟨15, oneCycle⟩, by decide, by decide, by decide, by decide, by decide, by decide,
    by decide⟩,
   ⟨(has herds [(Reg.SOFT.STAT_STATE 15, 2), (Reg.HERD.STAT_STATE 15, 4)]).onSoft 15 fun t =>
    { t with syms := List.replicate 512 ⟨(1, -1), (2, 3), none, false, false⟩ }, ⟨15, noRun⟩, by decide, by decide,
    by decide⟩,
   ⟨has herds [(Reg.SOFT.STAT_STATE 15, 1), (Reg.HERD.STAT_STATE 15, 4)], 15, by decide, by decide⟩,
   ⟨has herds [(Reg.SOFT.STAT_STATE 15, 2), (Reg.PORT.SQ_NOW_CAUSE 15, 4)], 15, by decide, by decide, by decide⟩,
   ⟨has herds [(Reg.SOFT.STAT_STATE 15, 2), (Reg.EQ.STAT_STATE 15, 2)], 15, 0, by decide, by decide, by decide⟩⟩

/-- The hypotheses of each clause of `Obligations.TrainingCompletes` are met. -/
theorem test_hypotheses_training_completes :
    (∃ (s : State) (h : Fin 17) (j : Fin 4), herdRuns s h = true ∧ rd s Reg.CLK.ROOT_STAT_STATE ≠ 3 ∧ j.val < nRx h
      ∧ herdState s h ≠ 0 ∧ rxRole s h j ≠ 4 ∧ rxRole s h j ≠ 0) ∧
    (∃ (s : State) (h : Fin 17) (j : Fin 4) (hdr w : Word64) (gap : Bool), trainHeard s h j gap 0 hdr.toNat w.toNat
      = true ∧ bit w.toNat 5 = false ∧ bits w.toNat 0 5 < nTx h ∧ herdState s h = 2 ∧ txRole s h (bits w.toNat 0 5)
      = 1 ∧ bit w.toNat 19 = false ∧ vget (s.herd h).resp none (bits w.toNat 0 5) = none) ∧
    (∃ (s : State) (h : Fin 17) (j : Fin 4) (hdr w : Word64) (gap : Bool), trainHeard s h j gap 0 hdr.toNat w.toNat
      = true ∧ bit w.toNat 5 = false ∧ bits w.toNat 0 5 < nTx h ∧ herdState s h = 4 ∧ (txRole s h (bits w.toNat 0 5)
      = 2 ∨ txRole s h (bits w.toNat 0 5) = 3) ∧ bit w.toNat 19 = false) ∧
    (∃ (s : State) (h : Fin 17) (j : Fin 4) (hdr w : Word64) (gap : Bool), trainHeard s h j gap 2 hdr.toNat w.toNat
      = true ∧ herdState s h = 4 ∧ bits w.toNat 8 3 ≠ 4) ∧
    (∃ (s : State) (h : Fin 17) (j : Fin 4) (hdr w : Word64) (gap : Bool), trainHeard s h j gap 2 hdr.toNat w.toNat
      = true ∧ herdState s h = 3 ∧ bit w.toNat 11 = true ∧ rxRole s h j = 2 ∧ (s.herd h).deskewed = true) ∧
    (∃ (s : State) (h : Fin 17) (j : Fin 4) (hdr w : Word64) (gap : Bool), trainHeard s h j gap 3 hdr.toNat w.toNat
      = true ∧ rxRole s h j = 1) ∧
    (∃ (s : State) (h : Fin 17), herdRuns s h = true ∧ herdState s h = 2) ∧
    (∃ (s : State) (h : Fin 17), herdRuns s h = true ∧ herdState s h = 3) ∧
    (∃ (s : State) (h : Fin 17), herdRuns s h = true ∧ herdState s h = 1 ∧ (List.range (nRx h)).all (fun j => !rdb s
      (Reg.HERD.LANE_RX_BLK h j)) = true) ∧
    (∃ (s : State) (h : Fin 17), herdRuns s h = true ∧ (herdState s h = 2 ∨ herdState s h = 3)) ∧
    (∃ (s : State) (h : Fin 17) (blocks : List RxBlock), herdRuns s h = true ∧ herdState s h = 3 ∧ deskews (s.herd
      h).rxMap blocks = true) ∧
    (∃ (s : State) (m : Fin 16) (h : Fin 17), WritePasses s m (Reg.HERD.page h) 76 1 ∧ herdState s h = 4) :=
  ⟨⟨has herds [(Reg.HERD.STAT_STATE 16, 1), (Reg.HERD.LANE_RX_ROLE 16 3, 1)], 16, 3, by decide, by decide, by decide,
    by decide, by decide, by decide⟩,
   ⟨has herds [(Reg.HERD.STAT_STATE 0, 2), (Reg.HERD.LANE_RX_ROLE 0 1, 1), (Reg.HERD.LANE_RX_BLK 0 1, 1),
    (Reg.HERD.LANE_TX_ROLE 0 18, 1)], 0, 1, trainHdr (BitVec.ofNat 64 (18 + 2 * 2 ^ 16 + 5 * 2 ^ 24)), BitVec.ofNat
    64 (18 + 2 * 2 ^ 16 + 5 * 2 ^ 24), false, by decide, by decide, by decide, by decide, by decide, by decide,
    by decide⟩,
   ⟨has herds [(Reg.HERD.STAT_STATE 0, 4), (Reg.HERD.LANE_RX_ROLE 0 1, 1), (Reg.HERD.LANE_RX_BLK 0 1, 1),
    (Reg.HERD.LANE_TX_ROLE 0 18, 3)], 0, 1, trainHdr (BitVec.ofNat 64 (18 + 2 ^ 16)), BitVec.ofNat 64 (18 + 2 ^ 16),
    false, by decide, by decide, by decide, by decide, by decide, by decide⟩,
   ⟨has herds [(Reg.HERD.STAT_STATE 0, 4), (Reg.HERD.LANE_RX_ROLE 0 1, 2), (Reg.HERD.LANE_RX_BLK 0 1, 1)], 0, 1,
    trainHdr (BitVec.ofNat 64 (2 * 2 ^ 6 + 3 * 2 ^ 8)), BitVec.ofNat 64 (2 * 2 ^ 6 + 3 * 2 ^ 8), false, by decide,
    by decide, by decide⟩,
   ⟨(has herds [(Reg.HERD.STAT_STATE 0, 3), (Reg.HERD.LANE_RX_ROLE 0 1, 2), (Reg.HERD.LANE_RX_BLK 0 1, 1)]).onHerd 0
    fun x => { x with deskewed := true }, 0, 1, trainHdr (BitVec.ofNat 64 (2 * 2 ^ 6 + 3 * 2 ^ 8 + 2 ^ 11)),
    BitVec.ofNat 64 (2 * 2 ^ 6 + 3 * 2 ^ 8 + 2 ^ 11), false, by decide, by decide, by decide, by decide, by decide⟩,
   ⟨has herds [(Reg.HERD.STAT_STATE 0, 2), (Reg.HERD.LANE_RX_ROLE 0 1, 1), (Reg.HERD.LANE_RX_BLK 0 1, 1)], 0, 1,
    trainHdr (BitVec.ofNat 64 (3 * 2 ^ 6)), BitVec.ofNat 64 (3 * 2 ^ 6), false, by decide, by decide⟩,
   ⟨has herds [(Reg.HERD.STAT_STATE 16, 2)], 16, by decide, by decide⟩,
   ⟨has herds [(Reg.HERD.STAT_STATE 16, 3)], 16, by decide, by decide⟩,
   ⟨has herds [(Reg.HERD.STAT_STATE 16, 1)], 16, by decide, by decide, by decide⟩,
   ⟨has herds [(Reg.HERD.STAT_STATE 16, 3)], 16, by decide, by decide⟩,
   ⟨(has herds [(Reg.HERD.STAT_STATE 16, 3)]).onHerd 16 fun x => { x with aligned := true }, 16, oneMarkerEach,
    by decide, by decide, by decide⟩,
   ⟨has (opened up [Reg.HERD.page 16]) [(Reg.HERD.STAT_STATE 16, 4)], 1, 16, by unfold WritePasses; decide,
    by decide⟩⟩

/-- The hypotheses of each clause of `Obligations.LanesComplete` are met. -/
theorem test_hypotheses_lanes_complete :
    (∃ (s : State) (h : Fin 17) (lanes : Nat), herdRuns s h = true ∧ rxOf s h lanes ≠ []) ∧
    (∃ (s : State) (h : Fin 17) (j : Fin 4), herdRuns s h = true ∧ j.val < nRx h ∧ herdState s h ≠ 0) ∧
    (∃ (s : State) (h : Fin 17) (lanes : Nat) (cdr : Bool), herdRuns s h = true ∧ rxOf s h lanes ≠ []) ∧
    (∃ (s : State) (h : Fin 17) (j : Fin 4) (levels : List Nat) (blocks : List RxBlock), herdRuns s h = true ∧ j.val
      < nRx h ∧ rd s (Reg.HERD.LANE_RX_BLK h j) ≠ 0) ∧
    (∃ (s : State) (h : Fin 17) (j : Fin 4) (e0 e1 e2 : EyeScan), herdRuns s h = true ∧ scanLane s h = some j.val ∧
      rd s (Reg.HERD.CTL_SCAN_EN h) ≠ 0) ∧
    (∃ (s : State) (h : Fin 17) (lanes : Nat) (i : Fin 19), herdRuns s h = true ∧ herdState s h ≠ 0 ∧ i.val < nTx h
      ∧ bit lanes i = true ∧ txRole s h i ≠ 0 ∧ txRole s h i ≠ 4) ∧
    (∃ (s : State) (h : Fin 17), herdRuns s h = true ∧ herdState s h = 4 ∧ inFailover s h = true ∧ (s.herd h).lateTx
      = [] ∧ (s.herd h).lateRx = []) ∧
    (∃ (s : State) (m : Fin 16) (h : Fin 17) (lane : Fin 32), WritePasses s m (Reg.HERD.page h) 76 (2 + lane * 256)
      ∧ herdState s h = 4 ∧ lane.val < nTx h ∧ txRole s h lane = 4) ∧
    (∃ (s : State) (m : Fin 16) (h : Fin 17) (lane : Fin 32), WritePasses s m (Reg.HERD.page h) 76 (2 + lane * 256 +
      8192) ∧ herdState s h = 4 ∧ lane.val < nRx h ∧ rxRole s h lane = 4) ∧
    (∃ (s : State) (h : Fin 17) (lane : Fin 19), herdRuns s h = true ∧ (s.herd h).testTx.contains lane.val = true) ∧
    (∃ (s : State) (h : Fin 17) (lane : Fin 19), herdRuns s h = true ∧ (s.herd h).testRx.contains lane.val = true) :=
  ⟨⟨has herds [(Reg.HERD.LANE_RX_ROLE 16 3, 2), (Reg.HERD.LANE_RX_SIG 16 3, 1)], 16, 8, by decide, by decide⟩,
   ⟨has herds [(Reg.HERD.STAT_STATE 16, 1)], 16, 3, by decide, by decide, by decide⟩,
   ⟨has herds [(Reg.HERD.LANE_RX_ROLE 16 3, 2), (Reg.HERD.LANE_RX_BLK 16 3, 1)], 16, 8, true, by decide, by decide⟩,
   ⟨has herds [(Reg.HERD.LANE_RX_BLK 16 3, 1)], 16, 3, [0, 0, 0, 65536], [⟨0, 0, 0⟩, ⟨2, 0x1E, 1⟩], by decide,
    by decide, by decide⟩,
   ⟨has herds [(Reg.HERD.LANE_RX_BLK 16 3, 1), (Reg.HERD.CTL_SCAN_EN 16, 1)], 16, 3, ⟨[1, 2, 900], [3], [4], []⟩,
    ⟨[], [], [], []⟩, ⟨[5], [6], [7], [8]⟩, by decide, by decide, by decide⟩,
   ⟨has herds [(Reg.HERD.STAT_STATE 0, 2), (Reg.HERD.LANE_TX_ROLE 0 18, 1)], 0, 262144, 18, by decide, by decide,
    by decide, by decide, by decide, by decide⟩,
   ⟨(has herds [(Reg.HERD.STAT_STATE 0, 4)]).onHerd 0 fun x => { x with newTx := some [0, 1, 2] }, 0, by decide,
    by decide, by decide, by decide, by decide⟩,
   ⟨has (opened up [Reg.HERD.page 0]) [(Reg.HERD.STAT_STATE 0, 4), (Reg.HERD.LANE_TX_ROLE 0 18, 4)], 1, 0, 18,
    by unfold WritePasses; decide, by decide, by decide, by decide⟩,
   ⟨has (opened up [Reg.HERD.page 0]) [(Reg.HERD.STAT_STATE 0, 4), (Reg.HERD.LANE_RX_ROLE 0 1, 4)], 1, 0, 1,
    by unfold WritePasses; decide, by decide, by decide, by decide⟩,
   ⟨(has herds [(Reg.HERD.LANE_TX_ROLE 0 18, 1)]).onHerd 0 fun x => { x with testTx := [18] }, 0, 18, by decide,
    by decide⟩,
   ⟨(has herds [(Reg.HERD.LANE_RX_ROLE 0 1, 1)]).onHerd 0 fun x => { x with testRx := [1] }, 0, 1, by decide,
    by decide⟩⟩

/-- The hypotheses of each clause of `Obligations.MessagesComplete` are met. -/
theorem test_hypotheses_messages_complete :
    (∃ (s : State) (h : Fin 17) (gap : Bool) (hdr w1 : Word64) (more : List Word64) (bads : Fin 5), arrives s h gap
      1 hdr.toNat w1.toNat = true ∧ (s.ses (hSlot hdr.toNat)).backlog = [] ∧ (s.ses (hSlot hdr.toNat)).out = [] ∧
      respWaiting s h (hSlot hdr.toNat) < 16) ∧
    (∃ (s : State) (h : Fin 17) (gap : Bool) (hdr w1 : Word64) (more : List Word64) (tag : List Byte) (bads : Fin
      5), arrives s h gap 1 hdr.toNat w1.toNat = true ∧ tag ≠ gcmTag s h hdr.toNat (w1.toNat :: more.map
      BitVec.toNat)) ∧
    (∃ (s : State) (h : Fin 17) (gap : Bool) (hdr w1 : Word64) (data : List Word64) (bads : Fin 5), arrives s h gap
      2 hdr.toNat w1.toNat = true) ∧
    (∃ (s : State) (h : Fin 17) (gap : Bool) (hdr w1 : Word64) (more : List Word64) (tag : List Byte) (bads : Fin
      5), linkHears s h false = true ∧ (gap = true ∨ (s.link h).seek = false) ∧ headerOk hdr.toNat w1.toNat = false) ∧
    (∃ (s : State) (h : Fin 17) (gap : Bool) (hdr w1 : Word64), heardOf s h gap true 7 hdr.toNat w1.toNat = true) ∧
    (∃ (s : State) (h : Fin 17) (gap : Bool) (hdr w1 : Word64) (more : List Word64), arrives s h gap 6 hdr.toNat
      w1.toNat = true ∧ w1.toNat % 256 = 2) ∧
    (∃ (s : State) (k : Fin 8) (n : Fin 16) (bads : Fin 5) (q : SesReq) (rest : List SesReq) (c : Completion), pick
      n (s.ses k).out = some (q, rest) ∧ ((∀ p ∈ (s.ses k).out, p.compl.isSome = true → q.rank ≤ p.rank)) ∧ q.compl
      = some c ∧ (s.ses k).backlog = [] ∧ sesHerd s k < 17 ∧ respWaiting s (sesHerd s k) k < 16) ∧
    (∃ (s : State) (k : Fin 8) (n : Notice) (rest : List Notice) (q : Nat), vget s.evt.notices [] k = n :: rest ∧
      n.logSeq = some q ∧ sesUp s k = true ∧ sesHerd s k < 17 ∧ sendsNow s k (eventBody k n q (vget s.evt.dropSince
      0 k)) = true) ∧
    (∃ (s : State) (k : Fin 8) (p : Nat) (ws : List Nat) (rest : List (Nat × List Nat)), (s.ses k).reports = (p, ws)
      :: rest ∧ sesUp s k = true ∧ sesHerd s k < 17 ∧ sendsNow s k ⟨6, k, true, (1 + p * 2 ^ 8) :: ws⟩ = true) ∧
    (∃ (s : State) (h : Fin 17), herdCredits s h = true ∧ txHolds s h = false) ∧
    (∃ (s : State) (h : Fin 17), (s.link h).buf ≠ [] ∧ herdUp s h = true) :=
  ⟨⟨inSession, 16, false, wd0 1 5 0x70000000000, 0x70000000000, [9], 0, by decide, by decide, by decide, by decide⟩,
   ⟨inSession, 16, false, wd0 1 4 0x70000000000, 0x70000000000, [], [], 0, by decide, by decide +kernel⟩,
   ⟨inSession, 16, false, wd0 2 5 0x70000000000, 0x70000000000, [0], 0, by decide⟩,
   ⟨inSession, 16, false, 0x80, 0, [], [], 0, by decide, by decide, by decide⟩,
   ⟨inSession, 16, true, BitVec.ofNat 64 (word0 7 2 false 0 false 0 0x500000), 0x500000, by decide⟩,
   ⟨inSession, 16, false, wd0 6 4 2, 2, [], by decide, by decide⟩,
   ⟨inSession.onSes 7 fun x => { x with out := [⟨5, rq 11 0x8000000, false, 0, some ⟨.ok, [1, 2, 3, 4]⟩, 1⟩] }, 7,
    0, 0, ⟨5, rq 11 0x8000000, false, 0, some ⟨.ok, [1, 2, 3, 4]⟩, 1⟩, [], ⟨.ok, [1, 2, 3, 4]⟩, by decide,
    by decide, by decide, by decide, by decide, by decide⟩,
   ⟨{ inSession with evt := { up.evt with notices := vset up.evt.notices 7 [⟨1, 0, 0, 0, 0, 0, some 3⟩] } }, 7, ⟨1,
    0, 0, 0, 0, 0, some 3⟩, [], 3, by decide, by decide, by decide, by decide, by decide⟩,
   ⟨inSession.onSes 7 fun x => { x with reports := [(2, [1, 2])] }, 7, 2, [1, 2], [], by decide, by decide,
    by decide, by decide⟩,
   ⟨has herds [(Reg.HERD.STAT_STATE 16, 3)], 16, by decide, by decide⟩,
   ⟨inSession.onLink 16 fun l => { l with buf := [someSent] }, 16, by decide, by decide⟩⟩

/-- The hypotheses of each clause of `Obligations.SessionsComplete` are met. -/
theorem test_hypotheses_sessions_complete :
    (∃ (s : State) (h : Fin 17) (gap : Bool) (hdr w1 : Word64) (ws auth : List Word64), arrivesPlain s h gap
      hdr.toNat w1.toNat = true ∧ w1.toNat % 256 = 1) ∧
    (∃ (s : State) (k : Fin 8), (s.ses k).exch = .signed ∧ sesHerd s k < 17) ∧
    (∃ (s : State) (h : Fin 17) (gap : Bool) (hdr w1 : Word64) (ws : List Word64), arrivesPlain s h gap hdr.toNat
      w1.toNat = true ∧ w1.toNat = 3 ∧ ws.length = 12 ∧ hLen hdr.toNat = 14 ∧ inExchange s (hSlot hdr.toNat) = true
      ∧ sesHerd s (hSlot hdr.toNat) = h ∧ (s.ses (hSlot hdr.toNat)).exch = .replied) ∧
    (∃ (s : State) (h : Fin 17) (k : Fin 8), (s.ses k).exch = .verifying ∧ sesHerd s k = h ∧ finishOk (s.ses k) =
      true) ∧
    (∃ (s : State) (h : Fin 17) (k : Fin 8), (s.ses k).exch = .verifying ∧ sesHerd s k = h ∧ finishOk (s.ses k) =
      false) ∧
    (∃ (s : State) (k : Fin 8), (s.ses k).exch = .replied) ∧
    (∃ (s : State) (h : Fin 17) (gap : Bool) (hdr w1 : Word64) (more : List Word64), arrives s h gap 8 hdr.toNat
      w1.toNat = true ∧ w1.toNat % 256 = 5) ∧
    (∃ (s : State) (k : Fin 8), sesUp s k = true) ∧
    (∃ (s : State) (m : Fin 16) (slots : BitVec 8), WritePasses s m Reg.LINK1.page 68 slots.toNat) :=
  ⟨⟨inSession, 16, false, BitVec.ofNat 64 (word0 8 32 false 6 false 0 0x601), 0x601, List.replicate 17 0,
    List.replicate 13 0, by decide, by decide⟩,
   ⟨inSession.onSes 7 fun x => { x with exch := .signed, reply := [2, 3] }, 7, by decide, by decide⟩,
   ⟨(has inSession [(Reg.LINK1.SES_STAT_STATE 6, 1), (Reg.LINK1.SES_STAT_HERD 6, 16)]).onSes 6 fun x =>
    { x with exch := .replied }, 16, true, BitVec.ofNat 64 (word0 8 14 false 6 false 0 3), 3, List.replicate 12 0,
    by decide, by decide, by decide, by decide, by decide, by decide, by decide⟩,
   ⟨finishing, 16, 7, by decide, by decide, by decide +kernel⟩,
   ⟨inSession.onSes 7 fun x => { x with exch := .verifying }, 16, 7, by decide, by decide, by decide +kernel⟩,
   ⟨inSession.onSes 7 fun x => { x with exch := .replied }, 7, by decide⟩,
   ⟨inSession, 16, false, wd0 8 2 5, 5, [], by decide, by decide⟩,
   ⟨inSession, 7, by decide⟩,
   ⟨inSession, 1, 0x80, by unfold WritePasses; decide⟩⟩

/-- The hypotheses of each clause of `Obligations.StackedMemoryCompletes` are met. -/
theorem test_hypotheses_stacked_memory_completes :
    (∃ (s : State) (m : Fin 16) (a : BitVec 40) (len : Fin 65) (fetch bad : Bool), MemPasses s 3 m a.toNat len (if
      fetch then 2 else 0) ∧ dramFree s m a.toNat = true) ∧
    (∃ (s : State) (q : Refetch) (bad : Bool), s.memc.pending = [q] ∧ q.begun = true ∧ q.req.dead = false ∧
      q.req.master < 16) ∧
    (∃ (s : State) (m : Fin 16) (a : BitVec 40) (data : List Byte) (poison : Bool), data.length = 64 ∧ MemPasses s 3
      m a.toNat 64 1 ∧ dramFree s m a.toNat = true) ∧
    (∃ (s : State) (m : Fin 16) (a : BitVec 40) (data : List Byte) (poison : Bool) (bads : Fin 5), data.length < 64
      ∧ MemPasses s 3 m a.toNat data.length 1 ∧ dramFree s m a.toNat = true) ∧
    (∃ (s : State) (bads : Fin 5), rd s Reg.MEMC.SCRUB_CTL_EN ≠ 0 ∧ s.memc.trained = true ∧ scrubWaits s (rd s
      Reg.MEMC.SCRUB_POS_LINE) = false) ∧
    (∃ (s : State) (m : Fin 16) (page : BitVec 17), WritePasses s m Reg.RETIRE.page 64 page.toNat) ∧
    (∃ (s : State) (m : Fin 16) (idx : BitVec 8), WritePasses s m Reg.MEMC.page 76 (idx.toNat + 2 ^ 8)) ∧
    (∃ (s : State) (m : Fin 16), WritePasses s m Reg.MEMC.page 76 (2 ^ 9)) :=
  ⟨⟨{ trained with mems := { up.mems with written := [(0, true)], dram := [(63, 7)] } }, 1, 0x1000000000, 64, false,
    false, by unfold MemPasses; decide, by decide⟩,
   ⟨{ trained with memc := { up.memc with pending := [⟨rq 4 0x1000000000, 3, true, none⟩] } }, ⟨rq 4 0x1000000000,
    3, true, none⟩, true, by decide, by decide, by decide, by decide⟩,
   ⟨trained, 1, 0x11FFFFFFC0, List.replicate 64 5, true, by decide, by unfold MemPasses; decide, by decide⟩,
   ⟨{ trained with mems := { up.mems with written := [(0, true)] } }, 1, 0x100000003F, [9], true, 4, by decide,
    by unfold MemPasses; decide, by decide⟩,
   ⟨has trained [(Reg.MEMC.SCRUB_CTL_EN, 1), (Reg.MEMC.SCRUB_POS_LINE, 134217727)], 4, by decide, by decide,
    by decide⟩,
   ⟨up, 1, 0x1FFFF, by unfold WritePasses; decide⟩,
   ⟨{ up with memc := { up.memc with weak := [(255, (9, 1))] } }, 1, 255, by unfold WritePasses; decide⟩,
   ⟨{ up with memc := { up.memc with weak := [(255, (9, 1))] } }, 1, by unfold WritePasses; decide⟩⟩

/-- The hypotheses of each clause of `Obligations.ManagementPortCompletes` are met. -/
theorem test_hypotheses_management_port_completes :
    (∃ (s : State), spmAnswers s = true ∧ spmSelected s = false ∧ spmInFrame s = false) ∧
    (∃ (s : State) (a : BitVec 40), spmIn s .header = true) ∧
    (∃ (s : State) (a : BitVec 40) (bads : Fin 5), spmIn s .header = true ∧ s.spm.out = none ∧ s.spm.queue = [] ∧
      s.spm.under = false ∧ fabricQuiet s = true ∧ spmAnswers s = true) ∧
    (∃ (s : State) (a : BitVec 40), spmIn s .header = true ∧ s.bus.accepting = true) ∧
    (∃ (s : State) (op : BitVec 8) (a : BitVec 40), (op.toNat = 0 ∨ 3 < op.toNat) ∧ spmIn s .header = true) ∧
    (∃ (s : State) (w : Word32) (bads : Fin 5) (x : Req × Nat × Option Completion), spmIn s .write = true ∧
      s.spm.out = some x) ∧
    (∃ (s : State) (w : Word32) (bads : Fin 5), spmIn s .write = true ∧ s.spm.out = none ∧ s.spm.queue = [] ∧
      fabricQuiet s = true ∧ spmAnswers s = true) ∧
    (∃ (s : State) (bads : Fin 5) (r : Req) (f : Nat) (c : Completion), s.spm.out = some (r, f, some c) ∧
      s.spm.queue = [] ∧ blockRuns s Reg.SPM.page = true ∧ spmIn s .read = false) ∧
    (∃ (s : State) (bads : Fin 5) (r : Req) (c : Completion), s.spm.out = some (r, s.spm.frame, some c) ∧
      s.spm.queue = [] ∧ spmIn s .read = true ∧ r.write = false ∧ s.spm.under = false ∧ fabricQuiet s = true ∧
      spmAnswers s = true) ∧
    (∃ (s : State), spmIn s .read = true ∧ s.spm.ready = false) ∧
    (∃ (s : State) (v : Nat) (rest : List Nat), spmIn s .read = true ∧ s.spm.ready = true ∧ s.spm.got = v :: rest ∧
      s.spm.under = false) ∧
    (∃ (s : State), spmIn s .read = true ∧ s.spm.ready = true ∧ s.spm.got = []) ∧
    (∃ (s : State) (nbits : Fin 48) (w : Word32) (bads : Fin 5), spmSelected s = true ∧ spmActs s = true ∧ (s.spm.op
      ≠ .write ∨ nbits.val = 0)) ∧
    (∃ (s : State) (nbits : Fin 48) (w : Word32) (bads : Fin 5) (x : Req × Nat × Option Completion), spmSelected s =
      true ∧ spmIn s .write = true ∧ nbits.val ≠ 0 ∧ s.spm.out = some x ∧ s.spm.irreg = 0 ∧ s.spm.queue.length < 16) :=
  ⟨⟨up, by decide, by decide, by decide⟩,
   ⟨inFrame .header, 0xFFFFFFFFFC, by decide⟩,
   ⟨inFrame .header, 0x8000000, 0, by decide, by decide, by decide, by decide, by decide, by decide⟩,
   ⟨inFrame .header, 0, by decide, by decide⟩,
   ⟨inFrame .header, 0, 0, by decide, by decide⟩,
   ⟨{ inFrame .write with spm := { (inFrame .write).spm with out := some (rq 3 0x8000000, 0, none) } }, 7, 0, (rq 3
    0x8000000, 0, none), by decide, by decide⟩,
   ⟨inFrame .write, 7, 0, by decide, by decide, by decide, by decide, by decide⟩,
   ⟨{ up with spm := { up.spm with out := some (rq 3 0x8000000, 0, some ⟨.errDenied, []⟩) } }, 0, rq 3 0x8000000, 0,
    ⟨.errDenied, []⟩, by decide, by decide, by decide, by decide⟩,
   ⟨{ inFrame .read with spm := { (inFrame .read).spm with out := some (rq 3 0x8000000, 0, some ⟨.ok, [1, 2, 3, 4]⟩) } },
    0, rq 3 0x8000000, ⟨.ok, [1, 2, 3, 4]⟩, by decide, by decide, by decide, by decide, by decide, by decide,
    by decide⟩,
   ⟨inFrame .read, by decide, by decide⟩,
   ⟨{ inFrame .read with spm := { (inFrame .read).spm with ready := true, got := [8] } }, 8, [], by decide,
    by decide, by decide, by decide⟩,
   ⟨{ inFrame .read with spm := { (inFrame .read).spm with ready := true } }, by decide, by decide, by decide⟩,
   ⟨inFrame .header, 47, 0, 0, by decide, by decide, by decide⟩,
   ⟨{ inFrame .write with spm := { (inFrame .write).spm with out := some (rq 3 0x8000000, 0, none) } }, 31, 7, 0,
    (rq 3 0x8000000, 0, none), by decide, by decide, by decide, by decide, by decide, by decide⟩⟩

/-- The hypotheses of each clause of `Obligations.FlashPortCompletes` are met. -/
theorem test_hypotheses_flash_port_completes :
    (∃ (s : State) (m : Fin 16) (a : BitVec 40) (len : Fin 65) (fetch : Bool), MemPasses s 2 m a.toNat len (if fetch
      then 2 else 0) ∧ spfIdle s = true ∧ cacheHit s (mkReq m a.toNat false fetch len [] false 0) = none) ∧
    (∃ (s : State) (m : Fin 16) (a : BitVec 40) (len : Fin 65) (fetch : Bool), MemPasses s 2 m a.toNat len (if fetch
      then 2 else 0) ∧ s.spf.op.isSome = true ∧ s.spf.queue = [] ∧ s.spf.work = [] ∧ cacheHit s (mkReq m a.toNat
      false fetch len [] false 0) = none) ∧
    (∃ (s : State) (m : Fin 16) (a : BitVec 40) (len : Fin 65) (fetch : Bool) (d : List Byte), fabricQuiet s = true
      ∧ masterIssues s (mkReq m a.toNat false fetch len [] false 0) = true ∧ 0 < len.val ∧ a.toNat % 64 + len ≤ 64 ∧
      cacheHit s (mkReq m a.toNat false fetch len [] false 0) = some d) ∧
    (∃ (s : State) (r : Req), s.spf.work = [.window r] ∧ r.write = false ∧ r.dead = false ∧ r.master < 16 ∧ spfTurn
      s r.master = true ∧ s.spf.queue = []) ∧
    (∃ (s : State) (m : Fin 16) (a : BitVec 40) (data : List Byte) (poison : Bool), MemPasses s 2 m a.toNat
      data.length 1 ∧ spfIdle s = true) ∧
    (∃ (s : State) (r : Req), s.spf.work = [.window r] ∧ r.write = true ∧ r.dead = false ∧ r.master < 16 ∧ spfTurn s
      r.master = true ∧ fenceClosed s = true ∧ s.spf.queue = []) ∧
    (∃ (s : State) (r : Req) (o : FlashOp) (worn : Option (List Byte)), spfOp s = some o ∧ o.kind = .program r ∧
      o.stuck = false ∧ o.dec ≠ .abandon ∧ r.data.length = r.size ∧ r.dead = false ∧ r.master < 16 ∧ s.spf.work = []
      ∧ s.spf.queue = []) ∧
    (∃ (s : State) (off size : Nat) (o : FlashOp) (worn : Option (List Byte)), spfOp s = some o ∧ o.kind = .erase
      off size ∧ o.stuck = false ∧ o.dec ≠ .abandon ∧ s.spf.work = [] ∧ s.spf.queue = []) ∧
    (∃ (s : State) (o : FlashOp) (worn : Option (List Byte)), s.spf.op = some o) ∧
    (∃ (s : State) (o : FlashOp), spfOp s = some o ∧ o.stuck = false ∧ o.dec ≠ .abandon) ∧
    (∃ (s : State) (o : FlashOp), spfOp s = some o ∧ o.stuck = true ∧ s.spf.work = [] ∧ s.spf.queue = []) ∧
    (∃ (s : State) (m : Fin 16) (off : BitVec 26) (e : Fin 4), WritePasses s m Reg.SPF.page 72 (off.toNat + e * 2 ^
      26) ∧ spfIdle s = true) ∧
    (∃ (s : State) (m : Fin 16) (w : Word32), WritePasses s m Reg.SPF.page 76 w.toNat ∧ s.spf.op.isSome = true ∧
      s.spf.inSeq = false) ∧
    (∃ (s : State) (m : Fin 16) (w : Word32), WritePasses s m Reg.SPF.page 80 w.toNat ∧ s.spf.op.isSome = true ∧
      s.spf.inSeq = false) ∧
    (∃ (s : State) (m : Fin 16), ReadPasses s m Reg.SPF.page 84 ∧ s.spf.op.isSome = true ∧ s.spf.inSeq = false) ∧
    (∃ (s : State) (got : List Word32) (e : QEntry), blockRuns s Reg.SPF.page = true ∧ s.spf.inSeq = true ∧
      s.spf.queue = [e] ∧ e.inward = true ∧ e.cont = false ∧ e.count = got.length ∧ s.spf.feed = none ∧
      s.spf.rx.length + got.length ≤ 64 ∧ s.spf.work = []) :=
  ⟨⟨up, 1, 0x20000000, 64, false, by unfold MemPasses; decide, by decide, by decide⟩,
   ⟨{ up with spf := { up.spf with op := some ⟨.erase 0 4096, 0, .none, false⟩ } }, 1, 0x20000000, 64, true,
    by unfold MemPasses; decide, by decide, by decide, by decide, by decide⟩,
   ⟨up.onCore 0 fun c => { c with icache := [(0x800000, [1, 2, 3, 4, 5])] }, 1, 0x20000001, 3, true, [2, 3, 4],
    by decide, by decide, by decide, by decide, by decide⟩,
   ⟨{ up with spf := { up.spf with op := some ⟨.erase 0 4096, 0, .none, false⟩, work := [.window (rq 1 0x20000000)] } },
    rq 1 0x20000000, by decide, by decide, by decide, by decide, by decide, by decide⟩,
   ⟨has up [(Reg.SPF.STAT_MODE, 1), (Reg.PWR.FENCE_STAT_CLOSED, 0)], 1, 0x23FFFFFF, [5], false,
    by unfold MemPasses; decide, by decide⟩,
   ⟨has { up with spf := { up.spf with work := [.window { rq 1 0x20000000 with write := true }] } }
    [(Reg.PWR.FENCE_STAT_CLOSED, 1)], { rq 1 0x20000000 with write := true }, by decide, by decide, by decide,
    by decide, by decide, by decide, by decide⟩,
   ⟨{ up with spf := { up.spf with op := some ⟨.program { rq 1 0x20000000 with write := true, data := [1, 2, 3, 4] }, 0, .none, false⟩ } },
    { rq 1 0x20000000 with write := true, data := [1, 2, 3, 4] }, ⟨.program
    { rq 1 0x20000000 with write := true, data := [1, 2, 3, 4] }, 0, .none, false⟩, none, by decide, by decide,
    by decide, by decide, by decide, by decide, by decide, by decide, by decide⟩,
   ⟨{ up with spf := { up.spf with op := some ⟨.erase 0 4096, 0, .none, false⟩ } }, 0, 4096, ⟨.erase 0 4096, 0,
    .none, false⟩, none, by decide, by decide, by decide, by decide, by decide, by decide⟩,
   ⟨{ up with spf := { up.spf with op := some ⟨.erase 0 4096, 0, .none, false⟩ } }, ⟨.erase 0 4096, 0, .none,
    false⟩, none, by decide⟩,
   ⟨{ up with spf := { up.spf with op := some ⟨.erase 0 64, 0, .none, false⟩ } }, ⟨.erase 0 64, 0, .none, false⟩,
    by decide, by decide, by decide⟩,
   ⟨{ up with spf := { up.spf with op := some ⟨.erase 0 4096, 0, .none, true⟩ } }, ⟨.erase 0 4096, 0, .none, true⟩,
    by decide, by decide, by decide, by decide⟩,
   ⟨has (opened up [Reg.SPF.page]) [(Reg.SPF.STAT_MODE, 1), (Reg.SPF.GEOM_E1_LOG2, 12), (Reg.PWR.FENCE_STAT_CLOSED,
    0)], 1, 0x3FFF000, 0, by unfold WritePasses; decide, by decide⟩,
   ⟨{ opened up [Reg.SPF.page] with spf := { up.spf with op := some ⟨.erase 0 4096, 0, .none, false⟩ } }, 1, 0,
    by unfold WritePasses; decide, by decide, by decide⟩,
   ⟨{ opened up [Reg.SPF.page] with spf := { up.spf with op := some ⟨.erase 0 4096, 0, .none, false⟩ } }, 1, 0,
    by unfold WritePasses; decide, by decide, by decide⟩,
   ⟨{ opened up [Reg.SPF.page] with spf := { up.spf with op := some ⟨.erase 0 4096, 0, .none, false⟩ } }, 1,
    by unfold ReadPasses; decide, by decide, by decide⟩,
   ⟨{ up with spf := { up.spf with inSeq := true, queue := [⟨8, 2, true, false, false, false, 0, false⟩] } }, [1,
    0x102], ⟨8, 2, true, false, false, false, 0, false⟩, by decide, by decide, by decide, by decide, by decide,
    by decide, by decide, by decide, by decide⟩⟩

/-- The hypotheses of each clause of `Obligations.SecurityCompletes` are met. -/
theorem test_hypotheses_security_completes :
    (∃ (s : State) (m : Fin 16) (r : BitVec 8), WritePasses s m Reg.OTP.page 64 (r.toNat + 2 ^ 8)) ∧
    (∃ (s : State) (o : OtpOp), s.otp.op = some o ∧ o.dec ≠ .abandon) ∧
    (∃ (s : State) (g : Nat) (sc : List Nat), s.otp.op = none ∧ s.sec.drawn = some (g, sc) ∧ s.sec.provDec ≠
      .abandon) ∧
    (∃ (s : State) (m : Fin 16), WritePasses s m Reg.SEC.page 64 1) ∧
    (∃ (s : State) (sc : List Word32), s.sec.prov = true ∧ s.sec.drawn = none ∧ s.sec.provDec ≠ .abandon ∧ scalarOk
      (sc.map BitVec.toNat) = true) ∧
    (∃ (s : State) (m : Fin 16), WritePasses s m Reg.SEC.page 64 2) ∧
    (∃ (s : State) (k : Fin 8) (c : Nat), s.sec.making = some (.reply k, c) ∧ (s.ses k).exch = .signing) ∧
    (∃ (s : State) (d : List Byte) (c : Nat), s.sec.making = some (.command, c) ∧ s.sec.sign = some d) :=
  ⟨⟨has up [(Reg.DEV.IMG_SECVER, 3), (Reg.PWR.FENCE_STAT_CLOSED, 0)], 1, 7, by unfold WritePasses; decide⟩,
   ⟨{ up with otp := { up.otp with op := some ⟨7, 3, List.replicate 24 1, 0, .none⟩ } }, ⟨7, 3, List.replicate 24 1,
    0, .none⟩, by decide, by decide⟩,
   ⟨{ up with sec := { up.sec with prov := true, drawn := some (3, List.replicate 12 1) } }, 3, List.replicate 12 1,
    by decide, by decide, by decide⟩,
   ⟨up, 1, by unfold WritePasses; decide⟩,
   ⟨{ up with sec := { up.sec with prov := true } }, List.replicate 12 1, by decide, by decide, by decide,
    by decide⟩,
   ⟨up, 1, by unfold WritePasses; decide⟩,
   ⟨{ up.onSes 7 (fun x => { x with exch := .signing }) with sec := { up.sec with key := some [1], making := some (.reply 7, 5) } },
    7, 5, by decide, by decide⟩,
   ⟨{ up with sec := { up.sec with key := some [1], sign := some [], making := some (.command, 5) } }, [], 5,
    by decide, by decide⟩⟩

/-- The hypotheses of each clause of `Obligations.CorePairsComplete` are met. -/
theorem test_hypotheses_core_pairs_complete :
    (∃ (s : State) (n : Fin 2), rd s (Reg.CORE.STAT_STATE n) = 1) ∧
    (∃ (s : State) (n : Fin 2), rd s (Reg.CORE.STAT_STATE n) = 2) ∧
    (∃ (s : State) (m : Fin 16) (n : Fin 2), WritePasses s m (Reg.CORE.page n) 68 1) :=
  ⟨⟨has up [(Reg.CORE.STAT_STATE 1, 1)], 1, by decide⟩,
   ⟨has up [(Reg.CORE.STAT_STATE 1, 2)], 1, by decide⟩,
   ⟨opened up [Reg.CORE.page 1], 1, 1, by unfold WritePasses; decide⟩⟩

/-- The hypotheses of each clause of `Obligations.PowerFrame` are met. -/
theorem test_hypotheses_power_frame :
    (∃ (s : State) (r : Fin 8), s.boot.stage ≠ .rising) ∧
    (∃ (s : State) (kind : Fin 3) (words : Nat), inRange s = true) :=
  ⟨⟨up, 2, by decide⟩,
   ⟨{ up with otp := { up.otp with op := some ⟨5, 1, [1, 2], 0, .abandon⟩ } }, 0, (1), by decide⟩⟩

/-- The hypotheses of each clause of `Obligations.OpticalFrame` are met. -/
theorem test_hypotheses_optical_frame :
    (∃ (s : State) (n : Fin 64), inRange s = true) ∧
    (∃ (s : State) (n : Fin 64) (cal : List (Int × Int × Int)) (skews : List Int), inRange s = true) ∧
    (∃ (s : State) (n : Fin 64) (ofs gain : Int), inRange s = true) ∧
    (∃ (s : State) (n : Fin 64) (pairs : List SeamPair) (offset : Int), inRange s = true) ∧
    (∃ (s : State) (n : Fin 64) (ofs gain skew : Int), inRange s = true) ∧
    (∃ (s : State) (n : Fin 64) (by1 : Checked) (by2 : Option Checked), inRange s = true) ∧
    (∃ (s : State) (n : Fin 64) (cal : List (Int × Int × Int)), inRange s = true) :=
  ⟨⟨has (opened up [Reg.CNV.page 63]) [(Reg.CNV.STAT_STATE 63, 1), (Reg.CNV.RETIRE_VALID 63, 1), (Reg.CNV.RETIRE_SLICE
    63, 64)], (63), by decide⟩,
   ⟨has (opened up [Reg.CNV.page 0]) [(Reg.CNV.STAT_STATE 0, 2)], (0), (List.replicate 65 (0, 0, 0)),
    (List.replicate 64 0), by decide⟩,
   ⟨has (opened up [Reg.CNV.page 5]) [(Reg.CNV.STAT_STATE 5, 3), (Reg.CNV.STAT_ROT_PHASE 5, 1)], (5), (-512),
    (8192), by decide⟩,
   ⟨has (opened up [Reg.CNV.page 5]) [(Reg.CNV.STAT_STATE 5, 3), (Reg.CNV.STAT_ROT_PHASE 5, 2)], (5),
    (List.replicate 4096 ⟨0, 0⟩), (0), by decide⟩,
   ⟨has (opened (up.onCnv 5 fun t => { t with step := 64 }) [Reg.CNV.page 5]) [(Reg.CNV.STAT_STATE 5, 3),
    (Reg.CNV.STAT_ROT_PHASE 5, 3)], (5), (-512), (8192), (200), by decide⟩,
   ⟨has (opened up [Reg.CNV.page 5]) [(Reg.CNV.STAT_STATE 5, 4)], (5), ⟨(64), (.lateDecision)⟩, none, by decide⟩,
   ⟨has (opened up [Reg.CNV.page 5]) [(Reg.CNV.STAT_STATE 5, 7)], (5), (List.replicate 65 (1, 2, 3)), by decide⟩⟩

/-- The hypotheses of each clause of `Obligations.MonitorFrame` are met. -/
theorem test_hypotheses_monitor_frame :
    ∃ (s : State) (bads : Fin 5), inRange s = true :=
  ⟨has { opened up [Reg.RING.page] with ringQ := [oneRes] } [(Reg.RING.RCTL_EN 15, 1)], (0), by decide⟩

/-- The hypotheses of each clause of `Obligations.HerdFrame` are met. -/
theorem test_hypotheses_herd_frame :
    (∃ (s : State) (h : Fin 17) (j : Fin 4) (hdr w : Word64) (gap : Bool), inRange s = true) ∧
    (∃ (s : State) (h : Fin 17), inRange s = true) ∧
    (∃ (s : State) (h : Fin 17) (lanes : Nat), inRange s = true) ∧
    (∃ (s : State) (h : Fin 17) (lanes : Nat) (cdr : Bool), inRange s = true) ∧
    (∃ (s : State) (h : Fin 17) (j : Fin 4) (levels : List Nat) (blocks : List RxBlock), inRange s = true) ∧
    (∃ (s : State) (h : Fin 17) (lane : Fin 19) (ret : Bool), inRange s = true) :=
  ⟨⟨has herds [(Reg.HERD.STAT_STATE 0, 2), (Reg.HERD.LANE_RX_ROLE 0 1, 1), (Reg.HERD.LANE_RX_BLK 0 1, 1),
    (Reg.HERD.LANE_TX_ROLE 0 18, 1)], (0), (1), trainHdr (BitVec.ofNat 64 (18 + 2 * 2 ^ 16 + 5 * 2 ^ 24)),
    BitVec.ofNat 64 (18 + 2 * 2 ^ 16 + 5 * 2 ^ 24), false, by decide⟩,
   ⟨has herds [(Reg.HERD.STAT_STATE 16, 2)], (16), by decide⟩,
   ⟨has herds [(Reg.HERD.LANE_RX_ROLE 16 3, 2), (Reg.HERD.LANE_RX_SIG 16 3, 1)], (16), (8), by decide⟩,
   ⟨has herds [(Reg.HERD.LANE_RX_ROLE 16 3, 2), (Reg.HERD.LANE_RX_BLK 16 3, 1)], (16), (8), (true), by decide⟩,
   ⟨has herds [(Reg.HERD.LANE_RX_BLK 16 3, 1)], (16), (3), ([0, 0, 0, 65536]), [⟨0, 0, 0⟩], by decide⟩,
   ⟨(has herds [(Reg.HERD.LANE_TX_ROLE 0 18, 1)]).onHerd 0 fun x => { x with testTx := [18] }, (0), (18), false,
    by decide⟩⟩

/-- The hypotheses of each clause of `Obligations.LinkFrame` are met. -/
theorem test_hypotheses_link_frame :
    (∃ (s : State) (k : Fin 8), inRange s = true) ∧
    (∃ (s : State) (h : Fin 17) (k : Fin 8), inRange s = true) ∧
    (∃ (s : State) (n : Fin 2), inRange s = true) :=
  ⟨⟨{ inSession with evt := { up.evt with notices := vset up.evt.notices 7 [⟨1, 0, 0, 0, 0, 0, some 3⟩] } }, (7),
    by decide⟩,
   ⟨inSession.onSes 7 fun x => { x with exch := .verifying }, (16), (7), by decide⟩,
   ⟨has up [(Reg.CORE.STAT_STATE 1, 1)], (1), by decide⟩⟩

/-- The hypotheses of each clause of `Obligations.MemoryFrame` are met. -/
theorem test_hypotheses_memory_frame :
    (∃ (s : State), inRange s = true) ∧
    (∃ (s : State) (job : Fin 3), inRange s = true) :=
  ⟨⟨{ up with otp := { up.otp with op := some ⟨7, 3, List.replicate 24 1, 0, .none⟩ } }, by decide⟩,
   ⟨{ up with sec := { up.sec with key := some [1], sign := some [], making := some (.command, 5) } }, (1),
    by decide⟩⟩

/-- The hypotheses of each clause of `Obligations.PageWriteFrame` are met. -/
theorem test_hypotheses_page_write_frame :
    (∃ (s : State) (m : Fin 16) (pg : BitVec 10) (v : Word32), WritePasses s m pg.toNat 8 (setBit v.toNat 1)) ∧
    (∃ (s : State) (m : Fin 16) (pg : BitVec 10) (v : Word32), WritePasses s m pg.toNat 8 v.toNat) ∧
    (∃ (s : State) (m : Fin 16) (pg : BitVec 10) (v : Word32), WritePasses s m pg.toNat 8 (setBit v.toNat 3)) ∧
    (∃ (s : State) (m : Fin 16) (pg : BitVec 10), WritePasses s m pg.toNat 16 1 ∧ pg.toNat ≠ Reg.CLK.page) ∧
    (∃ (s : State) (m : Fin 16) (pg : BitVec 10), WritePasses s m pg.toNat 32 0x10000) ∧
    (∃ (s : State) (m : Fin 16) (pg : BitVec 10), WritePasses s m pg.toNat 32 0x20000) ∧
    (∃ (s : State) (m : Fin 16) (pg : BitVec 10), WritePasses s m pg.toNat 32 0x40000) ∧
    (∃ (s : State) (m : Fin 16) (pg : BitVec 10) (v : Word32), WritePasses s m pg.toNat 20 v.toNat) ∧
    (∃ (s : State) (m : Fin 16) (addr : BitVec 40) (v : Word32) (poison : Bool), fabricQuiet s = true ∧ targetOf
      addr.toNat = some 1) ∧
    (∃ (s : State) (m : Fin 16) (addr : BitVec 40) (v : Word32) (poison : Bool), fabricQuiet s = true ∧ (targetOf
      addr.toNat).isNone = true) ∧
    (∃ (s : State) (m : Fin 16) (addr : BitVec 40) (fetch : Bool), 0x1000000 ≤ addr.toNat ∧ ReadPasses s m (pageOf
      addr.toNat) (addr.toNat % 4096) ∧ addr.toNat ≠ regAddr Reg.SPF.page 84) ∧
    (∃ (s : State) (m : Fin 16) (v : Word32), WritePasses s m Reg.EVT1.page 80 v.toNat) :=
  ⟨⟨up, (1), (0), (0), by unfold WritePasses; decide⟩,
   ⟨up, (1), (10), (4), by unfold WritePasses; decide⟩,
   ⟨up, (1), (3), (0), by unfold WritePasses; decide⟩,
   ⟨up, (1), (0), by unfold WritePasses; decide, by decide⟩,
   ⟨up, (2), (0x100), by unfold WritePasses; decide⟩,
   ⟨has up [(Reg.HDR.PG_LOCK_HELD 3, 1), (Reg.HDR.PG_LOCK_OWNER 3, 2)], (2), (3), by unfold WritePasses; decide⟩,
   ⟨has up [(Reg.HDR.PG_LOCK_HELD 3, 1), (Reg.HDR.PG_LOCK_OWNER 3, 2)], (1), (3), by unfold WritePasses; decide⟩,
   ⟨has up [(Reg.HDR.PG_EVT_RAW_RAW 2, 5)], (1), (2), (4), by unfold WritePasses; decide⟩,
   ⟨up, (3), (0x8000000), (5), (false), by decide, by decide⟩,
   ⟨up, (1), (0x1400000), (7), (true), by decide, by decide⟩,
   ⟨up, 1, 0x1006040, false, by decide, by unfold ReadPasses; decide, by decide⟩,
   ⟨up, (1), (0), by unfold WritePasses; decide⟩⟩

/-- The hypotheses of each clause of `Obligations.EffectFrame` are met. -/
theorem test_hypotheses_effect_frame :
    (∃ (s : State) (m : Fin 16) (v : Word32), WritePasses s m Reg.CLK.page 112 v.toNat) ∧
    (∃ (s : State) (m : Fin 16), WritePasses s m Reg.TIME.page 92 1) ∧
    (∃ (s : State) (m : Fin 16), WritePasses s m Reg.TIME.page 92 2) ∧
    (∃ (s : State) (m : Fin 16), WritePasses s m Reg.TIME.page 92 3) ∧
    (∃ (s : State) (m : Fin 16), WritePasses s m Reg.TIME.page 92 4) ∧
    (∃ (s : State) (m : Fin 16) (v : Word32), WritePasses s m Reg.DEV.page 76 v.toNat) ∧
    (∃ (s : State) (m : Fin 16), WritePasses s m Reg.DEV.page 88 1) ∧
    (∃ (s : State) (m : Fin 16), WritePasses s m Reg.DEV.page 88 2) ∧
    (∃ (s : State) (m : Fin 16) (n : Fin 64), WritePasses s m (Reg.CNV.page n) 80 1 ∧ inRange s = true) ∧
    (∃ (s : State) (m p : Fin 16), WritePasses s m (Reg.EQ.page p) 120 4) ∧
    (∃ (s : State) (m p : Fin 16), WritePasses s m (Reg.EQ.page p) 120 1) ∧
    (∃ (s : State) (m p : Fin 16), WritePasses s m (Reg.EQ.page p) 120 2) ∧
    (∃ (s : State) (m : Fin 16) (i : BitVec 16) (w : Word32), fabricQuiet s = true) ∧
    (∃ (s : State) (m : Fin 16), WritePasses s m Reg.SEQ.page 80 1) ∧
    (∃ (s : State) (m : Fin 16) (c : Fin 24), WritePasses s m (Reg.PCV.page c) 72 1) ∧
    (∃ (s : State) (m r : Fin 16) (v : Word32), WritePasses s m Reg.RING.page (272 + 32 * r.val) v.toNat) ∧
    (∃ (s : State) (m : Fin 16) (n : Fin 48), WritePasses s m (Reg.FILT.page n) 156 1) ∧
    (∃ (s : State) (m : Fin 16) (n : Fin 48), WritePasses s m (Reg.FILT.page n) 156 2) ∧
    (∃ (s : State) (m : Fin 16) (n : Fin 48), WritePasses s m (Reg.FILT.page n) 156 4) ∧
    (∃ (s : State) (m : Fin 16) (n : Fin 48) (v : Word32), WritePasses s m (Reg.FILT.page n) 200 v.toNat) ∧
    (∃ (s : State) (m : Fin 16) (n : Fin 48) (v : Word32), WritePasses s m (Reg.FILT.page n) 236 v.toNat) ∧
    (∃ (s : State) (m : Fin 16) (h : Fin 17), WritePasses s m (Reg.HERD.page h) 76 1 ∧ inRange s = true) ∧
    (∃ (s : State) (m : Fin 16) (h : Fin 17) (lane : Fin 32) (ret : Bool), WritePasses s m (Reg.HERD.page h) 76 (2 +
      lane.val * 2 ^ 8 + b2n ret * 2 ^ 13) ∧ inRange s = true) ∧
    (∃ (s : State) (m : Fin 16) (slots : BitVec 8), WritePasses s m Reg.LINK1.page 68 slots.toNat ∧ inRange s =
      true) :=
  ⟨⟨has up [(Reg.CLK.ROOT_STAT_STATE, 2), (Reg.CLK.MON_STAT_SQUELCH, 1)], (1), (1), by unfold WritePasses; decide⟩,
   ⟨has up [(Reg.TIME.ADJ_LO_NS, 5)], (1), by unfold WritePasses; decide⟩,
   ⟨has up [(Reg.TIME.ADJ_LO_NS, 5)], (2), by unfold WritePasses; decide⟩,
   ⟨has up [(Reg.TIME.STAT_SYNC_IN_OK, 1)], (1), by unfold WritePasses; decide⟩,
   ⟨up, (1), by unfold WritePasses; decide⟩,
   ⟨up, (1), (0x1B007), by unfold WritePasses; decide⟩,
   ⟨up, (1), by unfold WritePasses; decide⟩,
   ⟨{ up with boot := { up.boot with stage := .recovery } }, (1), by unfold WritePasses; decide⟩,
   ⟨has (opened up [Reg.CNV.page 5]) [(Reg.CNV.STAT_STATE 5, 3), (Reg.PORT.SQ_NOW_CAUSE 1, 1)], (1), (5),
    by unfold WritePasses; decide, by decide⟩,
   ⟨has (opened up [Reg.EQ.page 0]) [(Reg.EQ.STAT_STATE 0, 5)], (1), (0), by unfold WritePasses; decide⟩,
   ⟨opened up [Reg.EQ.page 0], (1), (0), by unfold WritePasses; decide⟩,
   ⟨opened up [Reg.EQ.page 0], (1), (0), by unfold WritePasses; decide⟩,
   ⟨up, (1), (65535), (7), by decide⟩,
   ⟨opened up [Reg.SEQ.page], (1), by unfold WritePasses; decide⟩,
   ⟨has (opened up [Reg.PCV.page 2]) [(Reg.PCV.STAT_STATE 2, 2)], (1), (2), by unfold WritePasses; decide⟩,
   ⟨opened up [Reg.RING.page], (1), (15), (0), by unfold WritePasses; decide⟩,
   ⟨opened up [Reg.FILT.page 47], (1), (47), by unfold WritePasses; decide⟩,
   ⟨(opened up [Reg.FILT.page 47]).onFilt 47 fun f => { f with par := { f.par with state := 1 } }, (1), (47),
    by unfold WritePasses; decide⟩,
   ⟨opened up [Reg.FILT.page 47], (1), (47), by unfold WritePasses; decide⟩,
   ⟨opened up [Reg.FILT.page 47], (1), (47), (0), by unfold WritePasses; decide⟩,
   ⟨opened up [Reg.FILT.page 47], 1, 47, 0, by unfold WritePasses; decide⟩,
   ⟨has (opened up [Reg.HERD.page 16]) [(Reg.HERD.STAT_STATE 16, 4)], (1), (16), by unfold WritePasses; decide,
    by decide⟩,
   ⟨has (opened up [Reg.HERD.page 0]) [(Reg.HERD.STAT_STATE 0, 4), (Reg.HERD.LANE_TX_ROLE 0 18, 4)], (1), (0), (18),
    false, by unfold WritePasses; decide, by decide⟩,
   ⟨inSession, (1), (0x80), by unfold WritePasses; decide, by decide⟩⟩

/-- The hypotheses of each clause of `Obligations.MemoryAccessFrame` are met. -/
theorem test_hypotheses_memory_access_frame :
    (∃ (s : State) (m : Fin 16) (a : BitVec 40) (len : Fin 65) (fetch bad : Bool), MemPasses s 3 m a.toNat len (if
      fetch then 2 else 0) ∧ dramFree s m a.toNat = true) ∧
    (∃ (s : State) (m : Fin 16) (a : BitVec 40) (data : List Byte) (poison : Bool), MemPasses s 3 m a.toNat 64 1 ∧
      dramFree s m a.toNat = true) ∧
    (∃ (s : State) (m : Fin 16) (a : BitVec 40) (data : List Byte) (poison : Bool) (bads : Fin 5), MemPasses s 3 m
      a.toNat data.length 1 ∧ dramFree s m a.toNat = true) ∧
    (∃ (s : State) (m : Fin 16) (page : BitVec 17), WritePasses s m Reg.RETIRE.page 64 page.toNat) ∧
    (∃ (s : State) (m : Fin 16) (idx : BitVec 8), WritePasses s m Reg.MEMC.page 76 (idx.toNat + 2 ^ 8)) ∧
    (∃ (s : State) (m : Fin 16), WritePasses s m Reg.MEMC.page 76 (2 ^ 9)) ∧
    (∃ (s : State) (m : Fin 16) (a : BitVec 40) (len : Fin 65) (fetch : Bool), MemPasses s 2 m a.toNat len (if fetch
      then 2 else 0) ∧ spfIdle s = true) ∧
    (∃ (s : State) (m : Fin 16) (a : BitVec 40) (data : List Byte) (poison : Bool), MemPasses s 2 m a.toNat
      data.length 1 ∧ spfIdle s = true) ∧
    (∃ (s : State) (m : Fin 16) (off : BitVec 26) (e : Fin 4), WritePasses s m Reg.SPF.page 72 (off.toNat + e.val *
      2 ^ 26)) ∧
    (∃ (s : State) (m : Fin 16) (w : Word32), WritePasses s m Reg.SPF.page 76 w.toNat) ∧
    (∃ (s : State) (m : Fin 16) (w : Word32), WritePasses s m Reg.SPF.page 80 w.toNat) ∧
    (∃ (s : State) (m : Fin 16), ReadPasses s m Reg.SPF.page 84) ∧
    (∃ (s : State) (m : Fin 16) (r : BitVec 8), WritePasses s m Reg.OTP.page 64 (r.toNat + 2 ^ 8)) ∧
    (∃ (s : State) (m : Fin 16), WritePasses s m Reg.SEC.page 64 1) ∧
    (∃ (s : State) (m : Fin 16), WritePasses s m Reg.SEC.page 64 2) ∧
    (∃ (s : State) (m : Fin 16) (n : Fin 2), WritePasses s m (Reg.CORE.page n) 68 1) :=
  ⟨⟨{ trained with mems := { up.mems with written := [(0, true)], dram := [(63, 7)] } }, (1), (0x1000000000), (64),
    false, (false), by unfold MemPasses; decide, by decide⟩,
   ⟨trained, (1), (0x11FFFFFFC0), (List.replicate 64 5), (true), by unfold MemPasses; decide, by decide⟩,
   ⟨{ trained with mems := { up.mems with written := [(0, true)] } }, (1), (0x100000003F), ([9]), (true), (4),
    by unfold MemPasses; decide, by decide⟩,
   ⟨up, (1), (0x1FFFF), by unfold WritePasses; decide⟩,
   ⟨{ up with memc := { up.memc with weak := [(255, (9, 1))] } }, (1), (255), by unfold WritePasses; decide⟩,
   ⟨{ up with memc := { up.memc with weak := [(255, (9, 1))] } }, (1), by unfold WritePasses; decide⟩,
   ⟨up, (1), (0x20000000), (64), (false), by unfold MemPasses; decide, by decide⟩,
   ⟨has up [(Reg.SPF.STAT_MODE, 1), (Reg.PWR.FENCE_STAT_CLOSED, 0)], (1), (0x23FFFFFF), ([5]), (false),
    by unfold MemPasses; decide, by decide⟩,
   ⟨has (opened up [Reg.SPF.page]) [(Reg.SPF.STAT_MODE, 1), (Reg.SPF.GEOM_E1_LOG2, 12), (Reg.PWR.FENCE_STAT_CLOSED,
    0)], (1), (0x3FFF000), (0), by unfold WritePasses; decide⟩,
   ⟨{ opened up [Reg.SPF.page] with spf := { up.spf with op := some ⟨.erase 0 4096, 0, .none, false⟩ } }, (1), (0),
    by unfold WritePasses; decide⟩,
   ⟨{ opened up [Reg.SPF.page] with spf := { up.spf with op := some ⟨.erase 0 4096, 0, .none, false⟩ } }, (1), (0),
    by unfold WritePasses; decide⟩,
   ⟨{ opened up [Reg.SPF.page] with spf := { up.spf with op := some ⟨.erase 0 4096, 0, .none, false⟩ } }, (1),
    by unfold ReadPasses; decide⟩,
   ⟨has up [(Reg.DEV.IMG_SECVER, 3), (Reg.PWR.FENCE_STAT_CLOSED, 0)], (1), (7), by unfold WritePasses; decide⟩,
   ⟨up, (1), by unfold WritePasses; decide⟩,
   ⟨up, (1), by unfold WritePasses; decide⟩,
   ⟨opened up [Reg.CORE.page 1], (1), (1), by unfold WritePasses; decide⟩⟩

/-- The hypotheses of each clause of `Obligations.RequestFrame` are met. -/
theorem test_hypotheses_request_frame :
    (∃ (s : State) (h : Fin 17) (gap : Bool) (hdr w1 : Word64) (more : List Word64) (tag : List Byte) (bads : Fin
      5), inRange s = true ∧ 16 ≤ (s.ses (hSlot hdr.toNat)).out.length) ∧
    (∃ (s : State) (h : Fin 17) (gap : Bool) (hdr w1 : Word64) (data : List Word64) (tag : List Byte) (bads : Fin
      5), inRange s = true ∧ 16 ≤ (s.ses (hSlot hdr.toNat)).out.length) ∧
    (∃ (s : State) (k : Fin 8) (n : Fin 16) (bads : Fin 5), inRange s = true ∧ (s.ses k).backlog = []) ∧
    (∃ (s : State) (a : BitVec 40) (bads : Fin 5), s.spm.out.isSome = true) ∧
    (∃ (s : State) (w : Word32) (bads : Fin 5), s.spm.out.isSome = true) ∧
    (∃ (s : State) (nbits : Fin 48) (w : Word32) (bads : Fin 5), s.spm.out.isSome = true) ∧
    (∃ (s : State) (bads : Fin 5), s.spm.queue = [] ∧ spmIn s .read = false) :=
  ⟨⟨fullSession, 16, false, wd0 1 4 0x70000000000, 0x70000000000, [], [], 0, by decide, by decide⟩,
   ⟨fullSession, 16, false, wd0 2 5 0x70000000000, 0x70000000000, [0], [], 0, by decide, by decide⟩,
   ⟨inSession.onSes 7 fun x => { x with out := [⟨5, rq 11 0x8000000, false, 0, some ⟨.ok, [1, 2, 3, 4]⟩, 1⟩] }, (7),
    (0), (0), by decide, by decide⟩,
   ⟨{ inFrame .header with spm := { (inFrame .header).spm with out := some (rq 3 0x8000000, 0, none) } }, 0x8000000,
    0, by decide⟩,
   ⟨{ inFrame .write with spm := { (inFrame .write).spm with out := some (rq 3 0x8000000, 0, none) } }, (7), (0),
    by decide⟩,
   ⟨{ inFrame .write with spm := { (inFrame .write).spm with out := some (rq 3 0x8000000, 0, none) } }, (31), (7),
    (0), by decide⟩,
   ⟨{ up with spm := { up.spm with out := some (rq 3 0x8000000, 0, some ⟨.errDenied, []⟩) } }, (0), by decide,
    by decide⟩⟩

/-- The hypotheses of each clause of `Obligations.StepRunsTheFrontCommand` are met. -/
theorem test_hypotheses_step_runs_the_front_command :
    ∃ (s : State) (c : Instr) (rest : List Instr), s.pending = c :: rest :=
  ⟨{ up with pending := [.vinSag, .fwOk 1] }, .vinSag, [.fwOk 1], by decide⟩

/-- The hypotheses of each clause of `Obligations.EveryStepAnswers` are met. -/
theorem test_hypotheses_every_step_answers :
    ∃ (s : State), s.pending = [] :=
  ⟨up, by decide⟩

/-- The hypotheses of each clause of `Obligations.ResetState` are met. -/
theorem test_hypotheses_reset_state :
    ∃ (pg : Nat), (kindOf pg).isSome = true :=
  ⟨16, by decide⟩

/-- The hypotheses of each clause of `Obligations.MemoriesStayCanonical` are met. -/
theorem test_hypotheses_memories_stay_canonical :
    ∃ (s : State), MemInv s ∧ (∃ t, step s = .next t) :=
  ⟨({ up with pending := [.registerWrite 1 0x8000000 5 false] }), by unfold MemInv; decide, ⟨_, rfl⟩⟩

/-- The hypotheses of each clause of `Obligations.NamesStayInRange` are met. -/
theorem test_hypotheses_names_stay_in_range :
    ∃ (s : State), inRange s = true ∧ (∃ t, step s = .next t) :=
  ⟨({ up with pending := [.vinSag] }), by decide, ⟨_, rfl⟩⟩

/-- The hypotheses of each clause of `Obligations.OtpBitsNeverFall` are met. -/
theorem test_hypotheses_otp_bits_never_fall :
    ∃ (s : State) (a b : Nat), MemInv s ∧ bit (otpWord s a) b = true ∧ (∃ t, step s = .next t) :=
  ⟨{ { up with otp := { up.otp with op := some ⟨7, 3, List.replicate 24 1, 0, .none⟩ } } with mems := { up.mems with otp := [(450, 6)] }, pending := [.otpSealed] },
    450, 1, by unfold MemInv; decide, by decide, ⟨_, rfl⟩⟩

/-- The hypotheses of each clause of `Obligations.WideCommandsKeep` are met. -/
theorem test_hypotheses_wide_commands_keep :
    (∃ (s : State), (∃ t, exec .powerOnReset s = .next t)) ∧
    (∃ (b : Bool) (s : State), s.spm.queue = [] ∧ (∃ t, exec (.deviceResetApply b) s = .next t)) ∧
    (∃ (b : Bool) (s : State), s.spm.queue = [] ∧ s.spm.rise = none ∧ (∃ t, exec (.settleEnd b) s = .next t)) ∧
    (∃ (b : Bool) (s : State), s.spm.queue = [] ∧ s.spm.rise = none ∧ (∃ t, exec (.resetNRelease b) s = .next t)) ∧
    (∃ (s : State), (∃ t, exec .rootLock s = .next t)) ∧
    (∃ (d : Fin 6) (s : State), s.bus.waiting = [] ∧ s.spm.queue = [] ∧ s.spm.rise = none ∧ (∃ t, exec
      (.domSwitchDone d) s = .next t)) ∧
    (∃ (pg : BitVec 10) (s : State), s.bus.waiting = [] ∧ (∃ t, exec (.gateClose pg) s = .next t)) ∧
    (∃ (pg : BitVec 10) (s : State), s.bus.waiting.all (inProgress s pg.toNat) = true ∧ (∃ t, exec (.gateTmo pg) s =
      .next t)) ∧
    (∃ (pg : BitVec 10) (s : State), s.bus.waiting = [] ∧ (∃ t, exec (.pageResetApply pg) s = .next t)) ∧
    (∃ (pg : BitVec 10) (s : State), s.bus.waiting.all (inProgress s pg.toNat) = true ∧ (∃ t, exec
      (.pageResetTimeout pg) s = .next t)) :=
  ⟨⟨up, ⟨_, rfl⟩⟩,
   ⟨false, { up with boot := { up.boot with stage := .resetting } }, by decide, ⟨_, rfl⟩⟩,
   ⟨false, { up with boot := { up.boot with stage := .settling } }, by decide, by decide, ⟨_, rfl⟩⟩,
   ⟨false, { up with boot := { up.boot with stage := .held } }, by decide, by decide, ⟨_, rfl⟩⟩,
   ⟨has up [(Reg.CLK.ROOT_STAT_STATE, 1)], ⟨_, rfl⟩⟩,
   ⟨1,
    { has up [(Reg.CLK.DOM_STAT_BUSY, 2)] with clk := { up.clk with next := vset up.clk.next 1 (some (.root 10)) } },
    by decide, by decide, by decide, ⟨_, rfl⟩⟩,
   ⟨32, has (opened up [32]) [(Reg.HDR.PG_STAT_COMMIT_HELD 32, 1), (Reg.HDR.PG_CTL_EN 32, 0)], by decide, ⟨_, rfl⟩⟩,
   ⟨32, has { opened up [32] with bus := { up.bus with waiting := [rq 1 (regAddr 32 64)] } }
    [(Reg.HDR.PG_STAT_COMMIT_HELD 32, 1), (Reg.HDR.PG_CTL_EN 32, 0)], by decide, ⟨_, rfl⟩⟩,
   ⟨3, has up [(Reg.HDR.PG_STAT_RST_BUSY 3, 1)], by decide, ⟨_, rfl⟩⟩,
   ⟨3, has { up with bus := { up.bus with waiting := [rq 1 (regAddr 3 64)] } } [(Reg.HDR.PG_STAT_RST_BUSY 3, 1)],
    by decide, ⟨_, rfl⟩⟩⟩

/-- The hypotheses of each clause of `Obligations.DramBytesElsewhereStand` are met. -/
theorem test_hypotheses_dram_bytes_elsewhere_stand :
    (∃ (s : State) (m : Fin 16) (a : BitVec 40) (data : List Byte) (poison : Bool), MemPasses s 3 m a.toNat 64 1 ∧
      dramFree s m a.toNat = true ∧ data.length = 64 ∧ (∃ t, exec (.dramWrite m a data poison) s = .next t)) ∧
    (∃ (s : State) (m : Fin 16) (a : BitVec 40) (data : List Byte) (poison : Bool) (bads : Fin 5), MemPasses s 3 m
      a.toNat data.length 1 ∧ dramFree s m a.toNat = true ∧ (∃ t, exec (.dramPartialWrite m a data poison bads) s =
      .next t)) ∧
    (∃ (s : State) (x : Res) (rest : List Res) (bads : Fin 5), s.ringQ = x :: rest ∧ (∃ t, exec (.ringRecordWrite
      bads) s = .next t)) ∧
    (∃ (s : State) (n : Fin 48) (rcd : List Nat) (rest : List (List Nat)) (bads : Fin 5), (s.filt n).outQ = rcd ::
      rest ∧ (∃ t, exec (.outRecordWrite n bads) s = .next t)) ∧
    (∃ (s : State) (bads : Fin 5), (∃ t, exec (.logEntryWrite bads) s = .next t)) ∧
    (∃ (s : State) (bad : Bool), (∃ t, exec (.dramRefetch bad) s = .next t)) ∧
    (∃ (s : State) (r : PortRun), (∃ t, exec (.snapDone r) s = .next t)) ∧
    (∃ (s : State) (r : Report) (c : Nat) (job : Fin 3), s.sec.making = some (.report r, c) ∧ (∃ t, exec
      (.signComplete job) s = .next t)) ∧
    (∃ (s : State) (m : Fin 16) (n : Fin 48), WritePasses s m (Reg.FILT.page n) 156 2 ∧ (∃ t, exec (.parTrig m n) s
      = .next t)) ∧
    (∃ (s : State) (n : Fin 48) (bads : Fin 5), (∃ t, exec (.filtInput n bads) s = .next t)) :=
  ⟨⟨trained, 1, 0x11FFFFFFC0, List.replicate 64 5, true, by unfold MemPasses; decide, by decide, by decide, ⟨_, rfl⟩⟩,
   ⟨{ trained with mems := { up.mems with written := [(0, true)] } }, 1, 0x100000003F, [9], true, 1,
    by unfold MemPasses; decide, by decide, ⟨_, rfl⟩⟩,
   ⟨has { opened (granting up 12) [Reg.RING.page] with ringQ := [oneRes] } [(Reg.RING.RCTL_EN 15, 1),
    (Reg.RING.BASE_HI_ADDR 15, 16)], oneRes, [], 0, by decide, ⟨_, rfl⟩⟩,
   ⟨((has (opened (granting up 13) [Reg.FILT.page 47]) [(Reg.FILT.OUT_BASE_HI_ADDR 47, 16)])).onFilt 47 fun f =>
    { f with outQ := [[1, 2, 3, 4]] }, 47, [1, 2, 3, 4], [], 0, by decide, ⟨_, rfl⟩⟩,
   ⟨logging, 0, ⟨_, rfl⟩⟩,
   ⟨{ trained with memc := { up.memc with pending := [⟨rq 4 0x1000000000, 3, true, none⟩, ⟨{ rq 5 0x1000000010 with write := true, data := [1, 2, 3, 4] }, 0, false, none⟩] } },
    true, ⟨_, rfl⟩⟩,
   ⟨has (granting (tracking 5 3) 14) [(Reg.EQ.STAT_SNAP_BUSY 3, 1), (Reg.EQ.SNAP_DST_HI_ADDR 3, 16)], ⟨3, noRun⟩,
    ⟨_, rfl⟩⟩,
   ⟨{ has (granting up 14) [(Reg.TSTAT.REP_BASE_HI_ADDR 3, 16)] with sec := { up.sec with reports := [⟨3, List.replicate 288 1, 0⟩], making := some (.report ⟨3, List.replicate 288 1, 0⟩, 0) } },
    ⟨3, List.replicate 288 1, 0⟩, 0, 2, by decide, ⟨_, rfl⟩⟩,
   ⟨(has (opened (granting up 13) [Reg.FILT.page 47]) [(Reg.FILT.PAR_BASE_HI_ADDR 47, 16)]).onFilt 47 fun f =>
    { f with par := { f.par with state := 1, m := 7 } }, 1, 47, by unfold WritePasses; decide, ⟨_, rfl⟩⟩,
   ⟨((has (opened (granting up 13) [Reg.FILT.page 47]) [(Reg.FILT.PAR_BASE_HI_ADDR 47, 16), (Reg.FILT.STAT_STATE 47,
    2)])).onFilt 47 fun f => { f with inQ := [oneRes], par := { f.par with state := 2, m := 7, trigM := 7 } }, 47,
    0, ⟨_, rfl⟩⟩⟩

/-- The hypotheses of each clause of `Obligations.OtherBytesElsewhereStand` are met. -/
theorem test_hypotheses_other_bytes_elsewhere_stand :
    (∃ (s : State) (o : FlashOp) (r : Req) (idle : Bool) (worn : Option (List Byte)), s.spf.op = some o ∧ o.kind =
      .program r ∧ (∃ t, exec (.flashPoll idle worn) s = .next t)) ∧
    (∃ (s : State) (o : FlashOp) (off size : Nat) (idle : Bool) (worn : Option (List Byte)), s.spf.op = some o ∧
      o.kind = .erase off size ∧ (∃ t, exec (.flashPoll idle worn) s = .next t)) ∧
    (∃ (s : State) (o : FlashOp), s.spf.op = some o ∧ (∃ t, exec .flashStuck s = .next t)) ∧
    (∃ (s : State) (o : FlashOp), s.spf.op = some o ∧ (∃ t, exec .flashResetDone s = .next t)) ∧
    (∃ (s : State) (o : OtpOp), s.otp.op = some o ∧ (∃ t, exec .otpSealed s = .next t)) ∧
    (∃ (s : State) (g : Nat) (sc : List Nat), s.otp.op = none ∧ s.sec.drawn = some (g, sc) ∧ (∃ t, exec .otpSealed s
      = .next t)) ∧
    (∃ (s : State) (kind : Fin 3) (n : Nat), (∃ t, exec (.nvAbandon kind n) s = .next t)) ∧
    (∃ (s : State) (m : Fin 16) (i : BitVec 16) (w : Word32), fabricQuiet s = true ∧ (∃ t, exec (.seqtHiWrite m i w)
      s = .next t)) :=
  ⟨⟨{ up with spf := { up.spf with op := some ⟨.program { rq 1 0x20000000 with write := true, data := [1, 2, 3, 4] }, 0, .none, false⟩ } },
    ⟨.program { rq 1 0x20000000 with write := true, data := [1, 2, 3, 4] }, 0, .none, false⟩,
    { rq 1 0x20000000 with write := true, data := [1, 2, 3, 4] }, true, none, by decide, by decide, ⟨_, rfl⟩⟩,
   ⟨{ up with mems := { up.mems with flash := [(3, 5)] }, spf := { up.spf with op := some ⟨.erase 0 4096, 0, .none, false⟩ } },
    ⟨.erase 0 4096, 0, .none, false⟩, 0, 4096, true, none, by decide, by decide, ⟨_, rfl⟩⟩,
   ⟨{ up with spf := { up.spf with op := some ⟨.erase 0 64, 0, .none, false⟩ } }, ⟨.erase 0 64, 0, .none, false⟩,
    by decide, ⟨_, rfl⟩⟩,
   ⟨{ up with spf := { up.spf with op := some ⟨.erase 0 64, 0, .none, true⟩ } }, ⟨.erase 0 64, 0, .none, true⟩,
    by decide, ⟨_, rfl⟩⟩,
   ⟨{ up with otp := { up.otp with op := some ⟨7, 3, List.replicate 24 1, 0, .none⟩ } }, ⟨7, 3, List.replicate 24 1,
    0, .none⟩, by decide, ⟨_, rfl⟩⟩,
   ⟨{ up with sec := { up.sec with prov := true, drawn := some (3, List.replicate 12 1) } }, 3, List.replicate 12 1,
    by decide, by decide, ⟨_, rfl⟩⟩,
   ⟨{ up with otp := { up.otp with op := some ⟨7, 3, List.replicate 24 1, 0, .abandon⟩ } }, 0, 3, ⟨_, rfl⟩⟩,
   ⟨{ up with seq := { up.seq with latches := [(1, 9, 4)] } }, 1, 9, 7, by decide, ⟨_, rfl⟩⟩⟩

/-- The hypotheses of each clause of `Obligations.UnmappedAccesses` are met. -/
theorem test_hypotheses_unmapped_accesses :
    (∃ (s : State) (m : Fin 16) (a : BitVec 40) (v : Word32) (poison : Bool), fabricQuiet s = true ∧ masterIssues s
      (mkReq m a.toNat true false 4 [] false 0) = true ∧ targetOf a.toNat = none) ∧
    (∃ (s : State) (m : Fin 16) (a : BitVec 40) (fetch : Bool), fabricQuiet s = true ∧ masterIssues s (mkReq m
      a.toNat false fetch 4 [] false 0) = true ∧ targetOf a.toNat = none) ∧
    (∃ (s : State) (m : Fin 16) (a : BitVec 40) (len : Fin 65) (fetch bad : Bool), fabricQuiet s = true ∧
      masterIssues s (mkReq m a.toNat false fetch len [] false 0) = true ∧ targetOf a.toNat = none ∧ 0 < len.val) ∧
    (∃ (s : State) (m : Fin 16) (a : BitVec 40) (data : List Byte) (poison : Bool) (bads : Fin 5), fabricQuiet s =
      true ∧ masterIssues s (mkReq m a.toNat true false data.length [] false 0) = true ∧ targetOf a.toNat = none ∧ 0
      < data.length ∧ data.length ≤ 64) ∧
    (∃ (s : State) (r : Req), r.dead = false ∧ r.master < 16 ∧ targetOf r.addr = none) :=
  ⟨⟨up, 1, 0x1400000, 7, true, by decide, by decide, by decide⟩,
   ⟨up, 1, 0x1200000000, true, by decide, by decide, by decide⟩,
   ⟨up, 1, 0x1200000000, 64, true, false, by decide, by decide, by decide, by decide⟩,
   ⟨up, 1, 0x1200000000, [1, 2], true, 0, by decide, by decide, by decide, by decide, by decide⟩,
   ⟨up, rq 3 0x1200000000, by decide, by decide, by decide⟩⟩

/-- The hypotheses of each clause of `Obligations.PageChecks` are met. -/
theorem test_hypotheses_page_checks :
    (∃ (s : State) (m : Fin 16) (pg : BitVec 10) (off n : Nat) (v : Word32) (poison : Bool), fabricQuiet s = true ∧
      off < 4096 ∧ targetOf (regAddr pg.toNat 0) = some n ∧ masterIssues s (writeReq s m pg.toNat off v.toNat
      poison) = true) ∧
    (∃ (s : State) (m : Fin 16) (pg : BitVec 10) (off n : Nat), fabricQuiet s = true ∧ off < 4096 ∧ targetOf
      (regAddr pg.toNat 0) = some n ∧ masterIssues s (pageReq s m pg.toNat off 0 false) = true) :=
  ⟨⟨up, 1, 0x21, 64, 7, 5, true, by decide, by decide, by decide, by decide⟩,
   ⟨up, 1, 0x21, 64, 7, by decide, by decide, by decide, by decide⟩⟩

/-- The hypotheses of each clause of `Obligations.DenialsAreRecorded` are met. -/
theorem test_hypotheses_denials_are_recorded :
    (∃ (s : State) (m : Fin 16) (a : BitVec 40) (n : Nat) (v : Word32) (poison : Bool), fabricQuiet s = true ∧
      masterIssues s (mkReq m a.toNat true false 4 [] false 0) = true ∧ targetOf a.toNat = some n ∧ (n = 0 ∨ n = 1 ∨
      n = 4) ∧ a.toNat % 4 = 0 ∧ aclGrants s n m a.toNat 1 = false) ∧
    (∃ (s : State) (m : Fin 16) (a : BitVec 40) (n : Nat) (fetch : Bool), fabricQuiet s = true ∧ masterIssues s
      (mkReq m a.toNat false fetch 4 [] false 0) = true ∧ targetOf a.toNat = some n ∧ (n = 0 ∨ n = 1 ∨ n = 4) ∧
      a.toNat % 4 = 0 ∧ aclGrants s n m a.toNat (if fetch then 2 else 0) = false) ∧
    (∃ (s : State) (m : Fin 16) (a : BitVec 40) (len : Fin 65) (fetch bad : Bool), fabricQuiet s = true ∧
      masterIssues s (mkReq m a.toNat false fetch len [] false 0) = true ∧ targetOf a.toNat = some 3 ∧ alignOk 3
      (mkReq m a.toNat false fetch len [] false 0) = true ∧ s.memc.pending.all (fun q => q.req.master != m.val) =
      true ∧ aclGrants s 3 m a.toNat (if fetch then 2 else 0) = false) ∧
    (∃ (s : State) (m : Fin 16) (a : BitVec 40) (data : List Byte) (poison : Bool), fabricQuiet s = true ∧
      masterIssues s (mkReq m a.toNat true false 64 [] false 0) = true ∧ targetOf a.toNat = some 3 ∧ data.length =
      64 ∧ alignOk 3 (mkReq m a.toNat true false 64 [] false 0) = true ∧ s.memc.pending.all (fun q => q.req.master
      != m.val) = true ∧ aclGrants s 3 m a.toNat 1 = false) ∧
    (∃ (s : State) (m : Fin 16) (a : BitVec 40) (data : List Byte) (poison : Bool) (bads : Fin 5), fabricQuiet s =
      true ∧ masterIssues s (mkReq m a.toNat true false data.length [] false 0) = true ∧ targetOf a.toNat = some 3 ∧
      data.length < 64 ∧ alignOk 3 (mkReq m a.toNat true false data.length [] false 0) = true ∧ s.memc.pending.all
      (fun q => q.req.master != m.val) = true ∧ aclGrants s 3 m a.toNat 1 = false) ∧
    (∃ (s : State) (m : Fin 16) (a : BitVec 40) (len : Fin 65) (fetch : Bool), fabricQuiet s = true ∧ masterIssues s
      (mkReq m a.toNat false fetch len [] false 0) = true ∧ targetOf a.toNat = some 2 ∧ spfIdle s = true ∧ alignOk 2
      (mkReq m a.toNat false fetch len [] false 0) = true ∧ cacheHit s (mkReq m a.toNat false fetch len [] false 0)
      = none ∧ aclGrants s 2 m a.toNat (if fetch then 2 else 0) = false) ∧
    (∃ (s : State) (m : Fin 16) (a : BitVec 40) (data : List Byte) (poison : Bool), fabricQuiet s = true ∧
      masterIssues s (mkReq m a.toNat true false data.length [] false 0) = true ∧ targetOf a.toNat = some 2 ∧
      spfIdle s = true ∧ alignOk 2 (mkReq m a.toNat true false data.length [] false 0) = true ∧ aclGrants s 2 m
      a.toNat 1 = false) ∧
    (∃ (s : State) (m : Fin 16) (a n : Nat) (data : List Byte) (bads : Nat), targetOf a = some n ∧ (n = 3 → alignOk
      3 (mkReq m a true false data.length data false bads) = true ∧ aclGrants s 3 m a 1 = false)) ∧
    (∃ (s : State) (r : Req) (n : Nat), r.dead = false ∧ r.master < 15 ∧ targetOf r.addr = some n ∧ n ≠ 2 ∧ n < 5 ∧
      alignOk n r = true ∧ (n = 3 → s.memc.pending.all (fun q => q.req.master != r.master) = true) ∧ aclGrants s n
      r.master r.addr (aclKind r) = false) ∧
    (∃ (s : State) (r : Req) (n : Nat), r.dead = false ∧ r.passed = false ∧ r.master < 15 ∧ targetOf r.addr = some n
      ∧ 5 ≤ n ∧ alignOk n r = true ∧ pageDenied s n r = true) :=
  ⟨⟨up, 3, 0x8000000, 1, 5, false, by decide, by decide, by decide, by decide, by decide, by decide⟩,
   ⟨up, 1, 0, 0, true, by decide, by decide, by decide, by decide, by decide, by decide⟩,
   ⟨up, 14, 0x1000000000, 64, false, false, by decide, by decide, by decide, by decide, by decide, by decide⟩,
   ⟨up, 14, 0x1000000000, List.replicate 64 1, false, by decide, by decide, by decide, by decide, by decide,
    by decide, by decide⟩,
   ⟨up, 14, 0x100000003F, [1], false, 0, by decide, by decide, by decide, by decide, by decide, by decide,
    by decide⟩,
   ⟨up, 3, 0x20000000, 4, true, by decide, by decide, by decide, by decide, by decide, by decide, by decide⟩,
   ⟨up, 3, 0x20000000, [1, 2, 3, 4], false, by decide, by decide, by decide, by decide, by decide, by decide⟩,
   ⟨up, 12, 0x1000000000, 3, [1], 0, by decide, by decide⟩,
   ⟨up, rq 4 0x8000000, 1, by decide, by decide, by decide, by decide, by decide, by decide, by decide, by decide⟩,
   ⟨up, { rq 4 0x1002040 with write := true, data := [0, 0, 0, 0] }, 5, by decide, by decide, by decide, by decide,
    by decide, by decide, by decide⟩⟩

/-- The hypotheses of each clause of `Obligations.PageLocks` are met. -/
theorem test_hypotheses_page_locks :
    (∃ (s : State) (m : Fin 16) (pg : BitVec 10), WritePasses s m pg.toNat 32 0x10000 ∧ rd s (Reg.HDR.PG_LOCK_HELD
      pg.toNat) ≠ 0) ∧
    (∃ (s : State) (m : Fin 16) (pg : BitVec 10) (n : Nat), fabricQuiet s = true ∧ targetOf (regAddr pg.toNat 0) =
      some n ∧ masterIssues s (writeReq s m pg.toNat 32 0x10000 false) = true ∧ pageDenied s n (writeReq s m
      pg.toNat 32 0x10000 false) = false ∧ rd s (Reg.HDR.PG_LOCK_HELD pg.toNat) ≠ 0 ∧ rd s (Reg.HDR.PG_LOCK_OWNER
      pg.toNat) ≠ m) ∧
    (∃ (s : State) (m : Fin 16) (pg : BitVec 10) (off n : Nat) (v : Word32) (poison : Bool), fabricQuiet s = true ∧
      targetOf (regAddr pg.toNat 0) = some n ∧ off < 4096 ∧ off % 4 = 0 ∧ masterIssues s (writeReq s m pg.toNat off
      v.toNat poison) = true ∧ pageDenied s n (writeReq s m pg.toNat off v.toNat poison) = false ∧ rd s
      (Reg.HDR.PG_LOCK_HELD pg.toNat) ≠ 0 ∧ rd s (Reg.HDR.PG_LOCK_OWNER pg.toNat) ≠ m ∧ (off ≠ 32 ∨ v.getLsbD 18 =
      false)) ∧
    (∃ (s : State) (m : Fin 16) (pg : BitVec 10) (off : Nat), ReadPasses s m pg.toNat off ∧ rd s
      (Reg.HDR.PG_LOCK_HELD pg.toNat) ≠ 0 ∧ rd s (Reg.HDR.PG_LOCK_OWNER pg.toNat) ≠ m) ∧
    (∃ (s : State) (m : Fin 16) (pg : BitVec 10), WritePasses s m pg.toNat 32 0x40000 ∧ rd s (Reg.HDR.PG_LOCK_HELD
      pg.toNat) ≠ 0 ∧ rd s (Reg.HDR.PG_LOCK_OWNER pg.toNat) ≠ m) :=
  ⟨⟨has up [(Reg.HDR.PG_LOCK_HELD 3, 1), (Reg.HDR.PG_LOCK_OWNER 3, 2)], 2, 3, by unfold WritePasses; decide, by decide⟩,
   ⟨has up [(Reg.HDR.PG_LOCK_HELD 3, 1), (Reg.HDR.PG_LOCK_OWNER 3, 2)], 1, 3, 5, by decide, by decide, by decide,
    by decide, by decide, by decide⟩,
   ⟨has up [(Reg.HDR.PG_LOCK_HELD 3, 1), (Reg.HDR.PG_LOCK_OWNER 3, 2)], 1, 3, 32, 5, 0x10000, false, by decide,
    by decide, by decide, by decide, by decide, by decide, by decide, by decide, by decide⟩,
   ⟨has up [(Reg.HDR.PG_LOCK_HELD 3, 1), (Reg.HDR.PG_LOCK_OWNER 3, 2)], 1, 3, 64, by unfold ReadPasses; decide,
    by decide, by decide⟩,
   ⟨has up [(Reg.HDR.PG_LOCK_HELD 3, 1), (Reg.HDR.PG_LOCK_OWNER 3, 2)], 1, 3, by unfold WritePasses; decide,
    by decide, by decide⟩⟩

/-- The hypotheses of each clause of `Obligations.RegisterWritesAndCommits` are met. -/
theorem test_hypotheses_register_writes_and_commits :
    (∃ (s : State) (m : Fin 16) (pg : BitVec 10) (off lo : Nat) (f : FRow) (v : Word32), WritePasses s m pg.toNat
      off v.toNat ∧ 64 ≤ off ∧ fieldAt pg.toNat off lo = some f ∧ f.shad = true ∧ f.acc = .rw) ∧
    (∃ (s : State) (m : Fin 16) (pg : BitVec 10) (k : Kind) (i off lo : Nat) (f : FRow), WritePasses s m pg.toNat 16
      1 ∧ (pg.toNat ≠ Reg.CLK.page ∨ rd s Reg.CLK.DOM_STAT_BUSY = 0) ∧ kindOf pg.toNat = some (k, i) ∧ limitedField
      k off lo = false ∧ off < 4096 ∧ off % 4 = 0 ∧ lo < 32 ∧ fieldAt pg.toNat off lo = some f ∧ f.shad = true) ∧
    (∃ (s : State) (m : Fin 16) (pg : BitVec 10) (k : Kind) (i off : Nat) (v : Word32), WritePasses s m pg.toNat off
      v.toNat ∧ 64 ≤ off ∧ kindOf pg.toNat = some (k, i) ∧ blockWrite s m k i pg.toNat off v.toNat = plainWrite s
      pg.toNat off v.toNat) :=
  ⟨⟨up, 1, 9, 68, 16, ⟨16, 16, .rw, true, 0, .any⟩, 0xABCD0000, by unfold WritePasses; decide, by decide, by decide,
    by decide, by decide⟩,
   ⟨up, 1, 9, .evt1, 1, 68, 16, ⟨16, 16, .rw, true, 0, .any⟩, by unfold WritePasses; decide, by decide, by decide,
    by decide, by decide, by decide, by decide, by decide, by decide⟩,
   ⟨up, 1, 9, .evt1, 1, 68, 0xABCD0000, by unfold WritePasses; decide, by decide, by decide, rfl⟩⟩

/-- The hypotheses of each clause of `Obligations.FreezeHoldsRegisters` are met. -/
theorem test_hypotheses_freeze_holds_registers :
    (∃ (s : State) (m : Fin 16) (pg : BitVec 10) (k : Kind) (i off : Nat) (v : Word32), WritePasses s m pg.toNat 8
      v.toNat ∧ v.getLsbD 2 = true ∧ rd s (Reg.HDR.PG_CTL_FREEZE pg.toNat) = 0 ∧ kindOf pg.toNat = some (k, i) ∧ off
      ∈ frozenOffsets pg.toNat k i ∧ off < 4096) ∧
    (∃ (s : State) (m : Fin 16) (pg : BitVec 10) (off : Nat) (v : Word32), WritePasses s m pg.toNat 8 v.toNat ∧
      v.getLsbD 2 = false ∧ rd s (Reg.HDR.PG_CTL_FREEZE pg.toNat) ≠ 0 ∧ off < 4096) :=
  ⟨⟨up, 1, 10, .evt2, 2, 68, 4, by unfold WritePasses; decide, by decide, by decide, by decide, by decide, by decide⟩,
   ⟨has up [(Reg.HDR.PG_CTL_FREEZE 10, 1)], 1, 10, 68, 0, by unfold WritePasses; decide, by decide, by decide,
    by decide⟩⟩

/-- The hypotheses of each clause of `Obligations.RaisesOnce` are met. -/
theorem test_hypotheses_raises_once :
    (∃ (s : State) (id : Nat), rawSet s id = true) ∧
    (∃ (s : State) (id : Nat), rawSet s id = false) :=
  ⟨⟨has up [(Reg.HDR.PG_EVT_RAW_RAW 2, 1)], 64, by decide⟩,
   ⟨logging, 64, by decide⟩⟩

/-- The hypotheses of each clause of `Obligations.SummaryFollowsPages` are met. -/
theorem test_hypotheses_summary_follows_pages :
    ∃ (s : State) (w b : Nat), w < 32 ∧ b < 32 :=
  ⟨up, 0, 2, by decide, by decide⟩

/-- The hypotheses of each clause of `Obligations.RetiredPages` are met. -/
theorem test_hypotheses_retired_pages :
    (∃ (s : State) (m : Fin 16) (a : BitVec 40) (len : Fin 65) (fetch bad : Bool), MemPasses s 3 m a.toNat len (if
      fetch then 2 else 0) ∧ dramFree s m a.toNat = true ∧ isRetired s a.toNat = true) ∧
    (∃ (s : State) (m : Fin 16) (a : BitVec 40) (data : List Byte) (poison : Bool), MemPasses s 3 m a.toNat 64 1 ∧
      data.length = 64 ∧ dramFree s m a.toNat = true ∧ isRetired s a.toNat = true) ∧
    (∃ (s : State) (m : Fin 16) (a : BitVec 40) (data : List Byte) (poison : Bool) (bads : Fin 5), MemPasses s 3 m
      a.toNat data.length 1 ∧ data.length < 64 ∧ dramFree s m a.toNat = true ∧ isRetired s a.toNat = true) ∧
    (∃ (s : State) (m : Fin 16) (a : Nat) (data : List Byte) (bads : Nat), targetOf a = some 3 ∧ alignOk 3 (mkReq m
      a true false data.length data false bads) = true ∧ aclGrants s 3 m a 1 = true ∧ isRetired s a = true) ∧
    (∃ (s : State) (m : Fin 16) (a bads : Nat), m ≠ 3 ∧ targetOf a = some 3 ∧ a % 64 = 0 ∧ aclGrants s 3 m a 0 =
      true ∧ isRetired s a = true) ∧
    (∃ (s : State) (r : Req), r.dead = false ∧ r.master < 15 ∧ targetOf r.addr = some 3 ∧ alignOk 3 r = true ∧
      aclGrants s 3 r.master r.addr (aclKind r) = true ∧ dramFree s r.master r.addr = true ∧ isRetired s r.addr =
      true) :=
  ⟨⟨{ trained with memc := { trained.memc with retired := [0] } }, 1, 0x1000000000, 64, false, false,
    by unfold MemPasses; decide, by decide, by decide⟩,
   ⟨{ trained with memc := { trained.memc with retired := [0] } }, 1, 0x1000000000, List.replicate 64 1, false,
    by unfold MemPasses; decide, by decide, by decide, by decide⟩,
   ⟨{ trained with memc := { trained.memc with retired := [0] } }, 1, 0x1000000001, [1], false, 0,
    by unfold MemPasses; decide, by decide, by decide, by decide⟩,
   ⟨{ granting trained 14 with memc := { trained.memc with retired := [0] } }, 14, 0x1000000001, [1], 0, by decide,
    by decide, by decide, by decide⟩,
   ⟨{ trained with memc := { trained.memc with retired := [0] } }, 1, 0x1000000000, 0, by decide, by decide,
    by decide, by decide, by decide⟩,
   ⟨{ trained with memc := { trained.memc with retired := [0] } }, rq 1 0x1000000000, by decide, by decide,
    by decide, by decide, by decide, by decide, by decide⟩⟩

/-- The hypotheses of each clause of `Obligations.PoisonAndWeakLines` are met. -/
theorem test_hypotheses_poison_and_weak_lines :
    (∃ (s : State) (m : Fin 16) (a : BitVec 40) (data : List Byte) (poison : Bool), MemPasses s 3 m a.toNat 64 1 ∧
      data.length = 64 ∧ dramFree s m a.toNat = true ∧ isRetired s a.toNat = false) ∧
    (∃ (s : State) (m : Fin 16) (a : BitVec 40) (data : List Byte) (poison : Bool), MemPasses s 3 m a.toNat
      data.length 1 ∧ data.length < 64 ∧ dramFree s m a.toNat = true ∧ isRetired s a.toNat = false ∧ isWritten s
      a.toNat = true) ∧
    (∃ (s : State) (q : Refetch), s.memc.pending = [q] ∧ q.begun = true ∧ q.req.dead = false ∧ q.req.master < 16 ∧
      isPoison s (lineOf q.req.addr) = false ∧ badReads s (lineOf q.req.addr) 0 = 0 ∧ weakFree s.memc.weak = none ∧
      weakFind (lineOf q.req.addr) s.memc.weak = none) :=
  ⟨⟨trained, 1, 0x11FFFFFFC0, List.replicate 64 5, true, by unfold MemPasses; decide, by decide, by decide, by decide⟩,
   ⟨{ trained with mems := { up.mems with written := [(0, true)] } }, 1, 0x100000003F, [9], true,
    by unfold MemPasses; decide, by decide, by decide, by decide, by decide⟩,
   ⟨{ trained with memc := { up.memc with weak := (List.range 256).map (fun k => (k, (k + 1, 1))), pending := [⟨rq 4 0x1000000000, 3, true, none⟩] } },
    ⟨rq 4 0x1000000000, 3, true, none⟩, by decide, by decide, by decide, by decide, by decide, by decide, by decide,
    by decide⟩⟩

end Sys2Proof.Tests
end

/-! SUPPORT. Unmapped accesses (R25): which addresses have no target, what a request to such an address does when it
reaches the fabric, and when a master issues it to a fabric that is free. -/

namespace Sys2Proof.Machine

/-! ### Addresses without a target -/

/-- A choice whose first branch holds a value lacks one exactly when the second is taken and lacks one. -/
theorem ite_some_eq_none_iff {c : Prop} [Decidable c] {n : Nat} {o : Option Nat} :
    (if c then some n else o) = none ↔ ¬c ∧ o = none := by
  by_cases hc : c
  · rw [if_pos hc]
    exact iff_of_false (Option.some_ne_none n) fun h => h.1 hc
  · rw [if_neg hc]
    exact ⟨fun ho => ⟨hc, ho⟩, fun h => h.2⟩

/-- Every page of the register area that the page table assigns belongs to a target, and no other page does. -/
theorem targetOf_page_eq_none_iff {a : Nat} (hlo : 0x1000000 ≤ a) (hhi : a < 0x1400000) :
    targetOf a = none ↔ kindOf ((a - 0x1000000) / 4096) = none := by
  have hrom : ¬a < 0x10000 := by omega
  have hsram : ¬(0x8000000 ≤ a ∧ a < 0x8400000) := by omega
  have hflash : ¬(0x20000000 ≤ a ∧ a < 0x24000000) := by omega
  have hdram : ¬(0x1000000000 ≤ a ∧ a < 0x1200000000) := by omega
  have hseqt : ¬(0x1800000 ≤ a ∧ a < 0x1880000) := by omega
  unfold targetOf
  rw [if_neg hrom, if_neg hsram, if_neg hflash, if_neg hdram, if_neg hseqt, if_pos ⟨hlo, hhi⟩]
  dsimp only
  generalize (a - 0x1000000) / 4096 = pg
  cases kindOf pg with
  | none => exact iff_of_true (if_pos rfl) rfl
  | some k =>
    rw [if_neg (by simp)]
    refine iff_of_false ?_ (Option.some_ne_none k)
    simp only [ite_some_eq_none_iff, Option.some_ne_none, and_false, not_false_eq_true]

/-- Outside the register area an address has no target exactly when it lies in none of the other ranges of R24. -/
theorem targetOf_plain_eq_none_iff {a : Nat} (hp : ¬(0x1000000 ≤ a ∧ a < 0x1400000)) :
    targetOf a = none ↔ ¬(a < 0x10000 ∨ (0x8000000 ≤ a ∧ a < 0x8400000) ∨ (0x20000000 ≤ a ∧ a < 0x24000000)
      ∨ (0x1000000000 ≤ a ∧ a < 0x1200000000) ∨ (0x1800000 ≤ a ∧ a < 0x1880000)) := by
  unfold targetOf
  rw [if_neg hp]
  simp only [ite_some_eq_none_iff, not_or, and_true]

/-- The addresses without a target: the complement of the ranges of R24, and the unassigned pages. -/
theorem targetOf_eq_none_iff (a : Nat) : targetOf a = none ↔ ((0x10000 ≤ a ∧ a < 0x1000000)
    ∨ (0x1400000 ≤ a ∧ a < 0x1800000) ∨ (0x1880000 ≤ a ∧ a < 0x8000000) ∨ (0x8400000 ≤ a ∧ a < 0x20000000)
    ∨ (0x24000000 ≤ a ∧ a < 0x1000000000) ∨ 0x1200000000 ≤ a
    ∨ (0x1000000 ≤ a ∧ a < 0x1400000 ∧ kindOf ((a - 0x1000000) / 4096) = none)) := by
  by_cases hp : 0x1000000 ≤ a ∧ a < 0x1400000
  · obtain ⟨hlo, hhi⟩ := hp
    rw [targetOf_page_eq_none_iff hlo hhi]
    constructor
    · intro hk
      simp [hlo, hhi, hk]
    · rintro (h | h | h | h | h | h | ⟨-, -, hk⟩)
      case inr.inr.inr.inr.inr.inr => exact hk
      all_goals omega
  · have hpage : ¬(0x1000000 ≤ a ∧ a < 0x1400000 ∧ kindOf ((a - 0x1000000) / 4096) = none) :=
      fun ⟨hlo, hhi, _⟩ => hp ⟨hlo, hhi⟩
    rw [targetOf_plain_eq_none_iff hp, or_iff_left hpage]
    omega

/-! ### A request to such an address -/

section
variable {s : State} {r : Req}

/-- The port of a live request's master shows its completion (R31). -/
theorem lastDone_complete (c : Completion) (hd : r.dead = false) (hm : r.master < 16) :
    lastDone (complete s r c) r.master = c := by
  have hdone : (complete s r c).bus.done = vset s.bus.done r.master c := by
    unfold complete
    rw [if_neg (by simp [hd])]
    dsimp only
    split <;> split <;> rfl
  rw [lastDone, hdone, vget_vset, if_pos ⟨rfl, hm⟩]

/-- The parts that an access of master `m` may change. -/
theorem Scope.access_parts (m : Nat) : (Scope.access m).parts = ([.done m, .token] : List Part)
    ++ (if 4 ≤ m ∧ m < 12 then [.ses (m - 4)] else []) ++ (if m = 3 then [.spm] else []) := rfl

/-- A completion changes nothing but what `Scope.access` names. -/
theorem complete_keeps_access (s : State) (r : Req) (c : Completion) :
    Keeps (.access r.master) s (complete s r c) :=
  (Keeps.refl _ s).complete r c (by simp [Scope.access_parts])
    (fun h4 h12 => by simp [Scope.access_parts, h4, h12])
    (fun h3 => by simp [Scope.access_parts, h3])

/-- A request to an address without a target completes at once with BUS_ERR_UNMAPPED. -/
theorem reach_unmapped (ht : targetOf r.addr = none) : reach s r = complete s r (errC r .errUnmapped) := by
  unfold reach
  rw [ht]

/-! ### A request issued to a free fabric -/

/-- With nothing waiting, serving what waits changes nothing. -/
theorem serveWaiting_of_none_waits (h : s.bus.waiting = []) : serveWaiting s = s := by
  have hs : (s.onBus fun b => { b with waiting := [] }) = s := by
    rw [State.onBus, ← h]
  rw [serveWaiting, h, hs, List.foldl_nil]

/-- The state once the next token has been taken, as it is when a request is issued. -/
def takeToken (s : State) : State := s.onBus fun b => { b with token := b.token + 1 }

/-- What a free fabric is: up, its clock not being switched, with nothing waiting in it. -/
theorem fabricQuiet_iff : fabricQuiet s = true ↔
    fabricUp s = true ∧ domSwitching s 2 = false ∧ s.bus.waiting = [] ∧ s.bus.commits = [] := by
  simp only [fabricQuiet, Bool.and_eq_true, Bool.not_eq_true', List.isEmpty_iff, and_assoc]

/-- A request that finds the clock steady and nothing waiting goes to its target at once. -/
theorem offer_of_nothing_ahead (hsw : domSwitching s 2 = false) (hwait : s.bus.waiting = [])
    (hcommit : s.bus.commits = []) : offer s r = reach s r := by
  simp [offer, waitsBehind, hsw, hwait, hcommit]

/-- A free fabric hands a request that its master issues to the target at once. -/
theorem issue_of_fabricQuiet (hq : fabricQuiet s = true) (hm : masterIssues s r = true) :
    issue s r = serveWaiting (reach (takeToken s) (stamped s r)) := by
  obtain ⟨hup, hsw, hwait, hcommit⟩ := fabricQuiet_iff.mp hq
  have hissued : issue s r = serveWaiting (offer (takeToken s) (stamped s r)) := if_pos (by rw [hup, hm]; rfl)
  rw [hissued, offer_of_nothing_ahead (s := takeToken s) hsw hwait hcommit]

/-- Taking a token changes nothing but the token. -/
theorem takeToken_keeps_access (s : State) (m : Nat) : Keeps (.access m) s (takeToken s) :=
  (Keeps.refl _ s).hide rfl fun p hp => by
    cases p with
    | token => exact absurd (by simp [Scope.access_parts]) hp
    | dram => exact ⟨rfl, rfl, rfl⟩
    | _ => rfl

/-- A request that a master issues to a free fabric, to an address without a target, completes with BUS_ERR_UNMAPPED
and does nothing else. -/
theorem issue_unmapped (hq : fabricQuiet s = true) (hm : masterIssues s r = true) (ht : targetOf r.addr = none)
    (hd : r.dead = false) (h16 : r.master < 16) :
    lastDone (issue s r) r.master = errC r .errUnmapped ∧ Keeps (.access r.master) s (issue s r) := by
  obtain ⟨-, -, hwait, -⟩ := fabricQuiet_iff.mp hq
  have hkeeps : Keeps (.access r.master) s (reach (takeToken s) (stamped s r)) := by
    rw [reach_unmapped (r := stamped s r) ht]
    exact (takeToken_keeps_access s r.master).trans (complete_keeps_access _ (stamped s r) _)
  have hnone : (reach (takeToken s) (stamped s r)).bus.waiting = [] :=
    (hkeeps.part .waiting (by simp [Scope.access_parts])).trans hwait
  rw [issue_of_fabricQuiet hq hm, serveWaiting_of_none_waits hnone]
  refine ⟨?_, hkeeps⟩
  rw [reach_unmapped (r := stamped s r) ht]
  exact lastDone_complete (r := stamped s r) _ hd h16

/-! ### The commands that carry an access -/

/-- A command that issues one request to an address without a target, to a free fabric. -/
theorem gives_unmapped {c : Instr} (hc : exec c s = .next (issue s r)) (hq : fabricQuiet s = true)
    (hm : masterIssues s r = true) (ht : targetOf r.addr = none) (hd : r.dead = false) (h16 : r.master < 16) :
    Gives c s fun t => lastDone t r.master = errC r .errUnmapped ∧ Keeps (.access r.master) s t :=
  ⟨_, hc, issue_unmapped hq hm ht hd h16⟩

/-- The register rows take an address without a target. -/
theorem plainAddr_unmapped {a : Nat} (ht : targetOf a = none) : plainAddr a = true := by
  simp [plainAddr, ht]

/-- The memory rows take an address without a target. -/
theorem memIssue_unmapped (t : Nat) {ok : Bool} (hok : ok = true) (ht : targetOf r.addr = none) :
    memIssue s t ok r = issue s r := by
  simp [memIssue, hok, ht]

section
variable (m : Fin 16) {a : BitVec 40} (ht : targetOf a.toNat = none)
include ht

theorem exec_registerWrite_unmapped (v : Word32) (poison : Bool) : exec (.registerWrite m a v poison) s
    = .next (issue s (mkReq m a.toNat true false 4 (toLE 4 v.toNat) poison 0)) :=
  congrArg _ (if_pos (plainAddr_unmapped ht))

theorem exec_lowHalfRead_unmapped (fetch : Bool) : exec (.lowHalfRead m a fetch) s
    = .next (issue s (mkReq m a.toNat false fetch 4 [] false 0)) :=
  congrArg _ (if_pos (plainAddr_unmapped ht))

theorem exec_highHalfRead_unmapped (fetch : Bool) : exec (.highHalfRead m a fetch) s
    = .next (issue s (mkReq m a.toNat false fetch 4 [] false 0)) :=
  congrArg _ (if_pos (plainAddr_unmapped ht))

theorem exec_dramRead_unmapped (len : Fin 65) (fetch bad : Bool) (hlen : 0 < len.val) :
    exec (.dramRead m a len fetch bad) s = .next (issue s (mkReq m a.toNat false fetch len [] false (b2n bad))) :=
  congrArg _ (memIssue_unmapped 3 (by simp; omega) ht)

theorem exec_dramWrite_unmapped {data : List Byte} (poison : Bool) (hlen : data.length = 64) :
    exec (.dramWrite m a data poison) s
      = .next (issue s (mkReq m a.toNat true false data.length data poison 0)) :=
  congrArg _ (memIssue_unmapped 3 (by simp [hlen]) ht)

theorem exec_dramPartialWrite_unmapped {data : List Byte} (poison : Bool) (bads : Fin 5) (hpos : 0 < data.length)
    (hlt : data.length < 64) : exec (.dramPartialWrite m a data poison bads) s
      = .next (issue s (mkReq m a.toNat true false data.length data poison bads)) :=
  congrArg _ (memIssue_unmapped 3 (by simp [hlt, List.length_pos_iff.mp hpos]) ht)

/-- The read goes to the fabric where the pair's own cache does not answer it (R608). -/
theorem exec_flashWindowRead_unmapped (len : Fin 65) (fetch : Bool) (hlen : 0 < len.val)
    (hmiss : cacheHit s (mkReq m a.toNat false fetch len [] false 0) = none) :
    exec (.flashWindowRead m a len fetch) s = .next (issue s (mkReq m a.toNat false fetch len [] false 0)) := by
  have hfabric : flashWindowRead m a len fetch s
      = memIssue s 2 (len.val != 0) (mkReq m a.toNat false fetch len [] false 0) := by
    simp only [flashWindowRead, hmiss, ite_self]
  exact congrArg _ (hfabric.trans (memIssue_unmapped 2 (by simp; omega) ht))

theorem exec_flashWindowWrite_unmapped {data : List Byte} (poison : Bool) (hpos : 0 < data.length)
    (hle : data.length ≤ 64) : exec (.flashWindowWrite m a data poison) s
      = .next (issue s (mkReq m a.toNat true false data.length data poison 0)) :=
  congrArg _ (memIssue_unmapped 2 (by simp [hle, List.length_pos_iff.mp hpos]) ht)

end

end

/-! ### The statement -/

/-- Settles O51: every command that carries an access issues one request, which reaches the fabric at once and
completes there. -/
theorem unmappedAccesses : Obligations.UnmappedAccesses := by
  unfold Obligations.UnmappedAccesses
  refine ⟨targetOf_eq_none_iff, ?registerWrite, ?lowHalfRead, ?highHalfRead, ?memoryReads, ?memoryWrites, ?reach⟩
  case registerWrite =>
    intro s m a v poison hq hm ht
    exact gives_unmapped (exec_registerWrite_unmapped m ht v poison) hq hm ht rfl m.isLt
  case lowHalfRead =>
    intro s m a fetch hq hm ht
    exact gives_unmapped (exec_lowHalfRead_unmapped m ht fetch) hq hm ht rfl m.isLt
  case highHalfRead =>
    intro s m a fetch hq hm ht
    exact gives_unmapped (exec_highHalfRead_unmapped m ht fetch) hq hm ht rfl m.isLt
  case memoryReads =>
    intro s m a len fetch bad hq hm ht hlen
    exact ⟨gives_unmapped (exec_dramRead_unmapped m ht len fetch bad hlen) hq hm ht rfl m.isLt,
      fun hmiss => gives_unmapped (exec_flashWindowRead_unmapped m ht len fetch hlen hmiss) hq hm ht rfl m.isLt⟩
  case memoryWrites =>
    intro s m a data poison bads hq hm ht hpos hle
    refine ⟨?_, gives_unmapped (exec_flashWindowWrite_unmapped m ht poison hpos hle) hq hm ht rfl m.isLt⟩
    by_cases hline : data.length = 64
    · rw [if_pos hline]
      exact gives_unmapped (exec_dramWrite_unmapped m ht poison hline) hq hm ht rfl m.isLt
    · rw [if_neg hline]
      exact gives_unmapped (exec_dramPartialWrite_unmapped m ht poison bads hpos (by omega)) hq hm ht rfl m.isLt
  case reach =>
    intro s r hd hm ht
    rw [reach_unmapped ht]
    exact ⟨lastDone_complete _ hd hm, complete_keeps_access s r _⟩

end Sys2Proof.Machine

/-! SUPPORT. The summary registers of EVT (R177): which bits a mask has, what the registers read, and when some bit of
the summaries is 1. -/

namespace Sys2Proof.Machine

/-! ### Masks of lists -/

/-- The mask of a list has the bits that the list names. -/
theorem bit_listMask (l : List Nat) (j : Nat) : bit (listMask l) j = decide (j ∈ l) := by
  induction l with
  | nil => simp [listMask, bit]
  | cons i t ih =>
    rw [listMask, bit_setBit, ih, Bool.eq_iff_iff]
    simp only [Bool.or_eq_true, decide_eq_true_eq, beq_iff_eq, List.mem_cons]
    rw [or_comm, @eq_comm _ i j]

/-- A mask of the numbers below `n` that meet a condition shows the condition. -/
theorem bit_listMask_filter_range {n j : Nat} (p : Nat → Bool) (h : j < n) :
    bit (listMask ((List.range n).filter p)) j = p j := by
  simp [bit_listMask, List.mem_filter, h]

/-- A mask is other than zero exactly when its list names some bit. -/
theorem listMask_ne_zero_iff (l : List Nat) : listMask l ≠ 0 ↔ ∃ i, i ∈ l := by
  constructor
  · intro hne
    obtain ⟨i, hi⟩ := Nat.exists_testBit_of_ne_zero hne
    exact ⟨i, of_decide_eq_true ((bit_listMask l i).symm.trans hi)⟩
  · rintro ⟨i, hi⟩ hzero
    have hbit := bit_listMask l i
    rw [hzero, decide_eq_true hi] at hbit
    simp [bit] at hbit

/-- Some pair of digits to base `n` meets a condition exactly when some number with these digits does. -/
theorem any_range_digits (m n : Nat) (p : Nat → Nat → Bool) :
    (List.range (m * n)).any (fun k => p (k / n) (k % n)) = (List.range m).any (fun i => (List.range n).any (p i)) := by
  rw [Bool.eq_iff_iff]
  simp only [List.any_eq_true, List.mem_range]
  constructor
  · rintro ⟨k, hk, hp⟩
    have hn : 0 < n := Nat.pos_of_lt_mul_left hk
    exact ⟨k / n, Nat.div_lt_of_lt_mul (by rwa [Nat.mul_comm]), k % n, Nat.mod_lt k hn, hp⟩
  · rintro ⟨i, hi, b, hb, hp⟩
    refine ⟨n * i + b, ?_, ?_⟩
    · calc n * i + b < n * (i + 1) := by rw [Nat.mul_succ]; omega
        _ ≤ n * m := Nat.mul_le_mul_left n hi
        _ = m * n := Nat.mul_comm n m
    · rwa [Nat.mul_add_div (by omega), Nat.div_eq_of_lt hb, Nat.add_zero, Nat.mul_add_mod, Nat.mod_eq_of_lt hb]

/-! ### What the summary registers read -/

section
variable (s : State)

/-- PG_EVT_SUM of an assigned page reads its summary; an unassigned page reads 0. -/
theorem nowWord_evtSum_ne_zero (pg : Nat) :
    (nowWord s pg 28 != 0) = ((kindOf pg).isSome && evtSum s pg != 0) := by
  unfold nowWord
  cases kindOf pg with
  | none => rfl
  | some k => simp [headerWord]

/-- EVT[0].GSUM[w] reads the summary word of its 32 pages. -/
theorem nowWord_gsum {w : Nat} (hw : w < 32) : nowWord s Reg.EVT0.page (128 + 4 * w) = gsum s w := by
  have hkind : kindOf Reg.EVT0.page = some (.evt0, 0) := by decide
  have hbody : ¬128 + 4 * w < 64 := by omega
  have hany : 128 + 4 * w ≠ 64 := by omega
  have hrange : 128 ≤ 128 + 4 * w ∧ 128 + 4 * w < 256 := by omega
  simp [nowWord, hkind, hbody, viewWord, hany, hrange]

/-- EVT[0].GSUM_ANY reads 1 while some summary word is other than zero. -/
theorem nowWord_gsumAny :
    nowWord s Reg.EVT0.page 64 = b2n ((List.range 32).any (fun w => gsum s w != 0)) := by
  have hkind : kindOf Reg.EVT0.page = some (.evt0, 0) := by decide
  simp [nowWord, hkind, viewWord]

/-- Bit `b` of a summary word is 1 while page `32 * w + b` reads a PG_EVT_SUM other than zero. -/
theorem bit_gsum (w : Nat) {b : Nat} (hb : b < 32) : bit (gsum s w) b = (nowWord s (32 * w + b) 28 != 0) := by
  rw [gsum, bit_listMask_filter_range _ hb, nowWord_evtSum_ne_zero]

/-- A summary word is other than zero exactly when one of its 32 bits is 1. -/
theorem gsum_ne_zero (w : Nat) : (gsum s w != 0) = (List.range 32).any (bit (gsum s w)) := by
  rw [Bool.eq_iff_iff, bne_iff_ne, List.any_eq_true, gsum, listMask_ne_zero_iff]
  constructor
  · rintro ⟨b, hmem⟩
    exact ⟨b, (List.mem_filter.mp hmem).1, (bit_listMask _ b).trans (decide_eq_true hmem)⟩
  · rintro ⟨b, -, hbit⟩
    exact ⟨b, of_decide_eq_true ((bit_listMask _ b).symm.trans hbit)⟩

end

/-- The one bit of a Boolean's number is the Boolean. -/
theorem bit_b2n_zero (c : Bool) : bit (b2n c) 0 = c := by
  cases c <;> rfl

/-! ### The statement -/

/-- Settles O58: the bits of GSUM are read off the mask, and GSUM_ANY collects them word by word. -/
theorem summaryFollowsPages : Obligations.SummaryFollowsPages := by
  unfold Obligations.SummaryFollowsPages
  refine ⟨fun s w b hw hb => ?bitOfPage, fun s => ?orOfBits⟩
  case bitOfPage => rw [nowWord_gsum s hw, bit_gsum s w hb]
  case orOfBits =>
    calc bit (nowWord s Reg.EVT0.page 64) 0
        = (List.range 32).any (fun w => gsum s w != 0) := by rw [nowWord_gsumAny, bit_b2n_zero]
      _ = (List.range 32).any (fun w => (List.range 32).any (bit (gsum s w))) := by simp only [gsum_ne_zero]
      _ = (List.range 1024).any (fun n => bit (gsum s (n / 32)) (n % 32)) :=
        (any_range_digits 32 32 fun w b => bit (gsum s w) b).symm
      _ = (List.range 1024).any (fun n => bit (nowWord s Reg.EVT0.page (128 + 4 * (n / 32))) (n % 32)) := by
        rw [Bool.eq_iff_iff]
        simp only [List.any_eq_true, List.mem_range]
        refine exists_congr fun n => and_congr_right fun hn => ?_
        rw [nowWord_gsum s (by omega : n / 32 < 32)]

end Sys2Proof.Machine

/-! SUPPORT. Accesses to stacked memory that are answered at once (R507, R512, R514, R523) and a recovery that finds
the weak-line table full (R520): what reaches the memory controller, what a completion and a raise leave, and what
the answer records. -/

namespace Sys2Proof.Machine

/-! ### What a raise and a completion leave -/

theorem raise_bus (s : State) (id : Nat) : (raise s id).bus = s.bus := by
  have := (raise_raising s id).same; unfold SameBut at this; rw [this]

theorem raise_memc (s : State) (id : Nat) : (raise s id).memc = s.memc := by
  have := (raise_raising s id).same; unfold SameBut at this; rw [this]

/-- A completion leaves the fields in effect, the memory controller and the requests that wait in the fabric. -/
theorem complete_frame (s : State) (r : Req) (c : Completion) : (complete s r c).regs = s.regs
    ∧ (complete s r c).memc = s.memc ∧ (complete s r c).bus.waiting = s.bus.waiting := by
  unfold complete
  split
  · exact ⟨rfl, rfl, rfl⟩
  · dsimp only
    split <;> split <;> exact ⟨rfl, rfl, rfl⟩

theorem complete_regs (s : State) (r : Req) (c : Completion) : (complete s r c).regs = s.regs :=
  (complete_frame s r c).1

theorem complete_memc (s : State) (r : Req) (c : Completion) : (complete s r c).memc = s.memc :=
  (complete_frame s r c).2.1

theorem complete_waiting (s : State) (r : Req) (c : Completion) : (complete s r c).bus.waiting = s.bus.waiting :=
  (complete_frame s r c).2.2

theorem rd_complete (s : State) (r : Req) (c : Completion) (f : Fld) : rd (complete s r c) f = rd s f :=
  rd_congr (complete_regs s r c) f

/-! ### Counters and records -/

theorem satAdd_lt (w v n : Nat) : satAdd w v n < 2 ^ w := by
  unfold satAdd
  have := Nat.two_pow_pos w
  split <;> omega

/-- A saturating counter after it counts. -/
theorem rd_bump_same (s : State) (f : Fld) (n : Nat) : rd (bump s f n) f = satAdd f.width (rd s f) n :=
  (rd_wr_same f _).trans (Nat.mod_eq_of_lt (satAdd_lt _ _ _))

/-- Several fields set, each in a place of its own, hold what they were set to. -/
theorem rd_wrAll_of_mem {f : Fld} {v : Nat} {l : List (Fld × Nat)}
    (hp : l.Pairwise fun e d => d.1.apart e.1 = true) (hm : (f, v) ∈ l) (s : State) :
    rd (wrAll s l) f = v % 2 ^ f.width := by
  induction l generalizing s with
  | nil => exact absurd hm List.not_mem_nil
  | cons e l ih =>
    obtain ⟨hhead, htail⟩ := List.pairwise_cons.mp hp
    rcases List.mem_cons.mp hm with rfl | hin
    · refine (rd_wrAll_apart l _ ?_).trans (rd_wr_same f v)
      rw [List.all_eq_true]
      exact fun d hd => Bool.or_eq_true_iff.mpr (.inl (hhead d hd))
    · exact ih htail hin _

theorem b2n_mod_two (c : Bool) : b2n c % 2 = b2n c := by
  cases c <;> rfl

/-- The counter of an event, once the event is counted and raised. -/
theorem rd_raise_bump (s : State) {f : Fld} (id : Nat) (hf : f.calm = true) :
    rd (raise (bump s f 1) id) f = satAdd f.width (rd s f) 1 :=
  ((raise_raising _ id).calm f hf).trans (rd_bump_same s f 1)

/-- Another field, which no raise writes, once an event is counted and raised. -/
theorem rd_raise_bump_apart (s : State) {f g : Fld} (id : Nat) (hg : g.calm = true) (hfg : f.apart g = true) :
    rd (raise (bump s f 1) id) g = rd s g :=
  ((raise_raising _ id).calm g hg).trans (rd_bump_apart 1 hfg)

/-- The fields that record an access to a retired page. -/
def hitRecord (r : Req) : List (Fld × Nat) :=
  [(Reg.RETIRE.HIT_LAST_PAGE, dramOff r.addr / 65536), (Reg.RETIRE.HIT_LAST_MASTER, r.master),
    (Reg.RETIRE.HIT_LAST_WRITE, b2n r.write), (Reg.RETIRE.HIT_LAST_VALID, 1)]

theorem hitRecord_pairwise (r : Req) : (hitRecord r).Pairwise fun e d => d.1.apart e.1 = true := by
  simp only [hitRecord, List.pairwise_cons, List.forall_mem_cons, List.not_mem_nil, false_imp_iff, implies_true,
    and_true, List.Pairwise.nil]
  decide

theorem hitRecord_apart_count (r : Req) : ((hitRecord r).all fun e =>
    e.1.apart Reg.RETIRE.HIT_CNT_COUNT || e.1.afar Reg.RETIRE.HIT_CNT_COUNT) = true := by
  simp only [hitRecord, List.all_cons, List.all_nil]
  decide

theorem retiredHit_eq (s : State) (r : Req) : retiredHit s r
    = raise (bump (wrAll s (hitRecord r)) Reg.RETIRE.HIT_CNT_COUNT 1) Reg.RETIRE.evRETIRED_HIT := rfl

/-- What `retiredHit` records, counts and raises is what R523 asks for. -/
theorem retiredHit_hitKept (s : State) {r : Req} (hm : r.master < 16) :
    HitKept s (retiredHit s r) r.master r.addr (b2n r.write) := by
  have hfield (f : Fld) (v : Nat) (hcalm : f.calm = true) (hapart : Reg.RETIRE.HIT_CNT_COUNT.apart f = true)
      (hmem : (f, v) ∈ hitRecord r) : rd (retiredHit s r) f = v % 2 ^ f.width :=
    (rd_raise_bump_apart _ _ hcalm hapart).trans (rd_wrAll_of_mem (hitRecord_pairwise r) hmem s)
  have hpage := hfield Reg.RETIRE.HIT_LAST_PAGE (dramOff r.addr / 65536) rfl rfl (by simp [hitRecord])
  have hmaster := hfield Reg.RETIRE.HIT_LAST_MASTER r.master rfl rfl (by simp [hitRecord])
  have hwrite := hfield Reg.RETIRE.HIT_LAST_WRITE (b2n r.write) rfl rfl (by simp [hitRecord])
  have hvalid := hfield Reg.RETIRE.HIT_LAST_VALID 1 rfl rfl (by simp [hitRecord])
  have hcount : rd (retiredHit s r) Reg.RETIRE.HIT_CNT_COUNT = satAdd 32 (rd s Reg.RETIRE.HIT_CNT_COUNT) 1 := by
    rw [retiredHit_eq, rd_raise_bump _ _ rfl, rd_wrAll_apart _ s (hitRecord_apart_count r)]
    rfl
  exact ⟨hpage, hmaster.trans (Nat.mod_eq_of_lt hm), hwrite.trans (b2n_mod_two r.write), hvalid, hcount,
    rawSet_raise _ _⟩

theorem retiredHit_bus (s : State) (r : Req) : (retiredHit s r).bus = s.bus := by
  unfold retiredHit
  rw [raise_bus]
  simp

/-- The record of a hit is read off the fields in effect. -/
theorem HitKept.congr {s s' u u' : State} {m a w : Nat} (h : HitKept s u m a w) (hs : s'.regs = s.regs)
    (hu : u'.regs = u.regs) : HitKept s' u' m a w := by
  unfold HitKept Raised rawSet at *
  simp only [rd_congr hs, rd_congr hu]
  exact h

/-! ### Requests that the memory answers at once -/

/-- The access tables read nothing but the fields in effect. -/
theorem aclGrants_congr {s u : State} (h : u.regs = s.regs) (t m a kind : Nat) :
    aclGrants u t m a kind = aclGrants s t m a kind := by
  have hcovers (r unit : Nat) : rgnCovers u t r unit = rgnCovers s t r unit := by
    simp only [rgnCovers, rdb, rd_congr h]
  have hfirst : ∀ l, firstRgn u t (a / 4096) l = firstRgn s t (a / 4096) l := by
    intro l
    induction l with
    | nil => rfl
    | cons r l ih => simp only [firstRgn, hcovers, ih]
  simp only [aclGrants, hfirst, rightsIn, rd_congr h]

/-- A table grants nothing to a master above 14 (R22, R572). -/
theorem master_lt_of_aclGrants {s : State} {t m a kind : Nat} (h : aclGrants s t m a kind = true) : m < 15 :=
  of_decide_eq_true (Bool.and_eq_true_iff.mp h).1

/-- Every access that a target accepts has at least one byte (R30). -/
theorem size_pos_of_alignOk {t : Nat} {r : Req} (h : alignOk t r = true) : 0 < r.size := by
  unfold alignOk at h
  split at h <;> simp only [Bool.and_eq_true, decide_eq_true_eq] at h <;> omega

/-- A request to stacked memory passes the checks before the retirement table (R507), and nothing is ahead of it. -/
structure DramAtOnce (s : State) (r : Req) : Prop where
  target : targetOf r.addr = some 3
  align  : alignOk 3 r = true
  grant  : aclGrants s 3 r.master r.addr (aclKind r) = true
  free   : dramFree s r.master r.addr = true

/-- With nothing ahead of it, an access is served, and what waits stays as it is. -/
theorem dramAccept_of_dramFree {s : State} {r : Req} (v : Option Status) (h : dramFree s r.master r.addr = true) :
    dramAccept s r v = (dramServe (s.onMemc fun m => { m with pending := [] }) r v []).onMemc fun m =>
      { m with pending := s.memc.pending ++ m.pending } := by
  obtain ⟨hall, hyields⟩ := Bool.and_eq_true_iff.mp h
  have hbehind : s.memc.pending.any (dramBehind r v) = false := by
    rw [List.any_eq_false]
    intro q hq
    have hapart := List.all_eq_true.mp hall q hq
    simp only [Bool.and_eq_true, bne_iff_ne, ne_eq] at hapart
    simp [dramBehind, hapart]
  have hturn : dramYields s r v = false := by
    cases v with
    | some e => rfl
    | none => exact (Bool.not_eq_true' _).mp hyields
  simp only [dramAccept, hbehind, hturn, Bool.or_self, Bool.false_eq_true, if_false]

theorem onMemc_onMemc (s : State) (f g : MemH → MemH) : (s.onMemc f).onMemc g = s.onMemc (g ∘ f) := rfl

theorem shareCharge_eq_onMemc (s : State) (r : Req) : ∃ f, shareCharge s r = s.onMemc f := by
  unfold shareCharge
  dsimp only
  split
  · exact ⟨id, rfl⟩
  · exact ⟨_, rfl⟩

section
variable {s : State} {r : Req} (h : DramAtOnce s r)
include h

theorem DramAtOnce.reach_eq : reach s r = dramAccept s r (if isRetired s r.addr then some .errRetired else none) := by
  have hverdict : dramVerdict s r = if isRetired s r.addr then some .errRetired else none := by
    simp [dramVerdict, h.align, h.grant]
  have hdenied : dramVerdict s r ≠ some .errDenied := by
    rw [hverdict]
    split <;> simp
  unfold reach
  rw [h.target]
  change dramAccept (if dramVerdict s r = some .errDenied then _ else s) r (dramVerdict s r) = _
  rw [if_neg hdenied, hverdict]

/-- An access to a retired page is refused on the spot, whatever it would have done (R523). -/
theorem DramAtOnce.reach_retired (hret : isRetired s r.addr = true) : ∃ f g, reach s r
    = (complete (retiredHit (s.onMemc f) r) r (errC r .errRetired)).onMemc g := by
  rw [h.reach_eq, if_pos hret, dramAccept_of_dramFree _ h.free]
  simp only [dramServe, dramRefuse, if_true, onMemc_onMemc]
  exact ⟨_, _, rfl⟩

/-- A write to a page in service completes with what `dramWriteLive` answers (R507). -/
theorem DramAtOnce.reach_write (hret : isRetired s r.addr = false) (hw : r.write = true) : ∃ f g, reach s r
    = (complete (dramWriteLive (s.onMemc f) r r.bads).1 r (dramWriteLive (s.onMemc f) r r.bads).2).onMemc g := by
  obtain ⟨f, hf⟩ := shareCharge_eq_onMemc (s.onMemc fun m => { m with pending := [] }) r
  rw [h.reach_eq, if_neg (by simp [hret]), dramAccept_of_dramFree _ h.free]
  simp only [dramServe, hf, dramRereads, hw, Bool.not_true, Bool.false_and, Bool.false_eq_true, if_false, if_true,
    onMemc_onMemc]
  exact ⟨_, _, rfl⟩

theorem DramAtOnce.master_lt : r.master < 16 := Nat.lt_succ_of_lt (master_lt_of_aclGrants h.grant)

/-- What the memory refuses for a retired page, at the master's port and in RETIRE (R523). -/
theorem DramAtOnce.retired_refused (hret : isRetired s r.addr = true) (hd : r.dead = false) :
    lastDone (reach s r) r.master = errC r .errRetired ∧ HitKept s (reach s r) r.master r.addr (b2n r.write) := by
  obtain ⟨f, g, hreach⟩ := h.reach_retired hret
  rw [hreach]
  exact ⟨lastDone_complete _ hd h.master_lt,
    (retiredHit_hitKept (s.onMemc f) h.master_lt).congr rfl (complete_regs _ r _)⟩

end

/-! ### The commands that carry an access to stacked memory -/

/-- Issuing a request to a free fabric does no more than its target does, where that leaves what waits as it is. -/
theorem issue_eq_reach {s : State} {r : Req} (hq : fabricQuiet s = true) (hm : masterIssues s r = true)
    (hkept : (reach (takeToken s) (stamped s r)).bus.waiting = s.bus.waiting) :
    issue s r = reach (takeToken s) (stamped s r) := by
  obtain ⟨-, -, hwait, -⟩ := fabricQuiet_iff.mp hq
  rw [issue_of_fabricQuiet hq hm, serveWaiting_of_none_waits (hkept.trans hwait)]

/-- The checks of an access speak of the request alone that carries it. -/
theorem MemPasses.request {s : State} {t : Nat} {r : Req} (h : MemPasses s t r.master r.addr r.size (aclKind r)) :
    fabricQuiet s = true ∧ masterIssues s r = true ∧ targetOf r.addr = some t ∧ alignOk t r = true
      ∧ aclGrants s t r.master r.addr (aclKind r) = true := by
  have hwrite : (aclKind r == 1) = r.write := by
    unfold aclKind
    cases r.write <;> cases r.fetch <;> rfl
  obtain ⟨hquiet, hissues, htarget, halign, hgrant⟩ := h
  rw [hwrite] at hissues
  exact ⟨hquiet, hissues, htarget, halign, hgrant⟩

/-- A command that does no more than issue one request to stacked memory, which passes its checks there at once. -/
structure CarriesDram (c : Instr) (s : State) (r : Req) : Prop where
  runs   : exec c s = .next (issue s r)
  quiet  : fabricQuiet s = true
  issues : masterIssues s r = true
  atOnce : DramAtOnce (takeToken s) (stamped s r)

theorem CarriesDram.of_memPasses {c : Instr} {s : State} {r : Req} {ok : Bool}
    (hp : MemPasses s 3 r.master r.addr r.size (aclKind r)) (hf : dramFree s r.master r.addr = true)
    (hc : exec c s = .next (memIssue s 3 ok r)) (hok : 0 < r.size → ok = true) : CarriesDram c s r := by
  obtain ⟨hquiet, hissues, htarget, halign, hgrant⟩ := hp.request
  refine ⟨?_, hquiet, hissues, htarget, halign, (aclGrants_congr rfl 3 _ _ _).trans hgrant, hf⟩
  rw [hc, memIssue, hok (size_pos_of_alignOk halign), htarget]
  rfl

section
variable {s : State} {m : Fin 16} {a : BitVec 40} {data : List Byte}

theorem carriesDram_dramRead {len : Fin 65} {fetch : Bool} (bad : Bool)
    (hp : MemPasses s 3 m a.toNat len (if fetch then 2 else 0)) (hf : dramFree s m a.toNat = true) :
    CarriesDram (.dramRead m a len fetch bad) s (mkReq m a.toNat false fetch len [] false (b2n bad)) :=
  .of_memPasses hp hf rfl fun hpos => bne_iff_ne.mpr (Nat.ne_of_gt hpos)

theorem carriesDram_dramWrite (poison : Bool) (hp : MemPasses s 3 m a.toNat 64 1) (hlen : data.length = 64)
    (hf : dramFree s m a.toNat = true) :
    CarriesDram (.dramWrite m a data poison) s (mkReq m a.toNat true false data.length data poison 0) :=
  .of_memPasses (hlen ▸ hp) hf rfl fun _ => beq_iff_eq.mpr hlen

theorem carriesDram_dramPartialWrite (poison : Bool) (bads : Fin 5) (hp : MemPasses s 3 m a.toNat data.length 1)
    (hlt : data.length < 64) (hf : dramFree s m a.toNat = true) : CarriesDram (.dramPartialWrite m a data poison bads) s
      (mkReq m a.toNat true false data.length data poison bads) :=
  .of_memPasses hp hf rfl fun hpos =>
    Bool.and_eq_true_iff.mpr ⟨bne_iff_ne.mpr (Nat.ne_of_gt hpos), decide_eq_true hlt⟩

end

/-- A command whose request is completed where it reaches the memory gives what the completion leaves. -/
theorem CarriesDram.gives_of_complete {c : Instr} {s u : State} {r : Req} {x : Completion} {g : MemH → MemH}
    {P : State → Prop} (h : CarriesDram c s r) (hd : r.dead = false)
    (hreach : reach (takeToken s) (stamped s r) = (complete u (stamped s r) x).onMemc g)
    (hwaiting : u.bus.waiting = s.bus.waiting)
    (hP : ∀ t : State, lastDone t r.master = x → t.regs = u.regs → t.mems = u.mems → P t) : Gives c s P := by
  have hkept : (reach (takeToken s) (stamped s r)).bus.waiting = s.bus.waiting := by
    rw [hreach]
    exact (complete_waiting _ _ _).trans hwaiting
  refine ⟨_, h.runs, ?_⟩
  rw [issue_eq_reach h.quiet h.issues hkept, hreach]
  exact hP _ (lastDone_complete (r := stamped s r) _ hd h.atOnce.master_lt) (complete_regs _ _ _) (complete_mems _ _ _)

/-- A command that carries an access to a retired page. -/
theorem CarriesDram.gives_retired {c : Instr} {s : State} {r : Req} (h : CarriesDram c s r)
    (hret : isRetired s r.addr = true) (hd : r.dead = false) :
    Gives c s fun t => lastDone t r.master = errC r .errRetired ∧ HitKept s t r.master r.addr (b2n r.write) := by
  obtain ⟨f, g, hreach⟩ := h.atOnce.reach_retired hret
  refine h.gives_of_complete hd hreach ?_ fun t hdone hregs _ => ⟨hdone, ?_⟩
  · rw [retiredHit_bus]
    rfl
  · exact (retiredHit_hitKept ((takeToken s).onMemc f) h.atOnce.master_lt).congr rfl hregs

/-- A DMA master's access to a retired page. -/
theorem dmaReq_retired {s : State} {r : Req} (bads : Nat) (ht : targetOf r.addr = some 3) (ha : alignOk 3 r = true)
    (hg : aclGrants s 3 r.master r.addr (aclKind r) = true) (hret : isRetired s r.addr = true) :
    dmaReq s r bads = (retiredHit s r, errC r .errRetired) := by
  simp [dmaReq, ht, ha, hg, hret]

/-! ### Poison -/

/-- Whether a line is stored-poison is read off its stored check and its bytes. -/
theorem isPoison_congr {s t : State} (h : t.mems = s.mems) (line : Nat) : isPoison t line = isPoison s line := by
  simp only [isPoison, storedCheck, lineCheck, h]

/-- A check differs from its complement. -/
theorem xor_mask_ne (c : Nat) : c ^^^ 0xFFFFFFFF ≠ c := fun h => by
  have hzero : 0xFFFFFFFF = 0 := calc
    0xFFFFFFFF = c ^^^ (c ^^^ 0xFFFFFFFF) := by rw [← Nat.xor_assoc, Nat.xor_self, Nat.zero_xor]
    _ = 0 := by rw [h, Nat.xor_self]
  exact absurd hzero (by decide)

/-- A check that is stored complemented reads stored-poison, and one stored as it is does not (R508). -/
theorem lineRead_xor_mask (c : Nat) (p : Bool) :
    (lineRead (c ^^^ if p then 0xFFFFFFFF else 0) c == .poison) = p := by
  cases p with
  | false => simp [lineRead]
  | true => simp [lineRead, xor_mask_ne c]

/-- What is stored with its poison bit leaves a stored-poison line, and without it none (R512). -/
theorem isPoison_storeDram (s : State) (a : Nat) (data : List Byte) (poison : Bool) :
    isPoison (storeDram s a data poison) (lineOf a) = poison := by
  have hcheck : Store.read 0 (storeDram s a data poison).mems.checks (lineOf a)
      = if poison then 0xFFFFFFFF else 0 := by
    simp [storeDram, Store.read_write]
  rw [isPoison, storedCheck, hcheck, lineRead_xor_mask]

theorem markWritten_bus (s : State) (a : Nat) : (markWritten s a).bus = s.bus := by
  unfold markWritten
  split
  · rfl
  · dsimp only
    simp

/-- A write of a whole line to a page in service: OK, its bytes stored, its poison bit kept by the check (R512). -/
theorem CarriesDram.gives_wholeWrite {c : Instr} {s : State} {r : Req} (h : CarriesDram c s r)
    (hret : isRetired s r.addr = false) (hd : r.dead = false) (hw : r.write = true) (hsize : r.size = 64)
    (hlen : r.data.length = 64) :
    Gives c s fun t => DoneOk t r.master ∧ isPoison t (lineOf r.addr) = r.poison
      ∧ bytesAt 0 t.mems.dram (dramOff r.addr) 64 = r.data := by
  obtain ⟨f, g, hreach⟩ := h.atOnce.reach_write hret hw
  generalize hu : (takeToken s).onMemc f = u at hreach
  have hlive : dramWriteLive u (stamped s r) (stamped s r).bads = wholeWrite u (stamped s r) := if_pos hsize
  rw [hlive] at hreach
  refine h.gives_of_complete hd hreach ?_ fun t hdone _ hmems => ⟨?_, ?_, ?_⟩
  · change (markWritten u r.addr).bus.waiting = s.bus.waiting
    rw [markWritten_bus, ← hu]
    rfl
  · rw [DoneOk, hdone]
    rfl
  · rw [isPoison_congr (s := storeDram (markWritten u r.addr) r.addr r.data r.poison) hmems, isPoison_storeDram]
  · rw [hmems, ← hlen]
    exact bytesAt_putBytes 0 r.data _ _

/-! ### Partial writes of a bad line -/

/-- Four bad reads, whether the dies answer so or the line is bad of itself. -/
theorem badReads_four (s : State) (line : Nat) : badReads s line 4 = 4 := ite_self 4

/-- The partial write of a line that reads bad four times is refused, counted and raised (R514). -/
theorem partWrite_refused {s : State} {r : Req} {bads : Nat} (hw : isWritten s r.addr = true)
    (hbad : badReads s (lineOf r.addr) bads = 4) : partWrite s r bads
      = (raise (bump s Reg.MEMC.PARTIAL_CNT_COUNT 1) Reg.MEMC.evPARTIAL_REFUSED, errC r .errPoison) := by
  simp [partWrite, markWritten, hw, hbad]

/-- A partial write of a written line, to a page in service, whose four reads find the line bad. -/
theorem CarriesDram.gives_partialRefused {c : Instr} {s : State} {r : Req} (h : CarriesDram c s r)
    (hret : isRetired s r.addr = false) (hd : r.dead = false) (hw : r.write = true) (hsize : r.size ≠ 64)
    (hwritten : isWritten s r.addr = true) (hbads : r.bads = 4) :
    Gives c s fun t => lastDone t r.master = errC r .errPoison ∧ t.mems = s.mems
      ∧ Raised t Reg.MEMC.evPARTIAL_REFUSED
      ∧ rd t Reg.MEMC.PARTIAL_CNT_COUNT = satAdd 16 (rd s Reg.MEMC.PARTIAL_CNT_COUNT) 1 := by
  obtain ⟨f, g, hreach⟩ := h.atOnce.reach_write hret hw
  have hfour : badReads ((takeToken s).onMemc f) (lineOf r.addr) r.bads = 4 := by rw [hbads, badReads_four]
  have hlive : dramWriteLive ((takeToken s).onMemc f) (stamped s r) (stamped s r).bads
      = (raise (bump ((takeToken s).onMemc f) Reg.MEMC.PARTIAL_CNT_COUNT 1) Reg.MEMC.evPARTIAL_REFUSED,
        errC r .errPoison) := (if_neg hsize).trans (partWrite_refused hwritten hfour)
  rw [hlive] at hreach
  refine h.gives_of_complete hd hreach ?_ fun t hdone hregs hmems => ⟨hdone, ?_, ?_, ?_⟩
  · rw [raise_bus]
    rfl
  · rw [hmems, raise_mems]
    rfl
  · exact (rawSet_congr (rd_congr hregs _)).trans (rawSet_raise _ _)
  · rw [rd_congr hregs, rd_raise_bump _ _ rfl]
    rfl

/-! ### A full weak-line table -/

/-- A recovery of a line without an entry, while no entry is free: it is counted, and counted as not entered (R520). -/
theorem recovered_of_weakFull {s : State} {line : Nat} (hfind : weakFind line s.memc.weak = none)
    (hfull : weakFree s.memc.weak = none) : recovered s line
      = raise (bump (bump s Reg.MEMC.REFETCH_CNT_COUNT 1) Reg.MEMC.WEAK_OVF_COUNT 1) Reg.MEMC.evWEAK_FULL := by
  simp [recovered, weakRecover, hfind, hfull]

/-- Where no access waits, the arbiter has none to serve. -/
theorem dramUnblock_of_none_pending (n : Nat) {s : State} (h : s.memc.pending = []) : dramUnblock n s = s := by
  cases n with
  | zero => rfl
  | succ n =>
    have hnext : dramNext s = none := by
      rw [dramNext, h]
      rfl
    rw [dramUnblock, hnext]

/-- A recovery leaves the accesses that wait. -/
theorem recovered_pending (s : State) (line : Nat) : (recovered s line).memc.pending = s.memc.pending := by
  unfold recovered weakRecover raiseIf
  split
  · dsimp only
    split <;> simp [raise_memc]
  · split <;> simp [raise_memc, weakUsed]

/-- The state once an access has left those that wait in the memory controller. -/
def leavePending (s : State) (q : Refetch) : State := s.onMemc fun m => { m with pending := m.pending.erase q }

/-- A clean read of the only access that waits completes it as a recovery (R509, R510). -/
theorem dramRefetch_recovers {s : State} {q : Refetch} (hone : s.memc.pending = [q]) (hbegun : q.begun = true)
    (hclean : isPoison s (lineOf q.req.addr) = false) (hbad : badReads s (lineOf q.req.addr) 0 = 0) :
    dramRefetch false s
      = complete (recovered (leavePending s q) (lineOf q.req.addr)) q.req (cleanRead s q.req) := by
  have hfind : s.memc.pending.find? (fun q => q.begun) = some q := by simp [hone, hbegun]
  have hnone : (complete (recovered (leavePending s q) (lineOf q.req.addr)) q.req (cleanRead s q.req)).memc.pending
      = [] := by
    rw [complete_memc, recovered_pending]
    simp [leavePending, hone]
  have hunblock := dramUnblock_of_none_pending s.memc.pending.length hnone
  have hclean' : isPoison (leavePending s q) (lineOf q.req.addr) = false := hclean
  simp only [dramRefetch, hfind, hbad, Bool.false_or, Nat.reduceBEq, Bool.false_eq_true, false_and, if_false]
  rw [← leavePending, hclean']
  exact hunblock

/-- A recovery that finds the weak-line table full enters nothing, and the read completes with its data (R520). -/
theorem gives_weakFull {s : State} {q : Refetch} (hone : s.memc.pending = [q]) (hbegun : q.begun = true)
    (hd : q.req.dead = false) (hm : q.req.master < 16) (hclean : isPoison s (lineOf q.req.addr) = false)
    (hbad : badReads s (lineOf q.req.addr) 0 = 0) (hfull : weakFree s.memc.weak = none)
    (hfind : weakFind (lineOf q.req.addr) s.memc.weak = none) :
    Gives (.dramRefetch false) s fun t => t.memc.weak = s.memc.weak
      ∧ rd t Reg.MEMC.WEAK_OVF_COUNT = satAdd 32 (rd s Reg.MEMC.WEAK_OVF_COUNT) 1
      ∧ Raised t Reg.MEMC.evWEAK_FULL ∧ lastDone t q.req.master = cleanRead s q.req := by
  refine ⟨dramRefetch false s, rfl, ?_⟩
  rw [dramRefetch_recovers hone hbegun hclean hbad, recovered_of_weakFull (s := leavePending s q) hfind hfull]
  refine ⟨?_, ?_, ?_, lastDone_complete _ hd hm⟩
  · rw [complete_memc, raise_memc]
    rfl
  · rw [rd_complete, rd_raise_bump _ _ rfl, rd_bump_apart 1 rfl]
    rfl
  · exact (rawSet_congr (rd_complete _ _ _ _)).trans (rawSet_raise _ _)

/-! ### The statements -/

/-- Settles O59: the memory refuses the access on the spot, and `retiredHit` leaves the record. -/
theorem retiredPages : Obligations.RetiredPages := by
  unfold Obligations.RetiredPages
  refine ⟨?read, ?wholeWrite, ?partialWrite, ?dmaWrite, ?dmaRead, ?reach⟩
  case read =>
    intro s m a len fetch bad hp hf hret
    exact (carriesDram_dramRead bad hp hf).gives_retired hret rfl
  case wholeWrite =>
    intro s m a data poison hp hlen hf hret
    exact (carriesDram_dramWrite poison hp hlen hf).gives_retired hret rfl
  case partialWrite =>
    intro s m a data poison bads hp hlt hf hret
    exact (carriesDram_dramPartialWrite poison bads hp hlt hf).gives_retired hret rfl
  case dmaWrite =>
    intro s m a data bads ht ha hg hret
    rw [dmaWrite, dmaReq_retired bads ht ha hg hret]
    exact ⟨rfl, retiredHit_hitKept s m.isLt⟩
  case dmaRead =>
    intro s m a bads hm ht ha hg hret
    have hne : m.val ≠ 3 := fun heq => hm (Fin.ext heq)
    have halign : alignOk 3 (mkReq m a false false 64 [] false bads) = true := by simp [alignOk, mkReq, hne, ha]
    rw [dmaReadLine, dmaReq_retired bads ht halign hg hret]
    exact ⟨rfl, retiredHit_hitKept s m.isLt⟩
  case reach =>
    intro s r hd _ ht ha hg hf hret
    exact DramAtOnce.retired_refused ⟨ht, ha, hg, hf⟩ hret hd

/-- Settles O60: the stored check alone tells poison, a refused partial write ends in its raise, and a recovery that
finds no free entry counts and raises on its way to the completion. -/
theorem poisonAndWeakLines : Obligations.PoisonAndWeakLines := by
  unfold Obligations.PoisonAndWeakLines
  refine ⟨?wholeWrite, ?partialRefused, ?weakFull⟩
  case wholeWrite =>
    intro s m a data poison hp hlen hf hret
    exact (carriesDram_dramWrite poison hp hlen hf).gives_wholeWrite hret rfl rfl hlen hlen
  case partialRefused =>
    intro s m a data poison hp hlt hf hret hw
    exact (carriesDram_dramPartialWrite poison 4 hp hlt hf).gives_partialRefused hret rfl rfl (Nat.ne_of_lt hlt) hw rfl
  case weakFull =>
    intro s q hone hbegun hd hm hclean hbad hfull hfind
    exact gives_weakFull hone hbegun hd hm hclean hbad hfull hfind

end Sys2Proof.Machine

/-! SUPPORT. Denials (R597, R601): what the record of a denial leaves, what a target does with a request that its access
table refuses, and what is left of it when a command has issued the request. -/

namespace Sys2Proof.Machine

/-! ### The record of a denial -/

/-- The fields that record a denial at target `t`. -/
def denyFields (t : Nat) : List Fld := [Reg.ACL.DENY_CNT_COUNT t, Reg.ACL.DENY_LAST_MASTER t, Reg.ACL.DENY_LAST_KIND t,
  Reg.ACL.DENY_LAST_VALID t, Reg.ACL.DENY_ADDR_PAGE t]

/-- What they record of a denial. -/
def denyValues (s : State) (t m a kind : Nat) : List (Fld × Nat) :=
  (denyFields t).zip [satAdd 32 (rd s (Reg.ACL.DENY_CNT_COUNT t)) 1, m, kind, 1, a / 4096]

/-- The field lies in no page of an access table, or before the fields that record a denial there. -/
def BesideDeny (f : Fld) : Prop := f.pos < 800 ∨ f.page < 768 ∧ f.pos < 32768

section
variable {s : State} {t m a kind : Nat} {f g : Fld}

/-- Where the fields of a denial stand. -/
theorem denyFields_place (h : f ∈ denyFields t) : f.page = 768 + t ∧ f.off < 4096 ∧ f.off % 4 = 0 ∧ f.lo < 32
    ∧ 800 ≤ f.pos ∧ f.pos < 896 := by
  simp only [denyFields, List.mem_cons, List.not_mem_nil, or_false] at h
  rcases h with rfl | rfl | rfl | rfl | rfl <;> simp [Reg.ACL.DENY_CNT_COUNT, Reg.ACL.DENY_LAST_MASTER,
    Reg.ACL.DENY_LAST_KIND, Reg.ACL.DENY_LAST_VALID, Reg.ACL.DENY_ADDR_PAGE, Fld.pos]

/-- No raise writes them. -/
theorem calm_of_mem_denyFields (h : f ∈ denyFields t) : f.calm = true := by
  obtain ⟨hpage, -, -, -, hlo, hhi⟩ := denyFields_place h
  have h9 : f.page ≠ 9 := by omega
  have h10 : f.page ≠ 10 := by omega
  have hraw : f.pos ≠ 160 := by omega
  have hin : f.pos < 32768 := by omega
  simp [Fld.calm, h9, h10, hraw, hin]

theorem apart_or_afar_of_besideDeny (h : f ∈ denyFields t) (hg : BesideDeny g) :
    (f.apart g || f.afar g) = true := by
  obtain ⟨hpage, -, -, -, hlo, hhi⟩ := denyFields_place h
  simp only [Fld.apart, Fld.afar, Bool.or_eq_true, Bool.and_eq_true, bne_iff_ne, decide_eq_true_eq, ne_eq]
  rcases hg with hpos | ⟨hlt, hpos⟩ <;> omega

theorem key_ne_of_besideDeny (h : f ∈ denyFields t) (hg : BesideDeny g) : g.key ≠ f.key := by
  rcases Bool.or_eq_true_iff.mp (apart_or_afar_of_besideDeny h hg) with happ | hfar
  · exact Fld.key_ne_of_apart happ
  · exact Fld.key_ne_of_afar hfar

theorem denyValues_pairwise : (denyValues s t m a kind).Pairwise fun e d => d.1.apart e.1 = true := by
  simp [denyValues, denyFields, Fld.apart, Fld.pos, Reg.ACL.DENY_CNT_COUNT, Reg.ACL.DENY_LAST_MASTER,
    Reg.ACL.DENY_LAST_KIND, Reg.ACL.DENY_LAST_VALID, Reg.ACL.DENY_ADDR_PAGE]

theorem denyRecord_eq (s : State) (t m a kind : Nat) : denyRecord s t m a kind
    = raise (wrAll s (denyValues s t m a kind)) (Reg.ACL.evDENIED t) := rfl

/-- A field that neither the record nor a raise writes. -/
theorem rd_denyRecord_beside (hcalm : f.calm = true) (hf : BesideDeny f) :
    rd (denyRecord s t m a kind) f = rd s f := by
  rw [denyRecord_eq, (raise_raising _ _).calm f hcalm, rd_wrAll_apart]
  exact List.all_eq_true.mpr fun e he => apart_or_afar_of_besideDeny (List.of_mem_zip he).1 hf

/-- A field that records a denial, once the denial is recorded. -/
theorem rd_denyRecord_of_mem {v : Nat} (hmem : (f, v) ∈ denyValues s t m a kind) :
    rd (denyRecord s t m a kind) f = v % 2 ^ f.width := by
  rw [denyRecord_eq, (raise_raising _ _).calm f (calm_of_mem_denyFields (List.of_mem_zip hmem).1)]
  exact rd_wrAll_of_mem denyValues_pairwise hmem s

/-- The record of a denial is what R601 asks for. -/
theorem denyRecord_denyKept (hm : m < 16) (hkind : kind < 4) :
    DenyKept s (denyRecord s t m a kind) t m a kind :=
  ⟨(rd_denyRecord_of_mem (.head _)).trans (Nat.mod_eq_of_lt (satAdd_lt _ _ _)),
    (rd_denyRecord_of_mem (.tail _ (.head _))).trans (Nat.mod_eq_of_lt hm),
    (rd_denyRecord_of_mem (.tail _ (.tail _ (.head _)))).trans (Nat.mod_eq_of_lt hkind),
    rd_denyRecord_of_mem (.tail _ (.tail _ (.tail _ (.head _)))),
    rd_denyRecord_of_mem (.tail _ (.tail _ (.tail _ (.tail _ (.head _))))), rawSet_raise _ _⟩

/-- The record of a denial writes fields in effect and raises, and does nothing else. -/
theorem denyRecord_sameBut (s : State) (t m a kind : Nat) : SameBut s (denyRecord s t m a kind) :=
  (show SameBut s (wrAll s (denyValues s t m a kind)) from rfl).trans (raise_raising _ _).same

theorem denyRecord_memc : (denyRecord s t m a kind).memc = s.memc := by
  rw [denyRecord_sameBut s t m a kind]

theorem denyRecord_spf : (denyRecord s t m a kind).spf = s.spf := by
  rw [denyRecord_sameBut s t m a kind]

theorem denyRecord_clk : (denyRecord s t m a kind).clk = s.clk := by
  rw [denyRecord_sameBut s t m a kind]

theorem denyRecord_pwr : (denyRecord s t m a kind).pwr = s.pwr := by
  rw [denyRecord_sameBut s t m a kind]

/-- The frame of the record. -/
theorem denyRecord_keeps (s : State) (t m a kind : Nat) : Keeps (.denial t) s (denyRecord s t m a kind) := by
  have hplaces : ((denyValues s t m a kind).all fun e => e.1.pos % 32768 != 160) = true :=
    List.all_eq_true.mpr fun e he => by
      obtain ⟨-, -, -, -, hlo, hhi⟩ := denyFields_place (List.of_mem_zip he).1
      simp only [bne_iff_ne, ne_eq]
      omega
  have hwrites : Keeps (.regs (denyFields t)) s (wrAll s (denyValues s t m a kind)) :=
    (Keeps.refl _ s).wrAll _ (fun e he => (List.of_mem_zip he).1) hplaces
  have hraise := (Keeps.refl (.raising [Reg.ACL.evDENIED t]) (wrAll s (denyValues s t m a kind))).raise
    (Scope.logs_raising _) (id := Reg.ACL.evDENIED t) (by simp [Scope.raising])
  exact (Keeps.all (.head _) hwrites).trans (Keeps.all (.tail _ (.head _)) hraise)

/-- What neither raises nor writes the fields of a denial leaves the record of it. -/
theorem DenyKept.of_keeps {F : Scope} {u v : State} (h : DenyKept s u t m a kind) (k : Keeps F u v)
    (hpages : F.pages = []) (hevs : F.evs = []) (hflds : ∀ g ∈ F.flds, BesideDeny g) : DenyKept s v t m a kind := by
  have hfield (f : Fld) (hf : f ∈ denyFields t) : rd v f = rd u f := by
    obtain ⟨-, hoff, hword, hlo, hpos, -⟩ := denyFields_place hf
    refine k.field f hoff hword ?_ hlo (by simp [hpages]) fun g hg => key_ne_of_besideDeny hf (hflds g hg)
    intro h20
    rw [Fld.pos] at hpos
    omega
  have hraw : rawSet v (Reg.ACL.evDENIED t) = rawSet u (Reg.ACL.evDENIED t) := k.raw _ (by simp [hevs])
  unfold DenyKept Raised at h ⊢
  rw [hfield _ (.head _), hfield _ (.tail _ (.head _)), hfield _ (.tail _ (.tail _ (.head _))),
    hfield _ (.tail _ (.tail _ (.tail _ (.head _)))), hfield _ (.tail _ (.tail _ (.tail _ (.tail _ (.head _))))), hraw]
  exact h

end

/-! ### The record of a refused access in its page -/

/-- The fields of PG_ERR that hold what an access was. -/
def pgErrValues (pg off m : Nat) (e : Status) (write : Bool) : List (Fld × Nat) :=
  [(Reg.HDR.PG_ERR_OFFSET pg, off / 4), (Reg.HDR.PG_ERR_MASTER pg, m), (Reg.HDR.PG_ERR_STATUS pg, e.code),
    (Reg.HDR.PG_ERR_WRITE pg, b2n write)]

section
variable {s : State} {pg off m : Nat} {e : Status} {write : Bool}

theorem pgErr_eq (s : State) (pg off m : Nat) (e : Status) (write : Bool) : pgErr s pg off m e write
    = bump (wrAll s (pgErrValues pg off m e write)) (Reg.HDR.PG_ERR_COUNT pg) 1 := rfl

theorem pgErrValues_pairwise : (pgErrValues pg off m e write).Pairwise fun e d => d.1.apart e.1 = true := by
  simp [pgErrValues, Fld.apart, Fld.pos, Reg.HDR.PG_ERR_OFFSET, Reg.HDR.PG_ERR_MASTER, Reg.HDR.PG_ERR_STATUS,
    Reg.HDR.PG_ERR_WRITE]

theorem rd_pgErr_of_mem {f : Fld} {v : Nat} (hcount : (Reg.HDR.PG_ERR_COUNT pg).apart f = true)
    (hmem : (f, v) ∈ pgErrValues pg off m e write) : rd (pgErr s pg off m e write) f = v % 2 ^ f.width := by
  rw [pgErr_eq, rd_bump_apart 1 hcount, rd_wrAll_of_mem pgErrValues_pairwise hmem]

theorem Status.code_lt (e : Status) : e.code < 16 := by
  cases e <;> decide

/-- What PG_ERR holds of an access and counts is what R161 asks for. -/
theorem pgErr_pageErr (hoff : off < 4096) (hm : m < 16) :
    PageErr s (pgErr s pg off m e write) pg off m e.code (b2n write) := by
  have hcount : rd (wrAll s (pgErrValues pg off m e write)) (Reg.HDR.PG_ERR_COUNT pg)
      = rd s (Reg.HDR.PG_ERR_COUNT pg) := rd_wrAll_apart _ s rfl
  exact ⟨(rd_pgErr_of_mem rfl (.head _)).trans (Nat.mod_eq_of_lt (Nat.div_lt_of_lt_mul hoff)),
    (rd_pgErr_of_mem rfl (.tail _ (.head _))).trans (Nat.mod_eq_of_lt hm),
    (rd_pgErr_of_mem rfl (.tail _ (.tail _ (.head _)))).trans (Nat.mod_eq_of_lt e.code_lt),
    (rd_pgErr_of_mem rfl (.tail _ (.tail _ (.tail _ (.head _))))).trans (b2n_mod_two write),
    by rw [pgErr_eq, rd_bump_same, hcount]; rfl⟩

/-- The fields of PG_ERR. -/
def pgErrFields (pg : Nat) : List Fld := [Reg.HDR.PG_ERR_OFFSET pg, Reg.HDR.PG_ERR_MASTER pg, Reg.HDR.PG_ERR_STATUS pg,
  Reg.HDR.PG_ERR_WRITE pg, Reg.HDR.PG_ERR_COUNT pg]

theorem pgErr_keeps (s : State) (pg off m : Nat) (e : Status) (write : Bool) :
    Keeps (.regs (pgErrFields pg)) s (pgErr s pg off m e write) := by
  have hmem : ∀ d ∈ pgErrValues pg off m e write, d.1 ∈ pgErrFields pg := by simp [pgErrValues, pgErrFields]
  rw [pgErr_eq]
  exact ((Keeps.refl _ s).wrAll _ hmem rfl).bump 1 (by simp [Scope.regs, pgErrFields]) rfl

theorem besideDeny_pgErrFields : ∀ g ∈ pgErrFields pg, BesideDeny g := by
  simp [pgErrFields, BesideDeny, Fld.pos, Reg.HDR.PG_ERR_OFFSET, Reg.HDR.PG_ERR_MASTER, Reg.HDR.PG_ERR_STATUS,
    Reg.HDR.PG_ERR_WRITE, Reg.HDR.PG_ERR_COUNT]

end

/-! ### A request that an access table refuses -/

/-- The access table of the target that the request reaches refuses it (R597), which meets the widths and boundaries
of the target (R30). -/
structure TableRefuses (s : State) (r : Req) (n : Nat) : Prop where
  target  : targetOf r.addr = some n
  align   : alignOk n r = true
  refused : aclGrants s n r.master r.addr (aclKind r) = false

/-- A request is denied at target `n` as `s` becomes `t`: it completes so, the denial is recorded, and nothing outside
the scope differs. -/
structure DeniedWithin (F : Scope) (s t : State) (n : Nat) (r : Req) : Prop where
  done     : lastDone t r.master = errC r .errDenied
  recorded : DenyKept s t n r.master r.addr (aclKind r)
  keeps    : Keeps F s t

section
variable {s : State} {r : Req} {n : Nat}

theorem aclKind_lt (r : Req) : aclKind r < 4 := by
  unfold aclKind
  split
  · decide
  · split <;> decide

/-- A completion leaves the record of a denial. -/
theorem DenyKept.complete {u : State} {t m a kind : Nat} (h : DenyKept s u t m a kind) (r : Req) (c : Completion) :
    DenyKept s (complete u r c) t m a kind :=
  h.of_keeps (complete_keeps_access u r c) rfl rfl fun _ hg => absurd hg List.not_mem_nil

/-- A target that is no page denies a request: it records the denial and completes the request. -/
theorem plainRefuse_denied (hd : r.dead = false) (hm : r.master < 16) :
    DeniedWithin ((Scope.access r.master).and (.denial n)) s (plainRefuse s n r .errDenied) n r where
  done := lastDone_complete _ hd hm
  recorded := (denyRecord_denyKept hm (aclKind_lt r)).complete r _
  keeps := (denyRecord_keeps s n _ _ _).right.trans (complete_keeps_access _ r _).left

/-! ### At the boot ROM, the SRAM and the sequencer table -/

theorem plainCheck_refused (h : TableRefuses s r n) : plainCheck s n r = some .errDenied := by
  rw [plainCheck, if_neg (by simp [h.align]), if_pos h.refused]

theorem reach_plain_refused (h : TableRefuses s r n) (hn : n = 0 ∨ n = 1 ∨ n = 4) :
    reach s r = plainRefuse s n r .errDenied := by
  have hcheck := plainCheck_refused h
  unfold reach
  rw [h.target]
  rcases hn with rfl | rfl | rfl
  · change romServe s r = _
    rw [romServe, hcheck]
  · change sramServe s r = _
    rw [sramServe, hcheck]
  · change seqtServe s r = _
    rw [seqtServe, hcheck]

/-! ### At stacked memory -/

/-- A completion leaves the memory controller, so a change there may come before it or after it. -/
theorem complete_onMemc (s : State) (f : MemH → MemH) (r : Req) (c : Completion) :
    complete (s.onMemc f) r c = (complete s r c).onMemc f := by
  unfold complete
  split
  · rfl
  · dsimp only
    split <;> split <;> rfl

/-- A denied access waits behind none of another master's (R29), and the memory controller is as it was. -/
theorem dramAccept_denied (hfree : s.memc.pending.all (fun q => q.req.master != r.master) = true) :
    dramAccept s r (some .errDenied) = complete s r (errC r .errDenied) := by
  have hbehind : s.memc.pending.any (dramBehind r (some .errDenied)) = false := by
    rw [List.any_eq_false]
    intro q hq
    simpa [dramBehind] using List.all_eq_true.mp hfree q hq
  have hturn : dramYields s r (some .errDenied) = false := rfl
  have hserve (u : State) : dramServe u r (some .errDenied) []
      = (complete u r (errC r .errDenied)).onMemc fun m => { m with pending := [] } := by
    rw [dramServe, dramRefuse, if_neg (by decide), complete_onMemc]
  simp only [dramAccept, hbehind, hturn, Bool.or_self, Bool.false_eq_true, if_false, hserve, complete_onMemc,
    onMemc_onMemc]
  have hself (u : State) (hu : u.memc = s.memc) : u.onMemc ((fun m => { m with pending := s.memc.pending ++ m.pending })
      ∘ (fun m => { m with pending := [] }) ∘ fun m => { m with pending := [] }) = u := by
    simp only [State.onMemc, Function.comp, List.append_nil, ← hu]
  exact hself _ (complete_memc s r _)

theorem reach_dram_refused (h : TableRefuses s r 3)
    (hfree : s.memc.pending.all (fun q => q.req.master != r.master) = true) :
    reach s r = plainRefuse s 3 r .errDenied := by
  have hverdict : dramVerdict s r = some .errDenied := by
    rw [dramVerdict, if_neg (by simp [h.align]), if_pos h.refused]
  unfold reach
  rw [h.target]
  change dramIssue s r = _
  rw [dramIssue, hverdict]
  exact dramAccept_denied (by rw [if_pos rfl, denyRecord_memc]; exact hfree)

/-! ### At the flash window -/

/-- Bringing the registers that follow SPF up to date changes no others (R70, R558, R570). -/
theorem spfRegs_keeps (s : State) : Keeps .spfShows s (spfRegs s) := by
  unfold spfRegs nvBusy
  refine ((((Keeps.refl _ s).wrAll _ ?_ ?places).wrb _ ?_ rfl).wrb _ ?_ rfl).wrb _ ?_ rfl
  case places =>
    simp only [List.all_cons, List.all_nil]
    decide
  all_goals simp [Scope.spfShows, Scope.regs]

theorem besideDeny_spfShows : ∀ g ∈ Scope.spfShows.flds, BesideDeny g := by
  simp [Scope.spfShows, Scope.regs, BesideDeny, Fld.pos, Reg.SPF.STAT_BUSY, Reg.SPF.STAT_ERASE_HELD,
    Reg.SPF.Q_STAT_ENTRIES, Reg.SPF.Q_STAT_TX_WORDS, Reg.SPF.Q_STAT_RX_WORDS, Reg.PWR.FENCE_STAT_OTP_BUSY,
    Reg.PWR.FENCE_STAT_KEY_BUSY, Reg.PWR.FENCE_STAT_FLASH_BUSY]

/-- What an idle SPF is. -/
theorem spfIdle_iff : spfIdle s = true ↔ blockRuns s Reg.SPF.page = true ∧ s.spf.op = none ∧ s.spf.inSeq = false
    ∧ s.spf.work = [] ∧ s.spf.queue = [] := by
  simp [spfIdle, and_assoc]

/-- An idle SPF completes a refusal at once, and no work stays with it (R560). -/
theorem spfPush_refusal_of_idle (e : Status) (h : spfIdle s = true) :
    spfPush s (.refusal r e) = spfRegs (complete s r (errC r e)) := by
  obtain ⟨hruns, hop, -, hwork, hqueue⟩ := spfIdle_iff.mp h
  have hplaced : spfPlace s (.refusal r e) = s.onSpf fun f => { f with work := [.refusal r e] } := by
    rw [spfPlace, State.onSpf, State.onSpf, hwork, placeWork]
  have hready (u : State) (hu : u.spf.queue = []) : qReady u = u := by rw [qReady, hu]
  generalize hu : (s.onSpf fun f => { f with work := [.refusal r e] }) = u at hplaced
  have hrunsThere : blockRuns u Reg.SPF.page = true := hu ▸ hruns
  have hspf : u.spf = { s.spf with work := [.refusal r e] } := hu ▸ rfl
  have hleft : (u.onSpf fun f => { f with work := [] }) = s := by
    rw [← hu, State.onSpf, State.onSpf, ← hwork]
  have hpick : pickWork u [] u.spf.work = some (.refusal r e, []) := by
    simp [hspf, pickWork, canTake, windowTurn, hop]
  have htake : spfTake 2 u = complete s r (errC r e) := by
    have hdone : (complete s r (errC r e)).spf.work = [] := by
      rw [(complete_keeps_access s r _).part .spf (by simp [Scope.access_parts]), hwork]
    simp only [spfTake, hpick, hleft, spfDo, hdone, pickWork]
  rw [spfPush, hplaced, spfKick, hready u (by rw [hspf]; exact hqueue)]
  simp only [hrunsThere, if_true]
  rw [← htake]
  simp [hspf, hqueue]

/-- A denial leaves a block running, or not, as it was. -/
theorem blockRuns_denyRecord (t m a kind pg : Nat) : blockRuns (denyRecord s t m a kind) pg = blockRuns s pg := by
  have hgated : rd (denyRecord s t m a kind) (Reg.HDR.PG_STAT_GATED pg) = rd s (Reg.HDR.PG_STAT_GATED pg) :=
    rd_denyRecord_beside (by simp [Fld.calm, Fld.pos, Reg.HDR.PG_STAT_GATED, Reg.EVT1.LOG_DROP_COUNT,
      Reg.EVT1.LOG_STAT_GAP]) (.inl (by simp [Fld.pos, Reg.HDR.PG_STAT_GATED]))
  have hbusy : rd (denyRecord s t m a kind) Reg.CLK.DOM_STAT_BUSY = rd s Reg.CLK.DOM_STAT_BUSY :=
    rd_denyRecord_beside rfl (.inr (by decide))
  have hroot : rd (denyRecord s t m a kind) Reg.CLK.ROOT_STAT_STATE = rd s Reg.CLK.ROOT_STAT_STATE :=
    rd_denyRecord_beside rfl (.inr (by decide))
  have hlost : rd (denyRecord s t m a kind) Reg.CLK.MON_STAT_LOST = rd s Reg.CLK.MON_STAT_LOST :=
    rd_denyRecord_beside rfl (.inr (by decide))
  simp only [blockRuns, domRunning, domSwitching, domBusy, domWaits, rdb, hgated, hbusy, hroot, hlost, denyRecord_clk,
    denyRecord_pwr]

theorem spfIdle_denyRecord (t m a kind : Nat) : spfIdle (denyRecord s t m a kind) = spfIdle s := by
  simp only [spfIdle, blockRuns_denyRecord, denyRecord_spf]

theorem reach_flash_refused (h : TableRefuses s r 2) (hidle : spfIdle s = true) :
    reach s r = spfRegs (plainRefuse s 2 r .errDenied) := by
  have hdenied : flashDenied s r = true := by simp [flashDenied, h.refused]
  have hverdict : flashVerdict s r = some .errDenied := by
    rw [flashVerdict, if_neg (by simp [h.align]), if_pos hdenied]
  unfold reach
  rw [h.target]
  change flashIssue s r = _
  rw [flashIssue, hverdict]
  dsimp only
  rw [flashRefuse, h.align, hdenied, Bool.and_self, if_pos rfl,
    spfPush_refusal_of_idle _ ((spfIdle_denyRecord 2 _ _ _).trans hidle)]
  rfl

/-- SPF denies a request: the denial is recorded, the request completes, and SPF's registers follow. -/
theorem flash_denied (hd : r.dead = false) (hm : r.master < 16) :
    DeniedWithin (.all [.access r.master, .denial 2, .spfShows]) s (spfRegs (plainRefuse s 2 r .errDenied)) 2 r := by
  have hplain := plainRefuse_denied (s := s) (n := 2) hd hm
  have hshows := spfRegs_keeps (plainRefuse s 2 r .errDenied)
  have hport := hshows.part (.done r.master) List.not_mem_nil
  exact ⟨hport.trans hplain.done, hplain.recorded.of_keeps hshows rfl rfl besideDeny_spfShows,
    ((Keeps.all (.tail _ (.head _)) (denyRecord_keeps s 2 _ _ _)).trans
      (Keeps.all (.head _) (complete_keeps_access _ r _))).trans (Keeps.all (.tail _ (.tail _ (.head _))) hshows)⟩

/-! ### At a register page -/

theorem reach_page_refused (ht : targetOf r.addr = some n) (hn : 5 ≤ n) (halign : alignOk n r = true)
    (hpassed : r.passed = false) (hdenied : pageDenied s n r = true) :
    reach s r = refuseReq (denyRecord s n r.master r.addr (aclKind r)) r .errDenied := by
  have hverdict : pageVerdict s n r = some .errDenied := by
    simp [pageVerdict, hpassed, halign, hdenied]
  have hpage : reach s r = pageServe s n r := by
    obtain ⟨k, rfl⟩ := Nat.exists_eq_add_of_le' hn
    unfold reach
    rw [ht]
    rfl
  rw [hpage, pageServe, hverdict]
  rfl

/-- A page denies a request: the denial is recorded at its target and the refusal in the page (R161). -/
theorem page_denied (hd : r.dead = false) (hm : r.master < 16) : DeniedWithin
    (.refusal n (pageOf r.addr) r.master) s (refuseReq (denyRecord s n r.master r.addr (aclKind r)) r .errDenied) n r where
  done := lastDone_complete _ hd hm
  recorded := ((denyRecord_denyKept hm (aclKind_lt r)).of_keeps (pgErr_keeps _ _ _ _ _ _) rfl rfl
    besideDeny_pgErrFields).complete r _
  keeps := ((Keeps.all (.tail _ (.head _)) (denyRecord_keeps s n _ _ _)).trans
    (Keeps.all (.tail _ (.tail _ (.head _))) (pgErr_keeps _ _ _ _ _ _))).trans
      (Keeps.all (.head _) (complete_keeps_access _ r _))

/-- The page's record of the refusal (R161). -/
theorem refuseReq_pageErr (e : Status) (hm : r.master < 16) (t m a kind : Nat) :
    PageErr s (refuseReq (denyRecord s t m a kind) r e) (pageOf r.addr) (r.addr % 4096) r.master e.code
      (b2n r.write) := by
  have hcount : rd (denyRecord s t m a kind) (Reg.HDR.PG_ERR_COUNT (pageOf r.addr))
      = rd s (Reg.HDR.PG_ERR_COUNT (pageOf r.addr)) :=
    rd_denyRecord_beside (by simp [Fld.calm, Fld.pos, Reg.HDR.PG_ERR_COUNT, Reg.EVT1.LOG_DROP_COUNT,
      Reg.EVT1.LOG_STAT_GAP]) (.inl (by simp [Fld.pos, Reg.HDR.PG_ERR_COUNT]))
  have hrecord := pgErr_pageErr (s := denyRecord s t m a kind) (pg := pageOf r.addr) (e := e) (write := r.write)
    (Nat.mod_lt r.addr (by decide : 0 < 4096)) hm
  unfold PageErr at hrecord ⊢
  simp only [refuseReq, rd_complete, ← hcount]
  exact hrecord

/-! ### A DMA master's request -/

/-- A DMA master's request is denied where it has a target other than stacked memory, or where the table of that
refuses it (R21, R597). -/
theorem dmaReq_denied (bads : Nat) (ht : targetOf r.addr = some n)
    (h : n = 3 → alignOk 3 r = true ∧ aclGrants s 3 r.master r.addr (aclKind r) = false) :
    dmaReq s r bads = (denyRecord s n r.master r.addr (aclKind r), errC r .errDenied) := by
  by_cases hn : n = 3
  · subst hn
    obtain ⟨halign, hrefused⟩ := h rfl
    simp [dmaReq, ht, halign, hrefused]
  · simp [dmaReq, ht, hn]

/-! ### A request that a command issues -/

/-- A request that its table refuses is refused once it carries its token too. -/
theorem TableRefuses.issued (h : TableRefuses s r n) : TableRefuses (takeToken s) (stamped s r) n :=
  ⟨h.target, h.align, (aclGrants_congr rfl n _ _ _).trans h.refused⟩

/-- Issuing a request to a free fabric does what its denial does, where the scope lets the access change its token. -/
theorem DeniedWithin.of_issued {F : Scope} (hq : fabricQuiet s = true) (hm : masterIssues s r = true)
    (hF : Keeps F s (takeToken s)) (hwait : Part.waiting ∉ F.parts)
    (h : DeniedWithin F (takeToken s) (reach (takeToken s) (stamped s r)) n (stamped s r)) :
    DeniedWithin F s (issue s r) n r := by
  rw [issue_eq_reach hq hm (h.keeps.part .waiting hwait)]
  exact ⟨h.done, h.recorded, hF.trans h.keeps⟩

/-- A request that its target denies with no more than `plainRefuse`, once a command has issued it. -/
theorem issue_plainRefuse_denied (hq : fabricQuiet s = true) (hm : masterIssues s r = true) (hd : r.dead = false)
    (h16 : r.master < 16)
    (hreach : reach (takeToken s) (stamped s r) = plainRefuse (takeToken s) n (stamped s r) .errDenied) :
    DeniedWithin ((Scope.access r.master).and (.denial n)) s (issue s r) n r := by
  refine .of_issued hq hm (takeToken_keeps_access s _).left ?_ ?_
  · simp [Scope.and, Scope.access_parts, Scope.denial, Scope.all, Scope.regs, Scope.raising]
  · rw [hreach]
    exact plainRefuse_denied (r := stamped s r) hd h16

/-- What a denial leaves of a command that does no more than issue the request. -/
theorem DeniedWithin.gives {F : Scope} {c : Instr} (h : DeniedWithin F s (issue s r) n r)
    (hc : exec c s = .next (issue s r)) : Gives c s fun t => lastDone t r.master = errC r .errDenied
      ∧ DenyKept s t n r.master r.addr (aclKind r) ∧ Keeps F s t :=
  ⟨_, hc, h.done, h.recorded, h.keeps⟩

/-! ### The commands that carry an access -/

/-- A 32-bit word is an access that every target accepts (R30). -/
theorem alignOk_word (n : Nat) (hsize : r.size = 4) (haddr : r.addr % 4 = 0) : alignOk n r = true := by
  have hline : r.addr % 64 + 4 ≤ 64 := by omega
  unfold alignOk
  split <;> simp [hsize, haddr, hline]

/-- No access that a target accepts is longer than a line (R30). -/
theorem size_le_of_alignOk (h : alignOk n r = true) : r.size ≤ 64 := by
  unfold alignOk at h
  split at h <;> simp only [Bool.and_eq_true, decide_eq_true_eq] at h <;> omega

/-- A memory row issues a request of a length that it allows to an address of its target. -/
theorem memIssue_of_target {ok : Bool} (hok : ok = true) (ht : targetOf r.addr = some n) :
    memIssue s n ok r = issue s r := by
  simp [memIssue, hok, ht]

section
variable {c : Instr} {ok : Bool} (hq : fabricQuiet s = true) (hm : masterIssues s r = true) (hd : r.dead = false)
  (h16 : r.master < 16)
include hq hm hd h16

/-- A register row's access to the boot ROM, the SRAM or the sequencer table. -/
theorem gives_plain_denied (hc : exec c s = .next (if plainAddr r.addr then issue s r else s))
    (h : TableRefuses s r n) (hn : n = 0 ∨ n = 1 ∨ n = 4) : Gives c s fun t => lastDone t r.master = errC r .errDenied
      ∧ DenyKept s t n r.master r.addr (aclKind r) ∧ Keeps ((Scope.access r.master).and (.denial n)) s t := by
  have hplain : plainAddr r.addr = true := by
    rcases hn with rfl | rfl | rfl <;> simp [plainAddr, h.target]
  rw [if_pos hplain] at hc
  exact (issue_plainRefuse_denied hq hm hd h16 (reach_plain_refused h.issued hn)).gives hc

/-- A memory row's access to stacked memory. -/
theorem gives_dram_denied (hc : exec c s = .next (memIssue s 3 ok r)) (hok : 0 < r.size → ok = true)
    (h : TableRefuses s r 3) (hfree : s.memc.pending.all (fun q => q.req.master != r.master) = true) :
    Gives c s fun t => lastDone t r.master = errC r .errDenied
      ∧ DenyKept s t 3 r.master r.addr (aclKind r) ∧ Keeps ((Scope.access r.master).and (.denial 3)) s t := by
  rw [memIssue_of_target (hok (size_pos_of_alignOk h.align)) h.target] at hc
  exact (issue_plainRefuse_denied hq hm hd h16 (reach_dram_refused h.issued hfree)).gives hc

/-- A memory row's access to the flash window. -/
theorem gives_flash_denied (hc : exec c s = .next (memIssue s 2 ok r)) (hok : 0 < r.size → r.size ≤ 64 → ok = true)
    (h : TableRefuses s r 2) (hidle : spfIdle s = true) : Gives c s fun t => lastDone t r.master = errC r .errDenied
      ∧ DenyKept s t 2 r.master r.addr (aclKind r) ∧ Keeps (.all [.access r.master, .denial 2, .spfShows]) s t := by
  rw [memIssue_of_target (hok (size_pos_of_alignOk h.align) (size_le_of_alignOk h.align)) h.target] at hc
  refine DeniedWithin.gives (.of_issued hq hm (Keeps.all (.head _) (takeToken_keeps_access s _)) ?_ ?_) hc
  · simp [Scope.and, Scope.access_parts, Scope.denial, Scope.all, Scope.regs, Scope.raising, Scope.spfShows]
  · rw [reach_flash_refused h.issued hidle]
    exact flash_denied (r := stamped s r) hd h16

end

end

/-! ### The statement -/

/-- Settles O53: the target that refuses a request records the denial and completes the request, whichever command
issued it; a page keeps its own record too, and SPF's registers follow. -/
theorem denialsAreRecorded : Obligations.DenialsAreRecorded := by
  unfold Obligations.DenialsAreRecorded
  refine ⟨?registerWrite, ?lowHalfRead, ?dramRead, ?dramWrite, ?dramPartialWrite, ?flashRead, ?flashWrite, ?dmaWrite,
    ?reachPlain, ?reachPage⟩
  case registerWrite =>
    intro s m a n v poison hq hm ht hn ha hrefused
    exact gives_plain_denied (r := mkReq m a.toNat true false 4 (toLE 4 v.toNat) poison 0) hq hm rfl m.isLt rfl
      ⟨ht, alignOk_word n rfl ha, hrefused⟩ hn
  case lowHalfRead =>
    intro s m a n fetch hq hm ht hn ha hrefused
    exact gives_plain_denied (r := mkReq m a.toNat false fetch 4 [] false 0) hq hm rfl m.isLt rfl
      ⟨ht, alignOk_word n rfl ha, hrefused⟩ hn
  case dramRead =>
    intro s m a len fetch bad hq hm ht halign hfree hrefused
    exact gives_dram_denied (r := mkReq m a.toNat false fetch len [] false (b2n bad)) hq hm rfl m.isLt rfl
      (fun hpos => bne_iff_ne.mpr (Nat.ne_of_gt hpos)) ⟨ht, halign, hrefused⟩ hfree
  case dramWrite =>
    intro s m a data poison hq hm ht hlen halign hfree hrefused
    exact gives_dram_denied (r := mkReq m a.toNat true false data.length data poison 0) hq hm rfl m.isLt rfl
      (fun _ => beq_iff_eq.mpr hlen) ⟨ht, hlen ▸ halign, hrefused⟩ hfree
  case dramPartialWrite =>
    intro s m a data poison bads hq hm ht hlt halign hfree hrefused
    exact gives_dram_denied (r := mkReq m a.toNat true false data.length data poison bads) hq hm rfl m.isLt rfl
      (fun hpos => Bool.and_eq_true_iff.mpr ⟨bne_iff_ne.mpr (Nat.ne_of_gt hpos), decide_eq_true hlt⟩)
      ⟨ht, halign, hrefused⟩ hfree
  case flashRead =>
    intro s m a len fetch hq hm ht hidle halign hmiss hrefused
    have hfabric : flashWindowRead m a len fetch s
        = memIssue s 2 (len.val != 0) (mkReq m a.toNat false fetch len [] false 0) := by
      simp only [flashWindowRead, hmiss, ite_self]
    exact gives_flash_denied hq hm rfl m.isLt (congrArg _ hfabric) (fun hpos _ => bne_iff_ne.mpr (Nat.ne_of_gt hpos))
      ⟨ht, halign, hrefused⟩ hidle
  case flashWrite =>
    intro s m a data poison hq hm ht hidle halign hrefused
    exact gives_flash_denied (r := mkReq m a.toNat true false data.length data poison 0) hq hm rfl m.isLt rfl
      (fun hpos hle => Bool.and_eq_true_iff.mpr ⟨bne_iff_ne.mpr (Nat.ne_of_gt hpos), decide_eq_true hle⟩)
      ⟨ht, halign, hrefused⟩ hidle
  case dmaWrite =>
    intro s m a n data bads ht h
    rw [dmaWrite, dmaReq_denied bads ht h]
    exact ⟨rfl, denyRecord_denyKept m.isLt (aclKind_lt _), denyRecord_keeps s n m a 1⟩
  case reachPlain =>
    intro s r n hd hm ht hflash hn halign hfree hrefused
    have hreach : reach s r = plainRefuse s n r .errDenied := by
      by_cases hdram : n = 3
      · subst hdram
        exact reach_dram_refused ⟨ht, halign, hrefused⟩ (hfree rfl)
      · exact reach_plain_refused ⟨ht, halign, hrefused⟩ (by omega)
    have hdenied := plainRefuse_denied (s := s) (n := n) hd (Nat.lt_succ_of_lt hm)
    rw [hreach]
    exact ⟨hdenied.done, hdenied.recorded, hdenied.keeps⟩
  case reachPage =>
    intro s r n hd hpassed hm ht hn halign hrefused
    have h16 : r.master < 16 := Nat.lt_succ_of_lt hm
    have hdenied := page_denied (s := s) (n := n) hd h16
    rw [reach_page_refused ht hn halign hpassed hrefused]
    exact ⟨hdenied.done, hdenied.recorded, refuseReq_pageErr .errDenied h16 n _ _ _, hdenied.keeps⟩

end Sys2Proof.Machine
